-- ==== Sys2Proof/Word.lean ====
section
/-! DEFINITION. The machine's words: a byte, a 64-bit register value, and their plainest conversions (R8, R28). -/

namespace Sys2Proof

/-- A byte, the unit of every address space (R8). -/
abbrev Byte := BitVec 8

/-- The 64-bit value of a general register (R28). -/
abbrev Word := BitVec 64

/-- A 4-bit fray code (Table 19-1). -/
abbrev Code := BitVec 4

end Sys2Proof
end

