-- ==== Sys2Proof/Config.lean ====
section
/-! DEFINITION. What the manual leaves to an implementation, and the free values: constants without a body, so that
nothing can be proved of what they are (log 7, 8, 20, 26, 27, 31). -/

namespace Sys2Proof.Config

/-- A value the manual leaves undefined after an instruction that goes on, applied to the counter `State.fresh` (log 7). -/
opaque freeWord : Nat → Word

/-- The 52 payload bytes of a flit that the package sends, which the manual does not describe: applied to the counter `State.fresh`
(R418; log 31). -/
opaque flitPayload : Nat → BitVec 416

/-- The device address at which the firmware publishes the capability list, which `CTLR` of caph returns, and the BAR0 offset of the
signed identity record: the manual gives neither (R445; log 8). -/
opaque capFrame : BitVec 52
opaque identityOffset : BitVec 64

/-- The bytes of the snapshot window in BAR0, which the manual does not lay out: applied to the cycle that the window latched, if one is
held there, and the byte's place (R441, R446; log 26). -/
opaque snapshotByte : Option Nat → Nat → Byte

/-- The device address of the 64 KiB page that a page of BAR4's window shows, where it shows one: how the memory-manager mailbox names
it is not described (R427; log 27). -/
opaque windowFrame : Nat → Option Nat

/-- Whether a cluster's cache still holds a line that it once filled and that nothing has invalidated, applied to the counter
`State.fresh` (R26; log 3). -/
opaque holdsLine : Nat → Bool

/-- Whether a fetch whose held word differs from the stored one returns the held word, applied to the counter
`State.fresh` (R81; log 20). -/
opaque keepsHeldWord : Nat → Bool

end Sys2Proof.Config
end

