-- ==== Sys2Proof/Machine/Bits.lean ====
section
/-! DEFINITION. Bit fields, sign extension, byte order and small numeric helpers that the decoder and the meanings share. -/

namespace Sys2Proof

/-- The `len` bits of `w` from bit `lo` upwards. -/
def field (w lo len : Nat) : Nat := w / 2 ^ lo % 2 ^ len

/-- One bit of a number as a truth value. -/
def bitOf (w i : Nat) : Bool := w / 2 ^ i % 2 == 1

/-- The signed reading of the low `n` bits of a number (R8: two's complement). -/
def signed (n x : Nat) : Int :=
  if 2 * (x % 2 ^ n) < 2 ^ n then (x % 2 ^ n : Nat) else (x % 2 ^ n : Nat) - (2 ^ n : Nat)

/-- The low `n` bits of an integer, as a number. -/
def unsigned (n : Nat) (x : Int) : Nat := (x % (2 ^ n : Nat)).toNat

/-- The 64-bit pattern of an integer. -/
def ofInt (x : Int) : Word := BitVec.ofInt 64 x

/-- The little-endian number that a list of bytes spells (R8). -/
def leNat : List Byte → Nat
  | [] => 0
  | b :: bs => b.toNat + 256 * leNat bs

/-- The `n` bytes of a number, lowest first (R8). -/
def leBytes : Nat → Nat → List Byte
  | 0, _ => []
  | n + 1, x => BitVec.ofNat 8 x :: leBytes n (x / 256)

/-- Rounds `x` down to a multiple of `m`. -/
def alignDown (x m : Nat) : Nat := x / m * m

/-- The quotient rounded up. -/
def ceilDiv (x m : Nat) : Nat := (x + m - 1) / m

/-- The number of one bits among the low `n` bits. -/
def popCount : Nat → Nat → Nat
  | 0, _ => 0
  | n + 1, x => x % 2 + popCount n (x / 2)

/-- The low `n` bits in reverse order. -/
def bitReverse : Nat → Nat → Nat
  | 0, _ => 0
  | n + 1, x => (x % 2) * 2 ^ n + bitReverse n (x / 2)

/-- The number of trailing zero bits among the low `n` bits (`n` when all are zero). -/
def trailingZeros : Nat → Nat → Nat
  | 0, _ => 0
  | n + 1, x => if x % 2 = 1 then 0 else 1 + trailingZeros n (x / 2)

/-- The bit length of a number: 0 for 0, otherwise one more than the position of its top one bit. -/
def bitLength (x : Nat) : Nat := if x = 0 then 0 else Nat.log2 x + 1

/-- The integer square root by Newton's steps, `fuel` of them at most. -/
def isqrtLoop : Nat → Nat → Nat → Nat
  | 0, _, r => r
  | fuel + 1, x, r =>
    let r' := (r + x / r) / 2
    if r' < r then isqrtLoop fuel x r' else r

/-- The greatest `r` with `r * r ≤ x`. -/
def isqrt (x : Nat) : Nat :=
  if x = 0 then 0 else isqrtLoop (bitLength x + 8) x (2 ^ (bitLength x / 2 + 1))

/-- Whether every element of a list satisfies a test, and the positions `0 … n-1` that satisfy one. -/
def indices (n : Nat) (p : Nat → Bool) : List Nat := (List.range n).filter p

/-- A list begun at a position that the stage chooses. -/
def rotateList (n : Nat) (ps : List (Nat × Nat)) : List (Nat × Nat) :=
  if ps.isEmpty then [] else ps.drop (n % ps.length) ++ ps.take (n % ps.length)

end Sys2Proof
end

