-- ==== Sys2Proof/Machine/Fp.lean ====
section
/-! DEFINITION. The number formats of 03_numbers.md and their exact arithmetic: every operation computes an exact
value and rounds it once (R41 to R47). -/

namespace Sys2Proof.Fp

/-- The five sticky flags of st.FF (Table 03-5): NV DZ OF UF NX from bit 4 down to bit 0. -/
abbrev Flags := BitVec 5

def flagNV : Flags := 16#5
def flagDZ : Flags := 8#5
def flagOF : Flags := 4#5
def flagUF : Flags := 2#5
def flagNX : Flags := 1#5

/-- A binary floating format (Table 03-2): fraction bits, exponent bits, and its bias 2^(eb-1) - 1. -/
structure Fmt where
  frac : Nat
  eb : Nat
  deriving DecidableEq, Repr

def fp32 : Fmt := ⟨23, 8⟩
def fp16 : Fmt := ⟨10, 5⟩
def bf16 : Fmt := ⟨7, 8⟩

def bias (f : Fmt) : Nat := 2 ^ (f.eb - 1) - 1
def expOnes (f : Fmt) : Nat := 2 ^ f.eb - 1
def signBit (f : Fmt) : Nat := 2 ^ (f.frac + f.eb)
/-- The canonical quiet NaN (R39). -/
def canonNaN (f : Fmt) : Nat := expOnes f * 2 ^ f.frac + 2 ^ (f.frac - 1)
def infBits (f : Fmt) (neg : Bool) : Nat := (if neg then signBit f else 0) + expOnes f * 2 ^ f.frac
def maxFinite (f : Fmt) (neg : Bool) : Nat :=
  (if neg then signBit f else 0) + (expOnes f - 1) * 2 ^ f.frac + (2 ^ f.frac - 1)
def zeroBits (f : Fmt) (neg : Bool) : Nat := if neg then signBit f else 0

/-- What a pattern stands for (R38): a NaN (signalling or quiet), an infinity, or the exact value
(-1)^neg * m * 2^e. -/
inductive Val where
  | nan (signalling : Bool)
  | inf (neg : Bool)
  | fin (neg : Bool) (m : Nat) (e : Int)
  deriving DecidableEq, Repr

/-- The value of a pattern (R38). -/
def value (f : Fmt) (x : Nat) : Val :=
  let neg := bitOf x (f.frac + f.eb)
  let e := field x f.frac f.eb
  let frac := x % 2 ^ f.frac
  if e = expOnes f then
    if frac = 0 then .inf neg else .nan (frac < 2 ^ (f.frac - 1))
  else if e = 0 then .fin neg frac (1 - (bias f : Int) - f.frac)
  else .fin neg (2 ^ f.frac + frac) ((e : Int) - bias f - f.frac)

def isNaN : Val → Bool
  | .nan _ => true
  | _ => false

def isSignalling : Val → Bool
  | .nan s => s
  | _ => false

def isInf : Val → Bool
  | .inf _ => true
  | _ => false

def isZero : Val → Bool
  | .fin _ 0 _ => true
  | _ => false

def isNeg : Val → Bool
  | .nan _ => false
  | .inf n => n
  | .fin n _ _ => n

/-- NV for a signalling NaN operand (R39). -/
def nvOf (a : Val) : Flags := if isSignalling a then flagNV else 0

/-- Whether a magnitude with quotient `k` and remainder `lo` of 2^s steps up under a rounding code
(Table 03-3; code 4 is R42 with the random value `rho`). -/
def roundUp (mode rho : Nat) (neg : Bool) (k lo s : Nat) : Bool :=
  if lo = 0 then false
  else match mode with
    | 0 => decide (2 * lo > 2 ^ s) || (decide (2 * lo = 2 ^ s) && k % 2 == 1)
    | 2 => neg
    | 3 => !neg
    | 4 => decide (lo * 2 ^ 16 / 2 ^ s + rho ≥ 2 ^ 16)
    | _ => false

/-- The magnitude m * 2^e as a multiple of 2^q, rounded; and whether it was exact. -/
def roundAt (mode rho : Nat) (neg : Bool) (m : Nat) (e q : Int) : Nat × Bool :=
  if e ≥ q then (m * 2 ^ (e - q).toNat, true)
  else
    let s := (q - e).toNat
    let k := m / 2 ^ s
    let lo := m % 2 ^ s
    (if roundUp mode rho neg k lo s then k + 1 else k, lo == 0)

/-- The result of an overflow (Table 03-4). -/
def overflow (f : Fmt) (mode : Nat) (neg : Bool) : Nat :=
  match mode with
  | 1 => maxFinite f neg
  | 2 => if neg then infBits f true else maxFinite f false
  | 3 => if neg then maxFinite f true else infBits f false
  | _ => infBits f neg

/-- Rounds the non-zero value (-1)^neg * m * 2^e to a format (R41 to R43, R47). A tiny inexact result that is delivered as zero raises
UF with NX (DESIGN CHOICE: Table 03-5 does not say whether its "non-zero" result is the exact or the delivered one; log 86). -/
def roundFin (f : Fmt) (mode rho : Nat) (neg : Bool) (m : Nat) (e : Int) : Nat × Flags :=
  let top : Int := (bitLength m : Int) - 1 + e
  let emin : Int := 1 - (bias f : Int)
  let q : Int := (if top < emin then emin else top) - f.frac
  let (k, exact) := roundAt mode rho neg m e q
  let sgn := if neg then signBit f else 0
  -- the overflow of R43: the rounded magnitude reaches 2^(bias + 1)
  if (bitLength k : Int) - 1 + q > bias f then (overflow f mode neg, flagOF ||| flagNX)
  else
    let (k1, q1) := if k = 2 ^ (f.frac + 1) then (2 ^ f.frac, q + 1) else (k, q)
    let bits :=
      if k1 < 2 ^ f.frac then sgn + k1
      else sgn + (q1 + f.frac + bias f).toNat * 2 ^ f.frac + (k1 - 2 ^ f.frac)
    if exact then (bits, 0)
    else
      let (k2, _) := roundAt mode rho neg m e (top - f.frac)
      let tiny := (bitLength k2 : Int) - 1 + (top - f.frac) < emin
      (bits, if tiny then flagUF ||| flagNX else flagNX)

/-- Delivers an exact value in a format: the canonical NaN, an infinity, a zero of its sign, or the rounded value. -/
def deliver (f : Fmt) (mode rho : Nat) : Val → Nat × Flags
  | .nan _ => (canonNaN f, 0)
  | .inf n => (infBits f n, 0)
  | .fin n m e => if m = 0 then (zeroBits f n, 0) else roundFin f mode rho n m e

/-- `deliver` with flags already raised. -/
def deliverWith (f : Fmt) (mode rho : Nat) (v : Val × Flags) : Nat × Flags :=
  let r := deliver f mode rho v.1
  (r.1, r.2 ||| v.2)

/-- The signed integer of a finite value at a common exponent. -/
def scaledInt (n : Bool) (m : Nat) (e q : Int) : Int :=
  let x : Int := (m * 2 ^ (e - q).toNat : Nat)
  if n then -x else x

/-- The exact sum of two values with IEEE 754 signs of zero; an infinite difference raises NV. -/
def addVal (mode : Nat) (a b : Val) : Val × Flags :=
  match a, b with
  | .nan s, y => (.nan false, if s || isSignalling y then flagNV else 0)
  | x, .nan s => (.nan false, if s || isSignalling x then flagNV else 0)
  | .inf n, .inf k => if n = k then (.inf n, 0) else (.nan false, flagNV)
  | .inf n, .fin .. => (.inf n, 0)
  | .fin .., .inf n => (.inf n, 0)
  | .fin n m e, .fin n' m' e' =>
    if m = 0 ∧ m' = 0 then (.fin (if n = n' then n else mode = 2) 0 0, 0)
    else
      let q := if e ≤ e' then e else e'
      let x := scaledInt n m e q + scaledInt n' m' e' q
      if x = 0 then (.fin (mode = 2) 0 0, 0) else (.fin (x < 0) x.natAbs q, 0)

/-- The exact product; 0 times an infinity raises NV. -/
def mulVal (a b : Val) : Val × Flags :=
  match a, b with
  | .nan s, y => (.nan false, if s || isSignalling y then flagNV else 0)
  | x, .nan s => (.nan false, if s || isSignalling x then flagNV else 0)
  | .inf n, y => if isZero y then (.nan false, flagNV) else (.inf (n != isNeg y), 0)
  | x, .inf n => if isZero x then (.nan false, flagNV) else (.inf (n != isNeg x), 0)
  | .fin n m e, .fin n' m' e' => (.fin (n != n') (m * m') (e + e'), 0)

def negVal : Val → Val
  | .nan s => .nan s
  | .inf n => .inf (!n)
  | .fin n m e => .fin (!n) m e

def add (f : Fmt) (mode : Nat) (x y : Nat) : Nat × Flags :=
  deliverWith f mode 0 (addVal mode (value f x) (value f y))

def sub (f : Fmt) (mode : Nat) (x y : Nat) : Nat × Flags :=
  deliverWith f mode 0 (addVal mode (value f x) (negVal (value f y)))

def mul (f : Fmt) (mode : Nat) (x y : Nat) : Nat × Flags :=
  deliverWith f mode 0 (mulVal (value f x) (value f y))

/-- x * y + z, or x * y - z when `negate`, with one rounding. -/
def fma (f : Fmt) (mode : Nat) (negate : Bool) (x y z : Nat) : Nat × Flags :=
  let p := mulVal (value f x) (value f y)
  let c := value f z
  let s := addVal mode p.1 (if negate then negVal c else c)
  deliverWith f mode 0 (s.1, s.2 ||| p.2)

/-- The order of two non-NaN values: -1, 0 or 1, with +0 and -0 equal. -/
def compareVal (a b : Val) : Int :=
  match a, b with
  | .inf n, .inf k => if n = k then 0 else if n then -1 else 1
  | .inf n, _ => if n then -1 else 1
  | _, .inf n => if n then 1 else -1
  | .fin n m e, .fin n' m' e' =>
    let q := if e ≤ e' then e else e'
    let x := scaledInt n m e q
    let y := scaledInt n' m' e' q
    if x < y then -1 else if x = y then 0 else 1
  | _, _ => 0

/-- The order that maximum and minimum use: -0 is below +0 (R58, R105). -/
def compareZ (a b : Val) : Int :=
  let c := compareVal a b
  if c ≠ 0 then c
  else if isNeg a && !isNeg b then -1 else if !isNeg a && isNeg b then 1 else 0

/-- The magnitude m * 2^e rounded to an integer, and whether it was one already. -/
def toInteger (mode rho : Nat) (neg : Bool) (m : Nat) (e : Int) : Int × Bool :=
  let (k, exact) := roundAt mode rho neg m e 0
  (if neg then -(k : Int) else k, exact)

/-- The least and greatest value of an integer type of `w` bits (R36). -/
def intMin (w : Nat) (sgn : Bool) : Int := if sgn then -(2 ^ (w - 1) : Nat) else 0
def intMax (w : Nat) (sgn : Bool) : Int := if sgn then (2 ^ (w - 1) : Nat) - 1 else (2 ^ w : Nat) - 1

/-- A conversion from a floating value to an integer type (R45). -/
def toInt (mode rho w : Nat) (sgn : Bool) (v : Val) : Int × Flags :=
  match v with
  | .nan _ => (0, flagNV)
  | .inf n => (if n then intMin w sgn else intMax w sgn, flagNV)
  | .fin n m e =>
    let (x, exact) := toInteger mode rho n m e
    if x < intMin w sgn then (intMin w sgn, flagNV)
    else if x > intMax w sgn then (intMax w sgn, flagNV)
    else (x, if exact then 0 else flagNX)

/-- A conversion from an integer to a floating format (R46). -/
def ofInteger (f : Fmt) (mode rho : Nat) (x : Int) : Nat × Flags :=
  deliver f mode rho (.fin (x < 0) x.natAbs 0)

/-- A conversion between floating formats (R44). -/
def convert (src dst : Fmt) (mode rho : Nat) (x : Nat) : Nat × Flags :=
  let v := value src x
  deliverWith dst mode rho (v, nvOf v)

/-! ### SX blocks (R49 to R51) -/

/-- The mantissa bits of an SX type code (Table 03-6). -/
def sxP (t : Nat) : Nat := if t = 0xB then 7 else if t = 0xC then 4 else 2

/-- The bytes of a block of an SX type code. -/
def sxBytes (t : Nat) : Nat := if t = 0xB then 18 else if t = 0xC then 12 else 8

/-- Element j of a block held as a little-endian number (R49, R50). -/
def sxElement (t block j : Nat) : Val :=
  let p := sxP t
  let ex := block % 256
  let delta := field (block / 256) (2 * (j / 4)) 2
  let el := field (block / 65536) ((p + 1) * j) (p + 1)
  if ex = 255 then .nan false
  else .fin (bitOf el p) (el % 2 ^ p) ((ex : Int) - 127 - delta - (p - 1 : Nat))

/-- floor(log2 |x|) of a finite non-zero value. -/
def floorLog2 (m : Nat) (e : Int) : Int := (bitLength m : Int) - 1 + e

/-- The greatest floor(log2) of the non-zero finite values of a list. -/
def maxLog2 : List Val → Option Int
  | [] => none
  | v :: vs =>
    match v, maxLog2 vs with
    | .fin _ m e, r =>
      if m = 0 then r
      else match r with
        | none => some (floorLog2 m e)
        | some x => some (if floorLog2 m e > x then floorLog2 m e else x)
    | _, r => r

/-- The quartet shift delta (R51). -/
def sxDelta (ex : Nat) (q : List Val) : Nat :=
  match maxLog2 q with
  | none => 3
  | some l => Nat.min 3 (((ex : Int) - 127) - l).toNat

/-- One element of a conversion to SX (R51): its p + 1 bits and its flag. -/
def sxEncodeElement (p mode rho ex delta : Nat) (v : Val) : Nat × Flags :=
  match v with
  | .fin n m e =>
    let (k, exact) := roundAt mode rho false m e ((ex : Int) - 127 - delta - (p - 1 : Nat))
    let sat := decide (k > 2 ^ p - 1)
    ((if n then 2 ^ p else 0) + (if sat then 2 ^ p - 1 else k), if exact && !sat then 0 else flagNX)
  | _ => (0, 0)

/-- Packs elements of `w` bits, lowest first. -/
def packBits (w : Nat) : List Nat → Nat
  | [] => 0
  | x :: xs => x + 2 ^ w * packBits w xs

/-- A conversion of sixteen values to one SX block (R51), the block as a little-endian number. -/
def toSx (t mode : Nat) (rho : List Nat) (xs : List Val) : Nat × Flags :=
  let p := sxP t
  if xs.any isNaN || xs.any isInf then
    (255, if xs.any isInf || xs.any isSignalling then flagNV else 0)
  else
    let ex := match maxLog2 xs with
      | none => 0
      | some l => (l + 127).toNat
    let deltas := (List.range 4).map fun i => sxDelta ex ((xs.drop (4 * i)).take 4)
    let els := (List.range 16).map fun j =>
      sxEncodeElement p mode (rho.getD j 0) ex (deltas.getD (j / 4) 0) (xs.getD j (.fin false 0 0))
    (ex + 256 * packBits 2 deltas + 65536 * packBits (p + 1) (els.map (·.1)),
      els.foldl (fun fl x => fl ||| x.2) 0)

/-! ### The E8M2 scale and scaled accumulation (R52, R53) -/

/-- The value of a scale container (R52). -/
def scaleVal (x : Nat) : Val :=
  let e := field x 2 8
  if e = 255 then .nan false else .fin false (4 + x % 4) ((e : Int) - 127 - 2)

/-- c + s_a * s_b * q with one rounding to nearest even (R53). -/
def scaledAccumulate (c sa sb q : Nat) : Nat × Flags :=
  let a := scaleVal sa
  let b := scaleVal sb
  let vq := value fp32 q
  let vc := value fp32 c
  if isNaN a || isNaN b then (canonNaN fp32, flagNV)
  else
    let p := mulVal (mulVal a b).1 vq
    let s := addVal 0 vc p.1
    deliverWith fp32 0 0 (s.1, s.2 ||| p.2)

/-! ### Sums of a matrix product (R55, R56) -/

/-- The sum of a special group (R56). -/
def specialSum (ps : List (Val × Flags)) : Val :=
  let pos := ps.any fun p => match p.1 with | .inf false => true | _ => false
  let neg := ps.any fun p => match p.1 with | .inf true => true | _ => false
  if ps.any (fun p => isNaN p.1) || (pos && neg) then .nan false else .inf neg

/-- The truncated sum of a group of finite products, a multiple of 2^q, and whether a truncation lost bits. -/
def truncSum (q : Int) : List Val → Int × Bool
  | [] => (0, false)
  | v :: vs =>
    let r := truncSum q vs
    match v with
    | .fin n m e =>
      let k := roundAt 1 0 false m e q
      ((if n then -(k.1 : Int) else k.1) + r.1, r.2 || !k.2)
    | _ => r

/-- The sum of one group of products (R55). A group with a quiet NaN among its products that also holds infinities of both signs raises NV
for them (DESIGN CHOICE: R56 does not say; log 86). -/
def groupSum (ps : List (Val × Flags)) : Val × Flags :=
  let nv : Flags := ps.foldl (fun fl p => fl ||| p.2) 0
  let vs := ps.map (·.1)
  if vs.any isNaN || vs.any isInf then
    let s := specialSum ps
    let pos := vs.any fun p => match p with | .inf n => !n | _ => false
    let neg := vs.any fun p => match p with | .inf n => n | _ => false
    (s, nv ||| (if pos && neg then flagNV else 0))
  else match maxLog2 vs with
    | none => (.fin (vs.all isNeg) 0 0, nv)
    | some emax =>
      let (x, lost) := truncSum (emax - 40) vs
      let fl := nv ||| (if lost then flagNX else 0)
      if x = 0 then (.fin false 0 0, fl)
      else
        let r := roundFin fp32 0 0 (x < 0) x.natAbs (emax - 40)
        (value fp32 r.1, fl ||| r.2)

/-- One output element of a matrix product (R55): the accumulator, then the groups of products in ascending K. -/
def mmaElement : Nat → List (List (Val × Flags)) → Nat × Flags
  | c, [] => (c, 0)
  | c, g :: gs =>
    let s := groupSum g
    let r := deliverWith fp32 0 0 (addVal 0 (value fp32 c) s.1)
    let rest := mmaElement r.1 gs
    (rest.1, s.2 ||| r.2 ||| rest.2)

/-! ### Transcendental functions (R54)

Each function answers the exact value as a magnitude whose last bit stands for everything below it, taken far
below the precision of any destination format, so that the one rounding of `roundFin` is that of the exact value. -/

/-- 1 / (m * 2^e). -/
def rcpMag (m : Nat) (e : Int) : Nat × Int :=
  let k := bitLength m + 64
  (2 * (2 ^ k / m) + (if 2 ^ k % m = 0 then 0 else 1), -e - k - 1)

/-- The square root of m * 2^e. -/
def sqrtMag (m : Nat) (e : Int) : Nat × Int :=
  let k : Nat := 128 + (e % 2).toNat
  let x := m * 2 ^ k
  let r := isqrt x
  (2 * r + (if r * r = x then 0 else 1), (e - k) / 2 - 1)

/-- 1 / sqrt (m * 2^e). -/
def rsqrtMag (m : Nat) (e : Int) : Nat × Int :=
  -- m * 2^e = M * 2^(e - o) with e - o even
  let o := (e % 2).toNat
  let mm := m * 2 ^ o
  let k := bitLength mm + 64
  let r := isqrt (2 ^ (2 * k) / mm)
  (2 * r + (if r * r * mm = 2 ^ (2 * k) then 0 else 1), -((e - o) / 2) - k - 1)

/-- The first `n` binary places of log2 y for y = x / 2^p in [1, 2), by repeated squaring. -/
def log2Bits (p : Nat) : Nat → Nat → Nat → Nat
  | 0, _, acc => acc
  | n + 1, x, acc =>
    let y := x * x / 2 ^ p
    if y ≥ 2 ^ (p + 1) then log2Bits p n (y / 2) (2 * acc + 1) else log2Bits p n y (2 * acc)

/-- The binary places of a logarithm that are computed, and the width of the squares (log 19). -/
def logPlaces : Nat := 160
def logWidth : Nat := 448

/-- log2 (m * 2^e) for a positive value that is no power of two: sign, magnitude, exponent. -/
def log2Mag (m : Nat) (e : Int) : Bool × Nat × Int :=
  let l := bitLength m - 1
  let n : Int := (l : Int) + e
  let b := log2Bits logWidth logPlaces (m * 2 ^ (logWidth - l)) 0
  let t : Int := n * (2 ^ logPlaces : Nat) + b
  if t ≥ 0 then (false, 2 * t.toNat + 1, -(logPlaces : Int) - 1)
  else (true, 2 * (-t - 1).toNat + 1, -(logPlaces : Int) - 1)

/-- The product of the constants 2^(2^-i), i from 1 upwards, for the set bits of a fraction of `n` places;
`c` is the constant before, `p` the width. -/
def exp2Frac (p : Nat) : Nat → Nat → Nat → Nat → Nat
  | 0, _, _, acc => acc
  | n + 1, f, c, acc =>
    let c' := isqrt (c * 2 ^ p)
    exp2Frac p n f c' (if bitOf f n then acc * c' / 2 ^ p else acc)

/-- The width of the products of `exp2Frac`, and the low bits dropped from them (log 19). -/
def expWidth : Nat := 256
def expDrop : Nat := 64

/-- 2^x for the finite x = (-1)^neg * m * 2^e: magnitude and exponent of the result. -/
def exp2Mag (neg : Bool) (m : Nat) (e : Int) : Nat × Int :=
  if m = 0 then (1, 0)
  else if floorLog2 m e < -64 then
    (if neg then (2 ^ 81 - 1, -81) else (2 ^ 81 + 1, -81))
  else if floorLog2 m e ≥ 16 then
    (if neg then (1, -65536) else (1, 65536))
  else
    let places : Nat := (-e).toNat
    let x : Int := (if neg then -1 else 1) * (m * 2 ^ e.toNat : Nat)
    let n : Int := x / (2 ^ places : Nat)
    let f : Nat := (x % (2 ^ places : Nat)).toNat
    if f = 0 then (1, n)
    else
      let r := exp2Frac expWidth places f (2 ^ (expWidth + 1)) (2 ^ expWidth)
      (2 * (r / 2 ^ expDrop) + 1, n - (expWidth - expDrop : Nat) - 1)

/-- Table 03-8 for `VRCP`. -/
def rcp (f : Fmt) (mode : Nat) (x : Nat) : Nat × Flags :=
  match value f x with
  | .nan s => (canonNaN f, if s then flagNV else 0)
  | .inf n => (zeroBits f n, 0)
  | .fin n m e =>
    if m = 0 then (infBits f n, flagDZ)
    else let r := rcpMag m e; roundFin f mode 0 n r.1 r.2

/-- Table 03-8 for `VSQRT`. -/
def sqrt (f : Fmt) (mode : Nat) (x : Nat) : Nat × Flags :=
  match value f x with
  | .nan s => (canonNaN f, if s then flagNV else 0)
  | .inf n => if n then (canonNaN f, flagNV) else (infBits f false, 0)
  | .fin n m e =>
    if m = 0 then (zeroBits f n, 0)
    else if n then (canonNaN f, flagNV)
    else let r := sqrtMag m e; roundFin f mode 0 false r.1 r.2

/-- Table 03-8 for `VRSQ`. -/
def rsqrt (f : Fmt) (mode : Nat) (x : Nat) : Nat × Flags :=
  match value f x with
  | .nan s => (canonNaN f, if s then flagNV else 0)
  | .inf n => if n then (canonNaN f, flagNV) else (zeroBits f false, 0)
  | .fin n m e =>
    if m = 0 then (infBits f n, flagDZ)
    else if n then (canonNaN f, flagNV)
    else let r := rsqrtMag m e; roundFin f mode 0 false r.1 r.2

/-- Table 03-8 for `VLOG2`. -/
def log2 (f : Fmt) (mode : Nat) (x : Nat) : Nat × Flags :=
  match value f x with
  | .nan s => (canonNaN f, if s then flagNV else 0)
  | .inf n => if n then (canonNaN f, flagNV) else (infBits f false, 0)
  | .fin n m e =>
    if m = 0 then (infBits f true, flagDZ)
    else if n then (canonNaN f, flagNV)
    else if m = 2 ^ (bitLength m - 1) then
      ofInteger f mode 0 ((bitLength m : Int) - 1 + e)
    else let r := log2Mag m e; roundFin f mode 0 r.1 r.2.1 r.2.2

/-- Table 03-8 for `VEXP2`. -/
def exp2 (f : Fmt) (mode : Nat) (x : Nat) : Nat × Flags :=
  match value f x with
  | .nan s => (canonNaN f, if s then flagNV else 0)
  | .inf n => if n then (zeroBits f false, 0) else (infBits f false, 0)
  | .fin n m e => let r := exp2Mag n m e; roundFin f mode 0 false r.1 r.2

end Sys2Proof.Fp
end

