-- ==== Sys2Proof/Machine/Table.lean ====
section
/-! DEFINITION. Tables: lists of numbered records in rising order of their numbers, the plain-data form of every
sparse collection of the state. -/

namespace Sys2Proof

/-- A list of (number, record) pairs. -/
abbrev Tab (α : Type) := List (Nat × α)

/-- The record with number `k`. -/
def Tab.find {α : Type} : Tab α → Nat → Option α
  | [], _ => none
  | (j, v) :: t, k => if j = k then some v else Tab.find t k

/-- The record with number `k`, or a default. -/
def Tab.get {α : Type} (t : Tab α) (k : Nat) (d : α) : α := (Tab.find t k).getD d

/-- The table with `v` at `k`. -/
def Tab.put {α : Type} : Tab α → Nat → α → Tab α
  | [], k, v => [(k, v)]
  | (j, w) :: t, k, v =>
    if k < j then (k, v) :: (j, w) :: t
    else if j = k then (k, v) :: t
    else (j, w) :: Tab.put t k v

/-- The table without number `k`. -/
def Tab.del {α : Type} : Tab α → Nat → Tab α
  | [], _ => []
  | (j, w) :: t, k => if j = k then t else (j, w) :: Tab.del t k

/-- The table with `f` applied at `k`, where it holds one. -/
def Tab.modify {α : Type} : Tab α → Nat → (α → α) → Tab α
  | [], _, _ => []
  | (j, w) :: t, k, f => if j = k then (j, f w) :: t else (j, w) :: Tab.modify t k f

/-- The table with every record changed. -/
def Tab.mapAll {α : Type} (t : Tab α) (f : Nat → α → α) : Tab α := t.map fun p => (p.1, f p.1 p.2)

/-- Whether number `k` is present. -/
def Tab.has {α : Type} (t : Tab α) (k : Nat) : Bool := (Tab.find t k).isSome

end Sys2Proof
end

