-- ==== Sys2Proof/Syntax.lean ====
section
/-! DEFINITION. The steps of the Oztan package, one constructor for each row of the opcode table.

The rows with an encoding are the instruction words of Gweros; their arguments are the fields of the
word, each a number (a register number, a code, an unsigned field value), as R62 and the function tables
of 04_encoding.md cut the word.  `Instr.wellFormed` (WellFormed.lean) says which values a word may hold.

The rows without an encoding are the device's own indivisible steps (95_what_each_step_holds.md).  They
are not fetched.  Their arguments name what makes one step of that row: the number of an item in flight
(`id`), of an engine operation (`op`), of a strand (`sid`, context * 32768 + directory entry), a core
(die * 512 + cluster * 32 + quad * 4 + core), a quad (core / 4), a page, a port, or the operands and the
tag of a mailbox command. -/

namespace Sys2Proof

/-- One row of the opcode table (R61 to R79 for the encoded rows). -/
inductive Instr where
  /-- `ADD` (R100): Writes g[a] + g[b] modulo 2^64 into g[d]. -/
  | add (d a b : Nat)
  /-- `SUB` (R100): Writes g[a] - g[b] modulo 2^64 into g[d]. -/
  | sub (d a b : Nat)
  /-- `MUL` (R100): Writes the low 64 bits of the product into g[d]. -/
  | mul (d a b : Nat)
  /-- `MULH` (R100): Writes the high 64 bits of the signed product into g[d]. -/
  | mulh (d a b : Nat)
  /-- `MULHN` (R100): Writes the high 64 bits of the unsigned product into g[d]. -/
  | mulhn (d a b : Nat)
  /-- `DIV` (R101): Writes the signed quotient truncated toward zero, with defined results for the division corner cases. -/
  | div (d a b : Nat)
  /-- `DIVN` (R101): Writes the unsigned quotient into g[d]. -/
  | divn (d a b : Nat)
  /-- `REM` (R101): Writes the signed remainder, which has the sign of the dividend. -/
  | rem (d a b : Nat)
  /-- `REMN` (R101): Writes the unsigned remainder into g[d]. -/
  | remn (d a b : Nat)
  /-- `AND` (R100): Writes the bitwise AND of g[a] and g[b]. -/
  | and (d a b : Nat)
  /-- `OR` (R100): Writes the bitwise OR of g[a] and g[b]. -/
  | or (d a b : Nat)
  /-- `XOR` (R100): Writes the bitwise XOR of g[a] and g[b]. -/
  | xor (d a b : Nat)
  /-- `ANDN` (R100): Writes g[a] AND NOT g[b]. -/
  | andn (d a b : Nat)
  /-- `ORN` (R100): Writes g[a] OR NOT g[b]. -/
  | orn (d a b : Nat)
  /-- `SHL` (R100): Shifts g[a] left by g[b][5:0], filling with zeros. -/
  | shl (d a b : Nat)
  /-- `SHR` (R100): Shifts g[a] right logically by g[b][5:0]. -/
  | shr (d a b : Nat)
  /-- `SHA` (R100): Shifts g[a] right arithmetically by g[b][5:0]. -/
  | sha (d a b : Nat)
  /-- `ROT` (R100): Rotates g[a] left by g[b][5:0]. -/
  | rot (d a b : Nat)
  /-- `MIN` (R100): Writes the signed minimum of g[a] and g[b]. -/
  | min (d a b : Nat)
  /-- `MAX` (R100): Writes the signed maximum of g[a] and g[b]. -/
  | max (d a b : Nat)
  /-- `MINN` (R100): Writes the unsigned minimum of g[a] and g[b]. -/
  | minn (d a b : Nat)
  /-- `MAXN` (R100): Writes the unsigned maximum of g[a] and g[b]. -/
  | maxn (d a b : Nat)
  /-- `CLZ` (R100): Counts the leading zero bits of g[a]. -/
  | clz (d a : Nat)
  /-- `CTZ` (R100): Counts the trailing zero bits of g[a]. -/
  | ctz (d a : Nat)
  /-- `POPC` (R100): Counts the one bits of g[a]. -/
  | popc (d a : Nat)
  /-- `BREV` (R100): Reverses the bit order of g[a]. -/
  | brev (d a : Nat)
  /-- `SEL` (R100): Writes g[a] if g[c] is non-zero, otherwise g[b]. -/
  | sel (d a b c : Nat)
  /-- `MOV` (R100): Copies g[a] to g[d]. -/
  | mov (d a : Nat)
  /-- `ADDP` (R104): Adds an offset to a pointer with spread or segment carry, keeping the selector. -/
  | addp (d a b : Nat)
  /-- `CMP` (R100): Writes 1 if g[a] and g[b] satisfy the condition, otherwise 0. -/
  | cmp (d a b c : Nat)
  /-- `EXT` (R103): Extracts a bit field from g[a] and sign-extends it. -/
  | ext (d a l p : Nat)
  /-- `EXTN` (R103): Extracts a bit field from g[a] and zero-extends it. -/
  | extn (d a l p : Nat)
  /-- `INS` (R103): Inserts the low bits of g[a] into a field of g[d]. -/
  | ins (d a l p : Nat)
  /-- `ADDI` (R102): Adds a signed immediate to g[a]. -/
  | addi (d a i : Nat)
  /-- `ANDI` (R102): ANDs g[a] with a signed immediate. -/
  | andi (d a i : Nat)
  /-- `ORI` (R102): ORs g[a] with a signed immediate. -/
  | ori (d a i : Nat)
  /-- `XORI` (R102): XORs g[a] with a signed immediate. -/
  | xori (d a i : Nat)
  /-- `SHLI` (R102): Shifts g[a] left by an immediate amount. -/
  | shli (d a s : Nat)
  /-- `SHRI` (R102): Shifts g[a] right logically by an immediate amount. -/
  | shri (d a s : Nat)
  /-- `SHAI` (R102): Shifts g[a] right arithmetically by an immediate amount. -/
  | shai (d a s : Nat)
  /-- `LIH` (R102): Writes imm22 × 2^42 into g[d] without reading any register. -/
  | lih (d i : Nat)
  /-- `CMPI` (R102): Compares g[a] with a signed immediate under a condition. -/
  | cmpi (d a c i : Nat)
  /-- `FADD` (R105): Adds two FP32 values with one rounding. -/
  | fadd (d a b r : Nat)
  /-- `FSUB` (R105): Subtracts two FP32 values with one rounding. -/
  | fsub (d a b r : Nat)
  /-- `FMUL` (R105): Multiplies two FP32 values with one rounding. -/
  | fmul (d a b r : Nat)
  /-- `FFMA` (R105): Computes g[a] × g[b] + g[d] in FP32 with one rounding. -/
  | ffma (d a b r : Nat)
  /-- `FMIN` (R105): Writes the FP32 minimum, treating -0 as below +0. -/
  | fmin (d a b : Nat)
  /-- `FMAX` (R105): Writes the FP32 maximum, treating -0 as below +0. -/
  | fmax (d a b : Nat)
  /-- `FCMP` (R106): Compares two FP32 values under conditions 0 to 5, with NaN operands unordered. -/
  | fcmp (d a b c : Nat)
  /-- `FCVT` (R107): Converts a scalar between a floating type and another accepted type. -/
  | fcvt (d a b t s r : Nat)
  /-- `LD` (R108): Loads 1 to 8 bytes, sign-extended, into g[d]. -/
  | ld (d a w m o : Nat)
  /-- `LD_N` (R108): Loads 1 to 4 bytes, zero-extended, into g[d]. -/
  | ldN (d a w m o : Nat)
  /-- `ST` (R108): Stores the low bytes of g[d], writing poison when the data register is frayed. -/
  | st (d a w m o : Nat)
  /-- `LDP` (R109): Loads a pair of words or doublewords into g[d] and g[d+1]. -/
  | ldp (d a w m o : Nat)
  /-- `STP` (R109): Stores g[d] and g[d+1] as a pair. -/
  | stp (d a w m o : Nat)
  /-- `AMO_ADD` (R316): Atomically adds at the home and returns the old value. -/
  | amoAdd (o d a b w r : Nat)
  /-- `AMO_MIN` (R316): Atomic signed minimum at the home. -/
  | amoMin (o d a b w r : Nat)
  /-- `AMO_MAX` (R316): Atomic signed maximum at the home. -/
  | amoMax (o d a b w r : Nat)
  /-- `AMO_MINN` (R316): Atomic unsigned minimum at the home. -/
  | amoMinn (o d a b w r : Nat)
  /-- `AMO_MAXN` (R316): Atomic unsigned maximum at the home. -/
  | amoMaxn (o d a b w r : Nat)
  /-- `AMO_AND` (R316): Atomic AND at the home. -/
  | amoAnd (o d a b w r : Nat)
  /-- `AMO_OR` (R316): Atomic OR at the home. -/
  | amoOr (o d a b w r : Nat)
  /-- `AMO_XOR` (R316): Atomic XOR at the home. -/
  | amoXor (o d a b w r : Nat)
  /-- `AMO_SWAP` (R316): Atomic swap at the home. -/
  | amoSwap (o d a b w r : Nat)
  /-- `AMOC` (R317): Atomic compare-and-swap that returns the old value. -/
  | amoc (o d a b c w r : Nat)
  /-- `AMOF` (R318): Atomic FP32 add at the home. -/
  | amof (o d a b r : Nat)
  /-- `CLAIM` (R321): Adds a count to a doubleword counter and returns the base of the claimed range. -/
  | claim (o d a b r : Nat)
  /-- `FENCE` (R117): Orders the strand's earlier accesses before its later ones at a reach. -/
  | fence (r : Nat)
  /-- `PREF` (R115): Asks for a line to be brought into the cluster cache. -/
  | pref (a : Nat)
  /-- `PGADV` (R378): Passes page advice for a byte range to the memory-manager core. -/
  | pgadv (a b v : Nat)
  /-- `BR` (R118): Branches when g[a] compared with zero satisfies the condition. -/
  | br (c a o : Nat)
  /-- `JR` (R120): Jumps to g[a] + 4 × offset, subject to alignment. -/
  | jr (a o : Nat)
  /-- `BRC` (R119): Decrements g[a] and branches on the new value. -/
  | brc (c a o : Nat)
  /-- `JMP` (R120): Transfers control unconditionally. -/
  | jmp (o : Nat)
  /-- `CALL` (R120): Writes the return address into g15 and transfers control. -/
  | call (o : Nat)
  /-- `FORK` (R149): Spawns a strand at a pc-relative entry, splitting the issuer's share and returning a ticket. -/
  | fork (d o : Nat)
  /-- `FORKR` (R149): Spawns a strand at the entry held in g[b]. -/
  | forkr (d b : Nat)
  /-- `EXIT` (R150): Ends the strand, which then returns its share and retires. -/
  | exit
  /-- `YIELD` (R151): Takes a cancellation point and gives up issue to the other ready slots. -/
  | yield
  /-- `SEND` (R152): Sends a 64-bit value to a register of a strand or ticket, optionally with an acknowledgment. -/
  | send (d h v t k : Nat)
  /-- `SELF` (R153): Writes the strand's own handle into g[d]. -/
  | self (d : Nat)
  /-- `MODE` (R154): Returns the old st.MODE and sets the receivable-register bits. -/
  | mode (d m : Nat)
  /-- `EMPTY` (R155): Empties the named general registers. -/
  | empty (m : Nat)
  /-- `SOPEN` (R174): Opens a child scope with a landing pc and makes it current. -/
  | sopen (d s e o : Nat)
  /-- `SCLOSE` (R175): Returns the opener's share, waits for the scope to empty and writes its result. -/
  | sclose (d : Nat)
  /-- `SCANCEL` (R176): Cancels the scope named by g[h]. -/
  | scancel (h : Nat)
  /-- `SUCCEED` (R177): Sets the current scope's result to succeeded and marks the other members. -/
  | succeed
  /-- `SHIELD` (R178): Increments the shield depth. -/
  | shield
  /-- `UNSHIELD` (R178): Decrements the shield depth. -/
  | unshield
  /-- `CPT` (R178): Takes a cancellation point. -/
  | cpt
  /-- `SINFO` (R179): Reads one field of a scope record into g[d]. -/
  | sinfo (d h i : Nat)
  /-- `BINIT_COUNT` (R196): Initialises a barrier object in count mode. -/
  | binitCount (a : Nat)
  /-- `BINIT_BYTES` (R196): Initialises a barrier object in bytes mode. -/
  | binitBytes (a : Nat)
  /-- `BINIT_LOCK` (R196): Initialises a barrier object as a lock. -/
  | binitLock (a : Nat)
  /-- `BEXPECT` (R187): Arms a barrier phase to expect n arrivals or bytes. -/
  | bexpect (a b : Nat)
  /-- `BARRIVE` (R188): Arrives on a barrier with n = g[b]. -/
  | barrive (a b : Nat)
  /-- `BWAIT` (R198): Parks until the barrier completes, is cancelled short, or frays. -/
  | bwait (d a : Nat)
  /-- `BTEST` (R199): Reads a barrier's control word without parking. -/
  | btest (d a : Nat)
  /-- `LOCK` (R200): Acquires a lock, queueing by context priority if it is held. -/
  | lock (d a : Nat)
  /-- `UNLOCK` (R201): Releases a lock to the head of its queue. -/
  | unlock (a : Nat)
  /-- `WAITA` (R205): Parks until a doubleword differs from g[b] or a WAKEA names it. -/
  | waita (d a b : Nat)
  /-- `WAKEA` (R206): Wakes up to n WAITA waiters on a doubleword. -/
  | wakea (a b : Nat)
  /-- `MEND` (R355): Clears st.T and the fray bits of the named registers. -/
  | mend (m : Nat)
  /-- `MENDB` (R356): Re-arms a frayed barrier or lock as mended. -/
  | mendb (a : Nat)
  /-- `MENDM` (R357): Writes a clean zero 32-byte unit, replacing any poison. -/
  | mendm (a : Nat)
  /-- `FRAY` (R358): Frays a register, barrier, memory unit or scope with code 5. -/
  | fray (t k : Nat)
  /-- `VADD` (R249): Adds vector lanes. -/
  | vadd (d a b k t : Nat)
  /-- `VSUB` (R249): Subtracts vector lanes. -/
  | vsub (d a b k t : Nat)
  /-- `VMUL` (R249): Multiplies vector lanes. -/
  | vmul (d a b k t : Nat)
  /-- `VMIN` (R249): Takes the lane-wise minimum. -/
  | vmin (d a b k t : Nat)
  /-- `VMAX` (R249): Takes the lane-wise maximum. -/
  | vmax (d a b k t : Nat)
  /-- `VABS` (R249): Takes the lane-wise absolute value. -/
  | vabs (d a k t : Nat)
  /-- `VNEG` (R249): Negates each lane. -/
  | vneg (d a k t : Nat)
  /-- `VFMA` (R249): Computes va × vb + vd per lane with one rounding. -/
  | vfma (d a b k t : Nat)
  /-- `VFMS` (R249): Computes va × vb - vd per lane with one rounding. -/
  | vfms (d a b k t : Nat)
  /-- `VAND` (R250): Lane-wise bitwise AND. -/
  | vand (d a b k t : Nat)
  /-- `VOR` (R250): Lane-wise bitwise OR. -/
  | vor (d a b k t : Nat)
  /-- `VXOR` (R250): Lane-wise bitwise XOR. -/
  | vxor (d a b k t : Nat)
  /-- `VSHL` (R250): Lane-wise left shift. -/
  | vshl (d a b k t : Nat)
  /-- `VSHR` (R250): Lane-wise logical right shift. -/
  | vshr (d a b k t : Nat)
  /-- `VSHA` (R250): Lane-wise arithmetic right shift. -/
  | vsha (d a b k t : Nat)
  /-- `VSEL` (R251): Selects each lane from va or vb by the mask. -/
  | vsel (d a b k t : Nat)
  /-- `VCMP` (R252): Compares lanes and writes the results into a mask register. -/
  | vcmp (d a b k t c : Nat)
  /-- `VCVT` (R253): Converts lanes between element types, including SX blocks. -/
  | vcvt (d a b k t s : Nat)
  /-- `VLOG2` (R256): Computes log2 per lane. -/
  | vlog2 (d a k t : Nat)
  /-- `VEXP2` (R256): Computes 2^x per lane. -/
  | vexp2 (d a k t : Nat)
  /-- `VRCP` (R256): Computes the reciprocal per lane. -/
  | vrcp (d a k t : Nat)
  /-- `VRSQ` (R256): Computes the reciprocal square root per lane. -/
  | vrsq (d a k t : Nat)
  /-- `VSQRT` (R256): Computes the square root per lane. -/
  | vsqrt (d a k t : Nat)
  /-- `VRED_SUM` (R257): Reduces the active lanes by sum over the fixed tree. -/
  | vredSum (d a k t : Nat)
  /-- `VRED_MAX` (R257): Reduces the active lanes by maximum. -/
  | vredMax (d a k t : Nat)
  /-- `VRED_MIN` (R257): Reduces the active lanes by minimum. -/
  | vredMin (d a k t : Nat)
  /-- `VRED_MAXI` (R257): Reduces by maximum and carries the winning lane's index. -/
  | vredMaxi (d a k t : Nat)
  /-- `VRED_MINI` (R257): Reduces by minimum and carries the winning lane's index. -/
  | vredMini (d a k t : Nat)
  /-- `VSCAN_SUM` (R258): Writes the running sum to each active lane. -/
  | vscanSum (d a k t : Nat)
  /-- `VSCAN_MAX` (R258): Writes the running maximum to each active lane. -/
  | vscanMax (d a k t : Nat)
  /-- `VSCAN_MIN` (R258): Writes the running minimum to each active lane. -/
  | vscanMin (d a k t : Nat)
  /-- `VPERM` (R259): Permutes the lanes of va by the indices in vb. -/
  | vperm (d a b k t : Nat)
  /-- `VPERM_X2` (R259): Permutes over a two-register table. -/
  | vpermX2 (d a b k t : Nat)
  /-- `VSHUF` (R260): Interleaves the low halves of va and vb. -/
  | vshuf (d a b k t : Nat)
  /-- `VBCAST` (R261): Broadcasts the low bits of a general register into the active lanes. -/
  | vbcast (d a k t : Nat)
  /-- `VMOV` (R261): Copies the active lanes of one register. -/
  | vmov (d a k t : Nat)
  /-- `VMOV_X2` (R261): Copies two consecutive registers. -/
  | vmovX2 (d a k t : Nat)
  /-- `VMOV_X4` (R261): Copies four consecutive registers. -/
  | vmovX4 (d a k t : Nat)
  /-- `VINS` (R261): Inserts a general register value into one lane. -/
  | vins (d a b t : Nat)
  /-- `VEXT` (R261): Extracts one lane into a general register. -/
  | vext (d a b t : Nat)
  /-- `VLD` (R262): Loads the active lanes with unit stride from memory or a buffer. -/
  | vld (d a k t s : Nat)
  /-- `VST` (R262): Stores the active lanes with unit stride. -/
  | vst (d a k t s : Nat)
  /-- `VST_BND` (R266): Stores the active lanes with a check against a bound register. -/
  | vstBnd (d a b k t s : Nat)
  /-- `VLDS` (R262): Strided vector load. -/
  | vlds (d a b k t s : Nat)
  /-- `VSTS` (R262): Strided vector store. -/
  | vsts (d a b k t s : Nat)
  /-- `VGATH` (R262): Gathers lanes through an index vector. -/
  | vgath (d a b k t s : Nat)
  /-- `VSCAT` (R262): Scatters lanes through an index vector. -/
  | vscat (d a b k t s : Nat)
  /-- `KAND` (R268): ANDs two masks. -/
  | kand (d a b : Nat)
  /-- `KOR` (R268): ORs two masks. -/
  | kor (d a b : Nat)
  /-- `KXOR` (R268): XORs two masks. -/
  | kxor (d a b : Nat)
  /-- `KNOT` (R268): Complements a mask. -/
  | knot (d a : Nat)
  /-- `KMOV` (R268): Copies a mask. -/
  | kmov (d a : Nat)
  /-- `KMOV_G` (R268): Builds a mask from two general registers. -/
  | kmovG (d a b : Nat)
  /-- `KMOV_LO` (R268): Copies mask bits [63:0] into a general register. -/
  | kmovLo (d a : Nat)
  /-- `KMOV_HI` (R268): Copies mask bits [127:64] into a general register. -/
  | kmovHi (d a : Nat)
  /-- `KPOP` (R268): Counts the one bits of a mask. -/
  | kpop (d a : Nat)
  /-- `MMA` (R278): Queues a matrix product that accumulates into a C tile. -/
  | mma (s t c a b p : Nat)
  /-- `MMAS` (R278): Queues a matrix product that writes a partial tile for MXS. -/
  | mmas (s t c a b p : Nat)
  /-- `MMAG` (R280): Queues a grouped product with a different W tile per row group, checking the offset vector at issue. -/
  | mmag (s t c a b p v : Nat)
  /-- `MXS` (R281): Queues scaled accumulation of a partial tile with E8M2 scales. -/
  | mxs (c a b p : Nat)
  /-- `MZERO` (R282): Queues zeroing of a C tile. -/
  | mzero (c : Nat)
  /-- `MRD` (R283): Moves C tile rows into vector registers. -/
  | mrd (r c a v : Nat)
  /-- `MWR` (R283): Moves vector registers into C tile rows. -/
  | mwr (r c a v : Nat)
  /-- `LDT` (R284): Queues a transposing load of a 32×32 tile from scratchpad into buffer A. -/
  | ldt (t a b w : Nat)
  /-- `MSLOT` (R287): Replaces the quad's MVU slot table. -/
  | mslot (a : Nat)
  /-- `COPY` (R304): Issues a linear copy engine command that reports to a barrier. -/
  | copy (x r d a b c : Nat)
  /-- `COPY_T` (R307): Issues a tensor copy described by a 64-byte descriptor. -/
  | copyT (x r d a b c : Nat)
  /-- `COPY_TAG` (R309): Issues a copy into buffer A that tags the slots it fills. -/
  | copyTag (x r d a b c q : Nat)
  /-- `SELP` (R334): Issues a predicate selection request. -/
  | selp (x r a : Nat)
  /-- `SELK` (R334): Issues a top-k selection request. -/
  | selk (x r a : Nat)
  /-- `SELR` (R335): Issues a per-row top-k routing request with weights and histogram. -/
  | selr (x r a : Nat)
  /-- `NOP` (R124): Takes one issue opportunity and changes only pc. -/
  | nop
  /-- `TRAP` (R121): Raises a precise trap with cause TRAP. -/
  | trap (n : Nat)
  /-- `BKPT` (R121): Raises a precise trap with cause BKPT. -/
  | bkpt (n : Nat)
  /-- `TIME` (R122): Reads the package time base. -/
  | time (d : Nat)
  /-- `CTLR` (R125): Reads a control register. -/
  | ctlr (d n : Nat)
  /-- `CTLW` (R125): Writes a writable control register. -/
  | ctlw (a n : Nat)
  /-- `SNAP` (R123): Raises the common snapshot trigger when the context holds the right. -/
  | snap
  /-- `BNDSET` (R360): Writes a bound register's bounds, mode and tag. -/
  | bndset (a b m r : Nat)
  /-- `GANG_ENTER` (R290): Enters a gang rendezvous with a gang word. -/
  | gangEnter (a : Nat)
  /-- `GANG_EXIT` (R297): Leaves the gang once held loads have filled. -/
  | gangExit
  /-- `AT` (R294): Delays the next instruction until the virtual cycle counter reaches g[a]. -/
  | atVcc (a : Nat)
  /-- `KLAUNCH` (R405): Launches a kernel from a launch block and returns the new kernel root handle. -/
  | klaunch (d a b : Nat)
  /-- `PAIR` (R88): Executes two dictionary entries in order. -/
  | pair (i j : Nat)
  /-- `HINT_IMM` (R84): Supplies an immediate extension for the instruction that follows. -/
  | hintImm (x : Nat)
  /-- `HINT_LAT` (R85): Declares the load latency used inside a gang. -/
  | hintLat (l : Nat)
  /-- `HINT_MOD` (R86): Supplies rounding and saturation to a V-format instruction. -/
  | hintMod (s p r : Nat)
  /-- `LOAD_DATA_RETURN` (R97): Data of a load, remote request or vector element returns and fills its destination. -/
  | loadDataReturn (id : Nat)
  /-- `REMOTE_SCRATCHPAD_REQUEST` (R34): A remote request is served at the home of the requesting context's scratchpad region. -/
  | remoteScratchpadRequest (id : Nat)
  /-- `BANK_RETENTION_ENTRY` (R30): The power core starts re-encoding an idle bank into low-voltage retention. -/
  | bankRetentionEntry (core bank : Nat)
  /-- `BANK_RETENTION_EXIT` (R30): The power core starts taking a bank out of retention. -/
  | bankRetentionExit (core bank : Nat)
  /-- `RETENTION_TRANSITION_DONE` (R31): A retention entry or exit ends after 8,000 cycles, releasing the accesses that waited. -/
  | retentionTransitionDone (core bank : Nat)
  /-- `REGION_SAVE_DONE` (R33): The save of a claimed 4 KiB region completes and the region is handed over. -/
  | regionSaveDone (region : Nat)
  /-- `REGION_RESTORE_DONE` (R33): The restore of a claimed region completes and its waiting access proceeds. -/
  | regionRestoreDone (region : Nat)
  /-- `RECORD_POP` (R142): An idle slot takes the youngest spawn record from its own core's spool. -/
  | recordPop (core slot : Nat)
  /-- `RECORD_STEAL` (R143): An idle slot steals the oldest eligible record from a victim within the steal reach. -/
  | recordSteal (core slot : Nat)
  /-- `STRAND_SETUP_DONE` (R144): A placed strand's setup ends, and it either starts running or goes to cancelling when its scope has marked it. -/
  | strandSetupDone (sid : Nat)
  /-- `MIGRATION_DEPART` (R138): A roaming strand whose returns are all in leaves rotation as a migration message. -/
  | migrationDepart (sid : Nat)
  /-- `MIGRATION_ARRIVAL` (R138): A migration message reaches the destination core and is taken or queued. -/
  | migrationArrival (id : Nat)
  /-- `ARRIVAL_QUEUE_TAKE` (R138): A queued migration arrival is taken into a freed slot, ahead of pops and steals. -/
  | arrivalQueueTake (core slot : Nat)
  /-- `STRAND_RETIRE` (R150): A cancelling strand whose returns are in returns its share, frees its entry and ticket, and retires. -/
  | strandRetire (sid : Nat)
  /-- `MESSAGE_ARRIVAL` (R147): A sent message reaches its target and is delivered, held, bounced or discarded. -/
  | messageArrival (id : Nat)
  /-- `SEND_ACK_RETURN` (R152): A SEND acknowledgment returns and fills the sender's register. -/
  | sendAckReturn (id : Nat)
  /-- `EAGER_COUNT_EXPIRY` (R171): The eager instruction count reaches 4,096 and forces a cancellation point. -/
  | eagerCountExpiry (sid : Nat)
  /-- `SHARE_RETURN` (R162): A member's share return reaches the scope's home and is added to its units. -/
  | shareReturn (id : Nat)
  /-- `BORROW_REQUEST` (R162): A member at exponent 0 sends its unit to the home, which grants 2^j units when it can. -/
  | borrowRequest (id : Nat)
  /-- `BORROW_GRANT` (R162): A borrow grant reaches the member, which completes its split. -/
  | borrowGrant (id : Nat)
  /-- `CANCEL_ARRIVAL` (R164): A cancel reaches a scope record, which marks its members and forwards the cancel. -/
  | cancelArrival (id : Nat)
  /-- `CHILD_LINK_ARRIVAL` (R164): A new child's link reaches its parent, and the parent cancels the child if it is cancelling. -/
  | childLinkArrival (id : Nat)
  /-- `BARRIER_HOME_OPERATION` (R184): A barrier, lock, WAITA or WAKEA request is performed at the object's home. -/
  | barrierHomeOperation (id : Nat)
  /-- `BWAIT_REPLY` (R198): A barrier reply reaches a parked BWAIT and fills its result. -/
  | bwaitReply (id : Nat)
  /-- `LOCK_GRANT` (R200): A lock grant or fray reply reaches a queued LOCK. -/
  | lockGrant (id : Nat)
  /-- `ENGINE_BARRIER_PROBE` (R189): An engine operation probes its barrier before its first byte and is refused if the barrier is unusable. -/
  | engineBarrierProbe (op : Nat)
  /-- `ENGINE_ARRIVAL` (R188): An engine operation's arrival is applied at its barrier's home. -/
  | engineArrival (id : Nat)
  /-- `DONATION_EVENT` (R203): The scheduling core receives a priority-donation event and runs the lock holder's context. -/
  | donationEvent (id core : Nat)
  /-- `WAITA_POLL` (R204): An overflow WAITA re-reads its doubleword every 256 cycles. -/
  | waitaPoll (sid : Nat)
  /-- `CROSS_DIE_WRITE_APPLY` (R223): A die applies a waiting stamped write or invalidation once its vector clock allows. -/
  | crossDieWriteApply (id : Nat)
  /-- `D2D_FLIT_RETRY` (R225): A die-to-die link retries a flit that failed its check. -/
  | d2dFlitRetry (link : Nat)
  /-- `PACKAGE_FAULT` (R225): After 64 failed retries every die stops issue and the package is held for reset. -/
  | packageFault (link : Nat)
  /-- `FENCE_DRAIN_COMPLETE` (R217): A fence's earlier accesses have reached its reach, and later accesses may proceed. -/
  | fenceDrainComplete (sid : Nat)
  /-- `GANG_LOAD_DUE` (R293): The VCC reaches a gang load's due cycle and its destination is filled. -/
  | gangLoadDue (id : Nat)
  /-- `AT_TARGET_REACHED` (R294): The VCC reaches an AT target and the held instruction issues. -/
  | atTargetReached (sid : Nat)
  /-- `GANG_PAUSE_TIMEOUT` (R296): A run of 65,536 paused cycles aborts the gang. -/
  | gangPauseTimeout (gang : Nat)
  /-- `GANG_RENDEZVOUS_TIMEOUT` (R296): A rendezvous still incomplete after 65,536 cycles aborts the gang. -/
  | gangRendezvousTimeout (gang : Nat)
  /-- `MVU_DISPATCH_OPPORTUNITY` (R286): In a cycle when the MVU is free, the slot table picks a core's queued operation to start. -/
  | mvuDispatchOpportunity (quad : Nat)
  /-- `MVU_OPERATION_DONE` (R273): An MVU operation ends, its writes stand and its flags merge. -/
  | mvuOperationDone (quad : Nat)
  /-- `MMAG_GROUP_STEP_DONE` (R280): One group step of an MMAG ends. -/
  | mmagGroupStepDone (quad : Nat)
  /-- `COPY_OPERATION_START` (R303): A queued command enters the cluster copy engine when an operation place frees. -/
  | copyOperationStart (op : Nat)
  /-- `COPY_PROGRESS` (R313): The done offset advances by 65,536 bytes and a bytes-mode arrival is sent. -/
  | copyProgress (op : Nat)
  /-- `COPY_COMPLETE` (R312): A copy writes its last unit, makes its final arrival and returns its share. -/
  | copyComplete (op : Nat)
  /-- `COPY_FAIL` (R311): An unresolvable fault ends a copy with a frayed final arrival. -/
  | copyFail (op : Nat)
  /-- `COPY_STOP` (R314): A marked copy stops at a chunk boundary and arrives clean; of the chunks it has begun beyond
  the boundary it finishes the first `chunks`. -/
  | copyStop (op chunks : Nat)
  /-- `AFTER_PREDECESSORS_ENDED` (R236): An .after command begins once all earlier engine commands have ended, or is stopped by their failure. -/
  | afterPredecessorsEnded (op : Nat)
  /-- `ENGINE_FAULT_PARK` (R310): An engine request that meets a resolvable fault parks in the home die's fault queue. -/
  | engineFaultPark (op : Nat)
  /-- `FAULT_REPLAY` (R310): A parked engine or atomic request is replayed after repair. -/
  | faultReplay (id : Nat)
  /-- `ATOMIC_AT_HOME` (R316): An atomic or claim performs its read-modify-write at the home. -/
  | atomicAtHome (id : Nat)
  /-- `ATOMIC_RESULT_RETURN` (R315): The old value of an atomic or claim returns and fills g[d]. -/
  | atomicResultReturn (id : Nat)
  /-- `CLAIM_STAGE_ARRIVAL` (R322): A claim reaches a combining stage and is combined with equal claims. -/
  | claimStageArrival (id : Nat)
  /-- `CLAIM_COMBINE_TIMEOUT` (R322): A claim's 64-cycle wait at a stage ends and the combined claim is forwarded. -/
  | claimCombineTimeout (id : Nat)
  /-- `CLAIM_REPLY_SPLIT` (R322): A stage shares a returned base out among its requesters. -/
  | claimReplySplit (id : Nat)
  /-- `SELECTION_REQUEST_START` (R326): The merger takes a queued selection request and splits it among stacks. -/
  | selectionRequestStart (op : Nat)
  /-- `SELECTION_PIECE_SCAN` (R326): An engine scans one 4 KiB piece of a request's region. -/
  | selectionPieceScan (op stack : Nat)
  /-- `SELECTION_PARTIAL_ARRIVAL` (R338): An engine's partial result reaches the merger and is merged. -/
  | selectionPartialArrival (op stack : Nat)
  /-- `SELECTION_OUTPUT_WRITE` (R337): The merger writes the output and makes the request's final arrival. -/
  | selectionOutputWrite (op : Nat)
  /-- `SELECTION_FAIL` (R339): An unresolvable fault fails a request with no output. -/
  | selectionFail (op : Nat)
  /-- `SELECTION_STOP` (R341): A marked request stops before its first output write. -/
  | selectionStop (op : Nat)
  /-- `ROW_REMAP` (R364): The base die starts remapping a failing row, or refuses when the CAM is full. -/
  | rowRemap (controller row spare : Nat)
  /-- `ROW_REMAP_DONE` (R364): A row remap copy ends and parked accesses resume. -/
  | rowRemapDone (controller row : Nat)
  /-- `HBM_SCRUB_PASS` (R365): The 24-hour scrub of a stack reads every sector and corrects or poisons it. -/
  | hbmScrubPass (stack : Nat)
  /-- `SRAM_SCRUB_PASS` (R365): The once-a-second scrub reads every SRAM word of a die. -/
  | sramScrubPass (die : Nat)
  /-- `PAGE_WALK` (R373): The die's walker resolves a TLB miss, filling the TLB or signalling a fault. -/
  | pageWalk (sid : Nat)
  /-- `PAGE_FAULT_REQUEST` (R373): The memory-manager core receives a resolvable fault request for a page. -/
  | pageFaultRequest (id : Nat)
  /-- `PAGE_REPAIR_DONE` (R373): A page becomes resident, or poisoned if repair is impossible, and the faulted strands are woken. -/
  | pageRepairDone (ctx va frame : Nat)
  /-- `REPAIR_WAKE` (R373): A repair wake reaches a faulted-out strand, which reissues its instruction. -/
  | repairWake (id : Nat)
  /-- `PAGE_MIGRATION_START` (R372): The firmware starts moving a resident or pinned page to another frame. -/
  | pageMigrationStart (ctx va frame : Nat)
  /-- `PAGE_MIGRATION_COPY_END` (R372): A page migration copy ends and the page returns to its former state. -/
  | pageMigrationCopyEnd (ctx va : Nat)
  /-- `PAGE_SPILL` (R372): A resident page is spilled to storage under memory pressure. -/
  | pageSpill (ctx va : Nat)
  /-- `PAGE_ADVICE_EVENT` (R378): The memory-manager core applies one advice event to a named page. -/
  | pageAdviceEvent (id frame : Nat)
  /-- `SHOOTDOWN` (R376): Writes a new leaf and invalidates TLBs and fetch buffers for a withdrawal. -/
  | shootdown (ctx va leaf : Nat)
  /-- `SHOOTDOWN_COMPLETE` (R376): A shootdown completes once every access holding the old leaf is performed or parked. -/
  | shootdownComplete (ctx va : Nat)
  /-- `MESH_INTERRUPT` (R385): A mesh interrupt stops issue on a core and starts pre-emption. -/
  | meshInterrupt (core : Nat)
  /-- `PREEMPT_RELEASE` (R385): After the MVU and datapath drain, the core state is saved and the core is released. -/
  | preemptRelease (core : Nat)
  /-- `IMAGE_RESUME` (R388): The scheduler resumes a switched-out image and redelivers its spill queue. -/
  | imageResume (ctx home core : Nat)
  /-- `QUANTUM_EXPIRY` (R384): A context's time slice ends and an equal-priority context takes the core. -/
  | quantumExpiry (core : Nat)
  /-- `SEGMENT_INTERRUPT` (R391): A running core takes a new segment table at its next instruction boundary. -/
  | segmentInterrupt (core : Nat)
  /-- `DEFINE` (R381): Defines a context from a descriptor and creates its root. -/
  | define (tag addr : Nat)
  /-- `SETSEG` (R391): Replaces a context's segment table. -/
  | setseg (tag ctx addr : Nat)
  /-- `SETPRIO` (R392): Changes a context's priority and quantum. -/
  | setprio (tag ctx prio quantum : Nat)
  /-- `SUSPEND` (R394): Pre-empts every running image of a context and leaves it suspended. -/
  | suspend (tag ctx : Nat)
  /-- `RESUME` (R383): Makes a suspended context resident again. -/
  | resume (tag ctx : Nat)
  /-- `TEARDOWN` (R395): Tears down a context and releases everything it holds. -/
  | teardown (tag ctx : Nat)
  /-- `MENDROOT` (R393): Returns a frayed context root to open when it has no open child. -/
  | mendroot (tag ctx : Nat)
  /-- `KEYSET` (R444): Sets a context's LMS kernel key. -/
  | keyset (tag ctx addr : Nat)
  /-- `LOAD` (R399): Registers a kernel object and starts its verification. -/
  | load (tag ctx addr : Nat)
  /-- `KERNEL_PINNING_DONE` (R399): Pinning of a verified kernel ends and the kernel becomes resident. -/
  | kernelPinningDone (ctx kernel : Nat)
  /-- `UNLOAD` (R399): Retires a kernel, or drains it while roots are open. -/
  | unload (tag ctx kernel : Nat)
  /-- `KERNEL_ROOT_CLOSE` (R404): The firmware retires a closed kernel root, writes its result and arrives on the launch barrier. -/
  | kernelRootClose (ctx root : Nat)
  /-- `CREATE` (R408): Creates a queue from a descriptor. -/
  | create (tag addr : Nat)
  /-- `DESTROY` (R409): Destroys a queue. -/
  | destroy (tag queue : Nat)
  /-- `RESUMEQ` (R416): Resumes a faulted queue, either skipping or retrying the refused command. -/
  | resumeq (tag queue skip : Nat)
  /-- `QUEUE_WAKE_WRITE` (R411): A write to a queue's wake word stores the new tail and maps the queue if needed. -/
  | queueWakeWrite (queue tail : Nat)
  /-- `QUEUE_MAP_DONE` (R409): A queue's save area is loaded into its slot. -/
  | queueMapDone (queue : Nat)
  /-- `QUEUE_PAGE_IN_DONE` (R411): A paged-out queue's save area is read back from storage. -/
  | queuePageInDone (queue : Nat)
  /-- `QUEUE_WAIT_EVICT_TIMEOUT` (R410): A queue parked on WAIT for 1 ms becomes evictable. -/
  | queueWaitEvictTimeout (queue : Nat)
  /-- `QUEUE_PAGE_OUT` (R409): A queue unmapped for 10 ms is written out to storage. -/
  | queuePageOut (queue : Nat)
  /-- `QUEUE_LAUNCH` (R412): A ring LAUNCH command launches a kernel. -/
  | queueLaunch (queue : Nat)
  /-- `QUEUE_COPY` (R412): A ring COPY command issues a copy as a member of the context root. -/
  | queueCopy (queue : Nat)
  /-- `QUEUE_SIGNAL` (R412): A ring SIGNAL command arrives on a barrier, stores a release, or wakes waiters. -/
  | queueSignal (queue : Nat)
  /-- `QUEUE_WAIT` (R412): A ring WAIT command waits on a barrier or doubleword. -/
  | queueWait (queue : Nat)
  /-- `QUEUE_TIMESTAMP` (R412): A ring TIMESTAMP command writes the time base. -/
  | queueTimestamp (queue : Nat)
  /-- `QUEUE_WAIT_SATISFIED` (R412): A WAIT's condition holds and the command completes with an acquire. -/
  | queueWaitSatisfied (queue n : Nat)
  /-- `QUEUE_COMMAND_COMPLETE` (R413): A started command completes, the status is updated and a fenced successor may start. -/
  | queueCommandComplete (queue n : Nat)
  /-- `MAP` (R369): Supplies a leaf entry for a context's virtual page. -/
  | map (tag ctx va leaf : Nat)
  /-- `LEAF` (R369): Reads back a context's leaf entry. -/
  | leaf (tag ctx va : Nat)
  /-- `LOGREAD` (R362): Reads a fray log entry. -/
  | logread (tag index : Nat)
  /-- `QUIESCE` (R419): Quiesces a Weave port once every sent flit is acknowledged. -/
  | quiesce (tag port : Nat)
  /-- `UNQUIESCE` (R419): Returns a quiesced port to up or degraded. -/
  | unquiesce (tag port : Nat)
  /-- `RETRAIN` (R419): Starts training a port. -/
  | retrain (tag port : Nat)
  /-- `ROUTE` (R420): Loads the route of ports to a remote package. -/
  | route (tag package mask : Nat)
  /-- `STEP` (R447): Sets the package power level and its cap. -/
  | step (tag level : Nat)
  /-- `POWER_STEP_SETTLED` (R447): The new power cap holds within 200 µs of the doorbell. -/
  | powerStepSettled
  /-- `ARM` (R446): Sets the fray code that triggers a snapshot. -/
  | arm (tag code : Nat)
  /-- `RELEASE` (R446): Releases the held snapshot window. -/
  | release (tag : Nat)
  /-- `MAILBOX_UNKNOWN_CODE` (R440): A mailbox command with an unknown code is answered with status 2. -/
  | mailboxUnknownCode (core tag code : Nat)
  /-- `REGISTER_WRITE` (R440): A write to a BAR register with no behaviour of its own stores the value. -/
  | registerWrite (bar offset value : Nat)
  /-- `SNAP_PIN` (R446): A rising edge on the SNAP pin triggers a snapshot. -/
  | snapPin
  /-- `MGMT_SNAPSHOT_TRIGGER` (R446): The management port triggers a snapshot. -/
  | mgmtSnapshotTrigger
  /-- `RESET` (R442): Reset starts the boot sequence on the boot core. -/
  | reset
  /-- `BOOT_STEP_DONE` (R442): A boot step ends, successfully or with a journalled failure. -/
  | bootStepDone (unit ok : Nat)
  /-- `JOURNAL_COMMIT` (R443): A staged boot journal record is committed to board flash. -/
  | journalCommit
  /-- `POWER_FAIL` (R448): Board power fails, issue stops everywhere and control state drains to flash. -/
  | powerFail
  /-- `POWER_FAIL_DRAIN_DONE` (R448): The 48 MiB drain to board flash ends. -/
  | powerFailDrainDone
  /-- `FLIT_RECEIVE` (R418): A Weave flit arrives and is accepted or answered with a retry request. -/
  | flitReceive (port : Nat) (flit : List Nat)
  /-- `LANE_REMOVAL` (R419): A flit retried 16 times removes the failing lane and degrades the port. -/
  | laneRemoval (port : Nat)
  /-- `PORT_RETRY_LIMIT` (R419): 64 retries of a flit, or too few lanes left, make the port dead. -/
  | portRetryLimit (port : Nat)
  /-- `PORT_SILENCE_TIMEOUT` (R419): 10 µs without a flit from the peer make the port dead. -/
  | portSilenceTimeout (port : Nat)
  /-- `PORT_TRAINING_DONE` (R419): Port training ends up, degraded, or down after 100 ms. -/
  | portTrainingDone (port lanes : Nat)
  /-- `PATH_REOPEN` (R421): A dead path reopens with the next epoch. -/
  | pathReopen (package : Nat)
  /-- `FRAY_NOTICE` (R424): A fray notice for a lost arrival frays or is withheld at the barrier before the new epoch. -/
  | frayNotice (id : Nat)
  /-- `PROXY_CANCEL` (R426): A forwarded cancel reaches a proxy record, which marks its members. -/
  | proxyCancel (id : Nat)
  /-- `HOST_LINK_DOWN` (R427): The host link goes down, stopping wake writes and mailbox traffic. -/
  | hostLinkDown
  /-- `ILLEGAL_INSTRUCTION` (R80): A strand reaches a word that matches no instruction (the all-zero word, a reserved major or a reserved field value) and takes a precise illegal-instruction trap. -/
  | illegalInstruction
  /-- `POISONED_INSTRUCTION_FETCH` (R81): A fetched word that carries poison is not executed, and the strand observes a fray with code 1 at that word. -/
  | poisonedInstructionFetch (code : Nat)
  /-- `TARGET_FETCH_SEGMENT_TRAP` (R120): The fetch at a transfer target or landing pc fails its segment or ex check and raises the precise segment trap with ep holding the target. -/
  | targetFetchSegmentTrap
  /-- `IMAGE_GIVEN` (R383): The context-scheduling core gives a core of a resident context's mask a new image, and that context runs there. -/
  | imageGiven (ctx core : Nat)
  deriving DecidableEq, Repr

end Sys2Proof
end

