-- ==== Sys2Proof/Machine/State.lean ====
section
/-! DEFINITION. The state of the package as plain data, and the state at reset.

Numbers that name things: a core is die * 512 + cluster * 32 + quad * 4 + core (bits [27:16] of a spread pointer); a
quad is core / 4, a cluster core / 32, a die core / 512.  A strand (`sid`) is context * 32768 + directory entry, where
an entry is core * 8 + slot number (bits [50:36] of a handle).  A scope key is context * 2^17 + handle bits [31:15]; a
ticket key is context * 2^22 + die * 2^19 + index. -/

namespace Sys2Proof.Machine

/-- Memory: (address, byte) pairs at strictly rising addresses, none equal to what an unlisted address reads as. -/
abbrev Memory := List Host.Cell

/-! ### Strands (R128, R130) -/

/-- Damage that a read or scrub will find (R29, R32, R365). -/
inductive Damage where
  | correctable | uncorrectable
  /-- uncorrectable, found and logged (R363) -/
  | reported
  deriving DecidableEq, Repr

/-- A general register: 64 data bits, full bit, fray bit and code (R28, R130), and whether a load, atomic, claim or
acknowledgment is to return to it (R97). -/
structure GReg where
  val : Word
  full : Bool
  fray : Bool
  code : Code
  pend : Bool
  deriving DecidableEq, Repr

/-- A vector register: 1,024 bits, one fray bit for each 64-bit chunk, one code (R241, R242). -/
structure VReg where
  data : BitVec 1024
  fray : BitVec 16
  code : Code
  deriving DecidableEq, Repr

/-- A mask register (R242). -/
structure KReg where
  data : BitVec 128
  fray : Bool
  code : Code
  deriving DecidableEq, Repr

/-- The fields of st (Table 05-8). -/
structure Status where
  mode : BitVec 16
  ec : BitVec 8
  fc : BitVec 8
  sd : Nat
  x : Bool
  a : Bool
  p : Bool
  c : Bool
  t : Bool
  ff : Fp.Flags
  deriving DecidableEq, Repr

/-- What a parked strand waits for (Table 06-1). -/
inductive Park where
  /-- the fill of an empty register that the instruction reads (R96) -/
  | reg (r : Nat)
  /-- the return of a load, atomic, claim or acknowledgment to a register (R97, R155, R355) -/
  | ret (r : Nat)
  /-- the home's reply to a `BWAIT`, `LOCK` or `WAITA`, whose destination is the register -/
  | bwait (d : Nat)
  | lock (d : Nat)
  | waita (d : Nat)
  /-- the scope it closes to empty, with the result's register (R175) -/
  | close (d : Nat)
  /-- a free ticket or spool space (R149) -/
  | space
  /-- units of its scope (R162) -/
  | borrow
  /-- a free scope index (R174) -/
  | index
  /-- a gang rendezvous (R291) -/
  | gang
  deriving DecidableEq, Repr

/-- The state of a placed strand (Table 06-1); whether it is switched out is a field beside it, so that the previous
state is remembered (Table 06-2). -/
inductive Phase where
  | placed | running | parked (why : Park) | migrating
  /-- with the page whose repair it awaits -/
  | faultedOut (page : Nat)
  | cancelling
  deriving DecidableEq, Repr

/-- What a slot whose strand is running waits for (R134). -/
inductive Stall where
  | none
  /-- a TLB miss that the walker has not resolved (R373): the address and the rights the access needs -/
  | walk (va need : Nat)
  /-- a resource that is not free: the slot tries again (R134) -/
  | request
  /-- the reply of a barrier's home to a request on its way (R184) -/
  | home
  /-- the earlier accesses of a `FENCE` (R217) -/
  | fence (reach : Nat)
  /-- a migration that is to leave (R138): the destination core -/
  | leave (core : Nat)
  /-- an MVU operation: `MRD`, a bound check in trap mode, a check of `MMAG` (R283, R288, R280) -/
  | mvu
  deriving DecidableEq, Repr

/-- The hint words met so far (R83): the address of the first, and each kind's payload. -/
structure Run where
  first : Nat
  imm : Option Nat
  lat : Option Nat
  mod : Option Nat
  deriving DecidableEq, Repr

/-- A message of `SEND` (R147, R152). -/
structure Msg where
  ctx : Nat
  target : Nat
  reg : Nat
  val : Word
  fray : Bool
  code : Code
  sender : Nat
  senderGen : Nat
  scope : Nat
  units : Nat
  ack : Option Nat
  deriving DecidableEq, Repr

/-- A strand's membership of a gang (R290 to R297). -/
structure Member where
  gang : Nat
  scope : Nat
  deriving DecidableEq, Repr

/-- The virtual issue of an access by a gang member: its gang, the virtual cycle and the issuing core (R221, R291). -/
structure VIssue where
  gang : Nat
  cycle : Nat
  core : Nat
  deriving DecidableEq, Repr

/-- How an engine operation ended, as an `.after` successor reads it (R236). -/
inductive OpEnd where
  | complete | short | frayed
  deriving DecidableEq, Repr

/-- A placed strand. -/
structure Strand where
  ctx : Nat
  entry : Nat
  gen : Nat
  ticket : Nat
  kernel : Nat
  core : Nat
  slot : Nat
  phase : Phase
  out : Bool
  stall : Stall
  regs : Vector GReg 16
  vcount : Nat
  vregs : Vector VReg 32
  masks : Vector KReg 8
  pc : Nat
  ep : Nat
  st : Status
  sc : Nat
  share : Nat
  /-- instructions since the last cancellation point in an eager scope, and whether sc is eager, as its record says (R171) -/
  eager : Nat
  counts : Bool
  /-- the pending hint run, and the words of a pair still to execute (R83, R89) -/
  run : Option Run
  pair : List Nat
  /-- the entry's cancellation point must be taken again, after a wake (R169) -/
  recheck : Bool
  /-- the entry's cancellation point has been taken and its wait has ended: it goes on after it -/
  again : Bool
  /-- the cycle of its placement (R137) -/
  since : Nat
  /-- the fetch buffer: (address, word) pairs held (R26, R81) -/
  ibuf : Tab Nat
  /-- the VCC value at which the next instruction issues (R294) -/
  vccTarget : Option Nat
  gang : Option Member
  /-- its gang was aborted and it has not issued `GANG.EXIT` since (R294, R297) -/
  gangAborted : Bool
  /-- messages held in the mailbox queue, oldest first (R147) -/
  mail : List Msg
  /-- packages to which a plain write was lost (R231) -/
  lost : List Nat
  /-- slots still to issue before it is ready after a `YIELD`, and the cycle at which it is ready anyway (R151) -/
  yieldTo : List Nat
  yieldBy : Nat
  /-- scopes it has opened and not closed (R150) -/
  opened : Nat
  /-- the worst end among its engine commands that have ended (R236) -/
  worst : OpEnd
  /-- errors in its register words (R28, R29): general register r at r, half h of mask m at 16 + 2m + h, chunk c of vector register v
  at 64 + 16v + c -/
  errs : Tab Damage
  /-- the load on its way to another package acquires at `.sys` (R228) -/
  acq : Bool
  deriving DecidableEq, Repr

/-- A spawn record in a spool (Table 06-6). -/
structure Spawn where
  entry : Nat
  args : List Word
  frays : List (Option Code)
  ticket : Nat
  scope : Nat
  share : Nat
  kernel : Nat
  deriving DecidableEq, Repr

/-! ### Cores and quads -/

/-- A bound register (R359, R360). -/
structure Bound where
  low : Nat
  high : Nat
  mode : Nat
  tag : Nat
  deriving DecidableEq, Repr

/-- An MVU operation with its operands as read at issue (R285). -/
inductive MvuKind where
  | mma | mmas | mmag | mxs | mzero | mrd | mwr | ldt
  deriving DecidableEq, Repr

structure MvuOp where
  id : Nat
  sid : Nat
  gen : Nat
  kind : MvuKind
  shape : Nat
  ty : Nat
  sparse : Bool
  tile : Nat
  a : Nat
  b : Nat
  /-- the partial tile of `MXS`, the rows of `MRD` and `MWR`, the swizzle bit of `LDT` -/
  p : Nat
  /-- the first vector register of `MRD` -/
  v : Nat
  /-- the group offsets of `MMAG`, read at issue (R280) -/
  offsets : List Nat
  /-- the next group of a started or saved `MMAG`, and the flags of its completed groups (R289) -/
  group : Nat
  flags : Fp.Flags
  /-- the data and frays of `MWR` as read at issue -/
  rows : List VReg
  /-- the bound register in force at issue when the tile's check is enabled (R288, R360) -/
  bound : Option Bound
  /-- the issuing slot stays stalled until the operation is done -/
  waits : Bool
  /-- the elements of an `MMAG`'s completed groups that flag mode found (R361) -/
  violations : Nat
  /-- the virtual issue of a gang member's operation, and the due cycle of its `LDT` (R221, R293) -/
  at_ : Option VIssue
  due : Option Nat
  /-- words of C as a gang member's operation reads them, where a write of its own virtual cycle has been performed before it: the
  bytes' number and the code (R221) -/
  kept : Tab (Nat × Option Code)
  deriving DecidableEq, Repr

/-- What a core does (Table 22-3). -/
inductive CoreMode where
  | idle | running | preempting
  deriving DecidableEq, Repr

structure Core where
  ctx : Nat
  mode : CoreMode
  /-- slot → strand -/
  slots : Tab Nat
  /-- R135 -/
  ptr : Nat
  last : Tab Nat
  /-- the slots whose condition at the end of the last cycle lets them issue in this one (R137) -/
  able : List Nat
  /-- the phase of fixed rotation; none in compact rotation (R136) -/
  phase : Option Nat
  /-- the round-robin pointer of each steal distance (R143) -/
  steal : Tab Nat
  /-- the kernel whose state is loaded, and for which of its launches (R402, R403) -/
  kernel : Option Nat
  launch : Nat
  bounds : Tab Bound
  dispatch : List MvuOp
  /-- strands that wait in the arrival queue, oldest first (R138) -/
  arrivals : List Nat
  /-- a segment interrupt has not yet been taken (R391): the table in force until then -/
  oldSegs : Option (List Nat)
  /-- contexts of the running one's priority whose quantum expired here since the others had theirs, and the cycle in which the
  running one took the core (R384) -/
  spent : List Nat
  began : Nat
  deriving DecidableEq, Repr

structure Quad where
  /-- 16 positions: a core 0 to 3, or 8 for open (R286, R287) -/
  slotTable : List Nat
  pos : Nat
  rr : Nat
  /-- C tile → bound selector, for the enabled tiles (R25, R288) -/
  tiles : Tab Nat
  /-- context * 64 + A slot → sequence tag, where it is not 0 (R24) -/
  tags : Tab Nat
  /-- the operation in progress, with its core (R273) -/
  busy : Option (Nat × MvuOp)
  deriving DecidableEq, Repr

/-- A switched-out core image (R387). -/
structure Image where
  slots : Tab Nat
  kernel : Option Nat
  launch : Nat
  bounds : Tab Bound
  dispatch : List MvuOp
  /-- the quad's tile table, where it was the one that the core's kernel had loaded (log 81) -/
  tiles : Option (Tab Nat)
  slotTable : List Nat
  /-- the core the image runs on when donation redirects it (R390) -/
  runsOn : Option Nat
  deriving DecidableEq, Repr

/-! ### Memory protection, storage and translation -/

/-- The retention state of a scratchpad bank (R30, R31). -/
inductive Retention where
  | entering | retained | leaving
  deriving DecidableEq, Repr

/-- A 4 KiB storage region (R33, R34). Of a core's scratchpad its holders are images, named by context * 4096 + home core;
of a quad's typed buffers they are contexts. -/
structure Region where
  /-- the image that holds the region on chip -/
  owner : Option Nat
  /-- images whose contents were claimed and are in their save areas -/
  saved : List Nat
  /-- the image whose claimed contents are being saved -/
  saving : Option Nat
  /-- the image whose contents are being restored -/
  restoring : Option Nat
  deriving DecidableEq, Repr

structure Prot where
  /-- poison code of each unit that holds poison, by the unit's first address (R347) -/
  poison : Tab Code
  damage : Tab Damage
  /-- errors in words of the other SRAM arrays (R3, R28), by `arrayKey` (log 66) -/
  arrays : Tab Damage
  /-- correctable errors corrected so far (R348) -/
  corrected : Nat
  /-- controller * 2^25 + row → corrected errors of the row since the last scrub pass of its stack (R364) -/
  rowErrors : Tab Nat
  /-- core * 16 + bank → retention state -/
  banks : Tab Retention
  /-- core * 16 + region of its scratchpad, or 2^16 + quad * 128 + region of its W, A and C buffers (R33) -/
  regions : Tab Region
  /-- controller * 2^25 + row → spare row, and the remaps in progress (R364) -/
  remap : Tab Nat
  remapping : List Nat
  deriving DecidableEq, Repr

/-- The state of a page (Table 21-3) is in its leaf; beside it the former state of a migrating page (R372), whether it is
spilled first, and the frame of the old place while it is copied. -/
structure Page where
  leaf : Nat
  former : Nat
  cold : Bool
  target : Nat
  deriving DecidableEq, Repr

structure TlbEntry where
  ctx : Nat
  va : Nat
  leaf : Nat
  deriving DecidableEq, Repr

/-- A shootdown that has not completed (R376): the page, the old leaf, and the tag of the command that waits for it. -/
structure Shootdown where
  ctx : Nat
  va : Nat
  old : Nat
  tag : Option Nat
  deriving DecidableEq, Repr

structure Xlat where
  /-- context * 2^48 + (virtual address / 2^16) → page, at the page's first 64 KiB -/
  pages : Tab Page
  /-- cluster → entries -/
  tlb : Tab (List TlbEntry)
  shootdowns : List Shootdown
  /-- pages whose repair is in progress (R373), by page key -/
  repairs : List Nat
  /-- pages whose frame the memory manager is to retire, because a controller refused a remap in it (R364) -/
  retire : List Nat
  deriving DecidableEq, Repr

/-! ### Scopes, tickets, spools -/

inductive ScopeState where
  | open | cancelling | succeeded | emptying
  /-- a kernel root that has closed: its record is no longer live, and waits for its result to be written (R404) -/
  | closed
  deriving DecidableEq, Repr

inductive ScopeResult where
  | ok | succeeded | cancelled | frayed
  deriving DecidableEq, Repr

/-- A live scope record (Table 07-2). -/
structure Scope where
  units : Nat
  handle : Nat
  parent : Nat
  opener : Nat
  landing : Nat
  child : Nat
  sibling : Nat
  succeeder : Nat
  /-- the address of the remote list, 0 for none; package → units outstanding, one entry of the list each (R167) -/
  remote : Nat
  remotes : Tab Nat
  withheld : Nat
  root : Bool
  eager : Bool
  selv : Bool
  state : ScopeState
  result : ScopeResult
  fray : Code
  saved : Nat
  deriving DecidableEq, Repr

/-- What has woken a `WAITA`, which has still to re-read (R205). -/
inductive Woken where
  | no | byWrite | byWakea
  deriving DecidableEq, Repr

/-- What waits in the spill queue for a switched-out strand (R389): a message; a directed cancel; a reply of a barrier's home to
its `BWAIT`, with the clock of the home's die (R218); the wake of its `WAITA`; the wake of a page repair; room for a ticket, a record
or a message; a free scope index; the grant of units; the end of the scope it closes. -/
inductive Spilled where
  | msg (m : Msg)
  | mark
  | bwait (gen d result : Nat) (vec : List Nat)
  | waita
  | repair (gen : Nat)
  | space
  | index
  | grant (e : Nat)
  | closed (r : Scope)
  deriving DecidableEq, Repr

/-- A ticket entry in use (R146): before placement it holds messages, after it names the strand. -/
structure Ticket where
  strand : Option Nat
  mail : List Msg
  deriving DecidableEq, Repr

structure Groups where
  scopes : Tab Scope
  /-- die → keys of its records, the most recently used first: those after 16,384 lie in the extension (R158) -/
  recent : Tab (List Nat)
  scopeGen : Tab Nat
  dirGen : Tab Nat
  tickets : Tab Ticket
  ticketGen : Tab Nat
  /-- context * 4096 + core → records, oldest first (R141) -/
  spools : Tab (List Spawn)
  /-- context * 8 + die → what came for switched-out strands, in order of arrival (R389) -/
  spill : Tab (List (Nat × Spilled))
  deriving DecidableEq, Repr

/-! ### Synchronisation -/

/-- A strand recorded at a barrier, a lock or a doubleword. -/
structure Waiter where
  sid : Nat
  reg : Nat
  prio : Nat
  deriving DecidableEq, Repr

/-- Where an access goes. -/
structure Loc where
  key : Nat
  pkg : Nat
  die : Nat
  /-- the page is in the poisoned state (Table 21-4), or marked shared between contexts (R353) -/
  poisoned : Bool
  shared : Bool
  /-- the leaf it was translated by; 0 for a scratchpad -/
  leaf : Nat
  deriving DecidableEq, Repr

/-- A `WAITA` waiter (R204), from its registration until the `WAITA` ends: the doubleword's address and its place, the operand
compared with its fray, and whether it polls from the overflow list. -/
structure Monitor where
  sid : Nat
  ptr : Nat
  loc : Loc
  reg : Nat
  val : Nat
  own : Option Code
  poll : Bool
  woken : Woken
  deriving DecidableEq, Repr

structure Sync where
  /-- barrier address → waiters, oldest first (R192) -/
  waiters : Tab (List Waiter)
  /-- lock address → queue in order of arrival (R200) -/
  queues : Tab (List Waiter)
  monitors : List Monitor
  /-- lock address → the strand that holds it (R202) -/
  holders : Tab Nat
  /-- donations that stand: lock address → (holder's context, priority) (R203) -/
  donations : Tab (Nat × Nat)
  /-- die → V[0..7], and A[0..7] (R223) -/
  vclock : Tab (List Nat)
  applied : Tab (List Nat)
  deriving DecidableEq, Repr

/-! ### Items in flight -/

/-- A fill of a register: general 0 to 15. -/
structure Fill where
  reg : Nat
  val : Word
  fray : Bool
  code : Code
  deriving DecidableEq, Repr

/-- A write to memory as it travels: the bytes, or poison with a code (R113). -/
structure MemWrite where
  key : Nat
  bytes : List Byte
  poison : Option Code
  deriving DecidableEq, Repr

/-- An atomic or claim (R315 to R322): `op` is fn[3:0]; `page` the page it was translated through. -/
structure Atomic where
  sid : Nat
  gen : Nat
  reg : Nat
  op : Nat
  width : Nat
  loc : Loc
  page : Option Nat
  y : Nat
  expect : Nat
  /-- the code an operand's fray or the issuer's taint writes in place of the new value (R320), and whether it is a fray: the
  sum of an `AMOF` then raises no flag (R318) -/
  poison : Option Code
  frayedOperand : Bool
  order : Nat
  reach : Nat
  /-- the virtual issue of a gang member's atomic (R221) -/
  at_ : Option VIssue
  /-- a taint withheld where the atomic writes: context, selvedge, address (R354) -/
  withhold : Option (Nat × Nat × Nat)
  deriving DecidableEq, Repr

/-- A claim on its way through the combining stages (R322).  A strand's own claim has no parts; a group has the flights it
combines, with their counts.  `stage`: 0 toward the cluster's port, 1 waiting there, 2 toward the die's router, 3 waiting
there, 4 at the home, 5 parked in the home die's fault queue (R319), 8 combined into a group. -/
structure Combined where
  claim : Atomic
  core : Nat
  stage : Nat
  parts : List (Nat × Nat)
  deriving DecidableEq, Repr

/-- An arrival of an engine operation or of firmware at a barrier (R188, R313). -/
structure Arrival where
  ctx : Nat
  /-- the barrier's address: a spread pointer, or a virtual address -/
  ptr : Nat
  /-- what it adds in bytes mode, and in count mode -/
  bytes : Nat
  n : Nat
  /-- the code of a failed operation -/
  code : Code
  /-- the issuer was tainted (R301), with its nearest selvedge (R353) -/
  tainted : Bool
  selvedge : Nat
  /-- the done offset with which a stopped operation marks the barrier after it (R190) -/
  short : Option Nat
  /-- the operation: its arrivals keep their order -/
  op : Nat
  /-- the done offset reached, for the fray log (R189) -/
  done : Nat
  scope : Nat
  final : Bool
  /-- the share that returns after a final arrival (R302) -/
  share : Option Nat
  /-- the firmware makes it: the page's en right is not asked (R374, R404) -/
  firm : Bool
  deriving DecidableEq, Repr

/-- What a barrier instruction asks of the home (R184); `own` is the fray code of its operand g[b]. -/
inductive BarOp where
  | init (mode : Nat)
  | expect (n : Nat) (own : Option Code)
  | arrive (n : Nat) (own : Option Code)
  | wait (d : Nat)
  | test (d : Nat)
  | lock (d : Nat)
  | unlock
  | mend
  | fray
  | waita (d : Nat) (y : Nat) (own : Option Code)
  | wakea (n : Nat) (own : Option Code)
  deriving DecidableEq, Repr

/-- Everything that travels or waits between two steps. -/
inductive Flight where
  /-- data that returns to a strand's registers (R97), with the due cycle of a gang load (R293) -/
  | loadRet (sid gen : Nat) (fills : List Fill) (due : Option Nat)
  /-- a remote request of a strand: a load of (register, bytes, signed) from an address, or a write, to a scratchpad or to
  another package's memory, with its virtual issue in a gang (R34, R229, R292) -/
  | remoteLoad (sid gen : Nat) (key : Nat) (parts : List (Nat × Nat × Bool)) (at_ : Option VIssue) (due : Option Nat)
  | remoteStore (sid gen : Nat) (w : MemWrite) (at_ : Option VIssue)
  /-- the acknowledgment of a write that another package has performed (R423) -/
  | wrote (sid gen pkg : Nat)
  /-- a vector load of register d, of elements of a type, with elements in other cores' scratchpads or other packages: the lanes that are
  read, and those still to be read with their addresses (R19, R264) -/
  | vecLoad (sid gen d t : Nat) (got : Tab (Nat × Option Code)) (left : List (Nat × Nat)) (at_ : Option VIssue) (due : Option Nat)
  /-- a vector load's data on its way, or held to its due cycle (R265, R293) -/
  | vecRet (sid gen d : Nat) (x : VReg) (due : Option Nat)
  /-- an atomic on its way to its home, or parked in the home die's fault queue (R319) -/
  | atomic (a : Atomic) (parked : Bool)
  | atomicRet (sid gen : Nat) (fill : Fill) (flags : Fp.Flags) (pkg : Nat)
  | claim (c : Combined)
  /-- a base that returns to a combining stage (R322) -/
  | claimReply (c : Combined) (base : Fill)
  | msg (m : Msg)
  | ack (sid gen : Nat) (fill : Fill)
  /-- units that come home from a package (R162, R167) -/
  | share (ctx scope units pkg : Nat)
  | borrowReq (sid : Nat) (ctx scope : Nat)
  | borrowGrant (sid : Nat) (e : Nat)
  | cancel (ctx scope : Nat)
  | childLink (ctx parent child : Nat)
  | barrier (sid : Nat) (op : BarOp) (loc : Loc) (addr : Nat)
  /-- a reply of a barrier's home to `BWAIT`, or a lock's grant, with the clock of the home's die (R218) -/
  | bwaitRet (sid gen : Nat) (d : Nat) (result : Nat) (vec : List Nat)
  | lockRet (sid gen : Nat) (d : Nat) (code : Nat) (vec : List Nat)
  /-- what is still to be written in a lock whose bank or row cannot serve it: a queued waiter less, or, for a holder that has
  retired, its fray with code 9 (R194, R202, R31) -/
  | lockUpdate (ctx scope key : Nat) (fray : Bool)
  | arrival (a : Arrival) (parked : Bool)
  /-- the acknowledgment of an arrival that another package has taken, which is kept until it comes (R424) -/
  | arrived (a : Arrival) (l : Loc)
  | donation (key holderCtx prio : Nat) (holder : Nat)
  /-- a stamped write toward its home die, or its invalidation toward another, which has no bytes (R223) -/
  | stamped (src dst sid : Nat) (vec : List Nat) (w : MemWrite)
  /-- a strand on its way (R138): its 160-byte message as 20 doublewords (R139), and the clock of the die it left (R211) -/
  | migration (sid dest : Nat) (words : List Nat) (vec : List Nat)
  | faultReq (ctx page : Nat)
  | repairWake (sid gen : Nat)
  | advice (ctx page code : Nat)
  | frayNotice (a : Arrival) (pkg epoch : Nat)
  | proxyCancel (ctx scope pkg : Nat)
  deriving DecidableEq, Repr

/-! ### Cluster caches (R26) -/

/-- A line of 128 bytes: its first physical address, and its four sectors as they were read, each with its code (R32). -/
structure Line where
  base : Nat
  sectors : List (List Byte × Option Code)
  deriving DecidableEq, Repr

structure Caches where
  /-- cluster → the lines it holds, the oldest first -/
  lines : Tab (List Line)
  /-- a load's return on its way → the cluster, and the line of another package that comes with it -/
  fills : Tab (Nat × Line)
  deriving DecidableEq, Repr

/-! ### Engines -/

inductive OpState where
  /-- an `.after` command whose predecessors have not all ended (R236) -/
  | waiting
  | queued | active
  deriving DecidableEq, Repr

/-- One dimension of a tensor copy: count, source stride, destination stride (Table 15-2). -/
structure Dim where
  count : Nat
  sstride : Int
  dstride : Int
  deriving DecidableEq, Repr

/-- A selection's descriptor as read at issue (Table 17-2); kind 0 `SELP`, 1 `SELK`, 2 `SELR`. -/
structure SelDesc where
  kind : Nat
  raw : Nat
  deriving DecidableEq, Repr

/-- A copy or selection in progress. Its addresses are spread pointers or virtual addresses: the segment checks are made at
issue (R300, R391). -/
structure EngineOp where
  ctx : Nat
  /-- the core of issue -/
  core : Nat
  /-- the issuing strand and its generation; none for a queue's COPY (R412) -/
  issuer : Option (Nat × Nat)
  /-- the issuing queue and command number of a queue's COPY -/
  queue : Option (Nat × Nat)
  state : OpState
  /-- the barrier's mode as its probe found it (R189) -/
  mode : Option Nat
  src : Nat
  dst : Nat
  sspace : Nat
  dspace : Nat
  size : Nat
  esize : Nat
  dims : List Dim
  tag : Option Nat
  sel : Option SelDesc
  /-- a copy's units written at or beyond the done offset; a selection's elements read -/
  written : List Nat
  /-- requests parked on a resolvable fault: the unit or element, and the page (R310) -/
  parked : List (Nat × Nat)
  /-- a selection's elements that were present, with their bits; its poisoned sectors (R332, R336) -/
  found : List (Nat × Nat)
  bad : List Nat
  /-- the stacks engaged, and those whose partial results have arrived (R338); 8 + p stands for the merger of package p, and
  the share is with that of `away` (R167) -/
  engaged : List Nat
  arrived : List Nat
  away : Option Nat
  barrier : Nat
  reach : Nat
  done : Nat
  credited : Nat
  scope : Nat
  share : Nat
  tainted : Bool
  selvedge : Nat
  shielded : Bool
  marked : Bool
  /-- the code of a fault that it has met and that is to end it: a descriptor's page that cannot be read, a link that has become dead
  (R300, R311, R339) -/
  cut : Option Code
  /-- earlier engine commands of the strand that have not ended, and the worst end of those that have (R236) -/
  after : List Nat
  worst : OpEnd
  deriving DecidableEq, Repr

/-- A gang (R290 to R296). -/
structure Gang where
  ctx : Nat
  cluster : Nat
  word : Nat
  members : List Nat
  /-- the cycle in which the last entry completed the rendezvous (R291) -/
  begun : Option Nat
  /-- the virtual cycle counter, from two cycles after it -/
  vcc : Option Nat
  /-- the length of the run of paused cycles up to now; the cycle of the first entry (R296) -/
  paused : Nat
  since : Nat
  deriving DecidableEq, Repr

/-! ### Contexts, kernels, queues -/

inductive CtxState where
  | defined | resident | suspended
  deriving DecidableEq, Repr

structure Context where
  state : CtxState
  /-- s0 to s7, 128 bits each (Table 02-3) -/
  segs : List Nat
  quads : Nat
  cmem : Nat
  csize : Nat
  prio : Nat
  quantum : Nat
  rights : Nat
  key : Nat
  keySet : Bool
  /-- the context root's handle (R393) -/
  root : Nat
  /-- events posted to its ring (R441), oldest first: kind, code and object -/
  events : List (Nat × Nat × Nat)
  /-- events posted since DEFINE: the ring's next place, modulo 256 -/
  posted : Nat
  /-- the tag of a SUSPEND that waits for running images to be switched out (R394), and of a SETSEG that waits for running
  cores (R391) -/
  suspending : Option Nat
  setseg : Option Nat
  /-- the tag of a TEARDOWN that waits for the accesses and arrivals still on their way (R395) -/
  tearing : Option Nat
  deriving DecidableEq, Repr

inductive KernelState where
  | loaded | verified | resident | running | draining
  deriving DecidableEq, Repr

structure Kernel where
  state : KernelState
  desc : Nat
  image : Nat
  isize : Nat
  entry : Nat
  /-- address of the trap entry, where there is one (R125, R397) -/
  tvec : Option Nat
  dict : List Nat
  vregs : Nat
  steal : Nat
  gang : Nat
  sright : Bool
  slotImage : Option Nat
  bounds : Tab Bound
  tiles : Tab Nat
  roots : List Nat
  /-- launches so far -/
  launches : Nat
  deriving DecidableEq, Repr

/-- A launch whose root is open: the addresses of its result and its barrier, where it has them (R401, R404). -/
structure Launch where
  kernel : Nat
  queue : Option (Nat × Nat)
  result : Option Nat
  barrier : Option Nat
  deriving DecidableEq, Repr

/-- Table 24-3, in its row order; a destroyed queue goes once its status block says so. -/
inductive QueueState where
  | created | mapped | idle | running | unmapped | pagedOut | faulted | destroyed
  deriving DecidableEq, Repr

/-- A ring command that has started and not completed (R413): its number and operation, its engine operation, what a
`WAIT` waits for, and its result once its work is done. -/
structure Started where
  n : Nat
  kind : Nat
  op : Nat
  done : Bool
  result : Nat
  waitKind : Nat
  waitAddr : Nat
  waitVal : Nat
  deriving DecidableEq, Repr

structure Queue where
  ctx : Nat
  state : QueueState
  /-- it holds a slot -/
  held : Bool
  ring : Nat
  size : Nat
  status : Nat
  /-- commands started, and completed, counted from creation; the tail as last written, modulo the size -/
  head : Nat
  done : Nat
  tail : Nat
  started : List Started
  fault : Nat
  lastFray : Nat
  /-- its place in the order of wake writes while it waits for a slot (R410) -/
  waiting : Option Nat
  /-- the cycle since which it is idle, parked on a `WAIT`, or unmapped -/
  since : Nat
  /-- it has been parked on a `WAIT` for 1 ms (R410) -/
  evictable : Bool
  /-- its save area is being read back from storage (R409) -/
  paging : Bool
  /-- its status block is not up to date: the last write found its page or its place not ready (R415) -/
  statusDue : Bool
  deriving DecidableEq, Repr

/-! ### Links, firmware, management -/

inductive PortState where
  | down | training | up | degraded | dead | quiesced
  deriving DecidableEq, Repr

structure Port where
  state : PortState
  lanes : Nat
  sendSeq : Nat
  recvSeq : Nat
  /-- the retry buffer: the flits sent and unacknowledged, oldest first, each as its 64 bytes spell it -/
  unacked : List Nat
  /-- of each of them its replays since the last lane was removed, and in all -/
  tries : List (Nat × Nat)
  /-- a retry request is to be sent -/
  retryReq : Bool
  /-- receive buffers freed since the last flit that was sent; an accepted flit awaits its acknowledgment; responses that the peer's
  operations await -/
  freed : Nat
  owes : Bool
  replies : Nat
  /-- the cycle of the last flit from the peer -/
  heard : Nat
  /-- the tag of a QUIESCE that waits for acknowledgments -/
  quiescing : Option Nat
  /-- it trains with the alternate lane map (R442) -/
  alternate : Bool
  deriving DecidableEq, Repr

inductive PathState where
  | open | dead
  deriving DecidableEq, Repr

structure Path where
  state : PathState
  epoch : Nat
  ports : Nat
  deriving DecidableEq, Repr

/-- A proxy record for a scope homed in another package (R426): the home package, the scope, the package that holds the units. -/
structure Proxy where
  home : Nat
  ctx : Nat
  scope : Nat
  pkg : Nat
  units : Nat
  cancelled : Bool
  deriving DecidableEq, Repr

/-- An item on its way to another package or back: the port its first flit went on, none while it waits for one; whether it has
reached the package, so that its end or reply is awaited. The list of them stands in the order of sending (R423, R425). -/
structure Sent where
  id : Nat
  pkg : Nat
  port : Option Nat
  there : Bool
  /-- the strand whose wait it is, which its reply ends (R192, R200, R205) -/
  waits : Option Nat
  deriving DecidableEq, Repr

structure Links where
  ports : Tab Port
  paths : Tab Path
  /-- scope key * 8192 + package → its proxy record there -/
  proxies : Tab Proxy
  sent : List Sent
  /-- flits still to be sent for what the engines have moved: package, kind and class -/
  flits : List (Nat × Nat × Nat)
  /-- replies numbered below this are accounted for -/
  tracked : Nat
  /-- the host link's rate: 2 for PCIe 7.0, 1 for 6.0, 0 for 5.0, and its width in lanes (R427, R442) -/
  rate : Nat
  width : Nat
  /-- retries of the flit in progress on each die-to-die link (R225) -/
  d2d : Tab Nat
  hostUp : Bool
  deriving DecidableEq, Repr

/-- The last response of a mailbox (R440). -/
structure Mailbox where
  tag : Nat
  status : Nat
  value : Nat
  deriving DecidableEq, Repr

/-- A fray log entry (Table 19-6). -/
structure LogEntry where
  time : Nat
  kind : Nat
  code : Code
  ctx : Nat
  scope : Nat
  addr : Nat
  detail : Nat
  deriving DecidableEq, Repr

/-- What the snapshot registers of every block latch in one cycle (R446): the registers of the strands, cores, quads and gangs, of
the base dies, the engines, the links and the firmware cores, with the cycle (log 26). -/
structure Snapshot where
  cycle : Nat
  strands : Tab Strand
  cores : Tab Core
  quads : Tab Quad
  gangs : Tab Gang
  prot : Prot
  xlat : Xlat
  groups : Groups
  sync : Sync
  ops : Tab EngineOp
  served : Tab Nat
  links : Links
  mailboxes : Tab Mailbox
  boot : Nat
  power : Nat
  deriving DecidableEq, Repr

/-- What the drain after a power failure wrote to board flash (R448): the journal buffer, the fray log, the snapshot window, the scope
tables, and the context states with those of their cores and strands. -/
structure Flash where
  staged : List (Nat × Nat)
  frayLog : List LogEntry
  window : Option Snapshot
  scopes : Tab Scope
  ctxs : Tab Context
  cores : Tab Core
  images : Tab Image
  strands : Tab Strand
  deriving DecidableEq, Repr

/-- A command as it stands in a mailbox's slot: its code, its tag and its operands (R440). -/
structure FirmCommand where
  code : Nat
  tag : Nat
  args : List Nat
  deriving DecidableEq, Repr

structure System where
  mailboxes : Tab Mailbox
  /-- firmware core → commands submitted and not yet taken, in doorbell order (R440) -/
  doorbells : Tab (List FirmCommand)
  /-- BAR registers without a behaviour of their own (R440) -/
  bars : Tab Nat
  /-- vectors raised (R427, R440) -/
  msix : List Nat
  frayLog : List LogEntry
  logOverrun : Nat
  /-- the boot step in progress (R442); 9 once booted, 0 while a failure holds the package in reset -/
  boot : Nat
  /-- the image bank in use: 1 for the second (R442) -/
  bank : Nat
  /-- the SRAM banks that this start left out: quad * 64 + bank, or 2^16 + cluster * 64 + bank for a cluster's (R442, log 32) -/
  fused : List Nat
  /-- the boot journal and the records that wait for their commit, oldest first: a kind and a value (R443, log 32) -/
  journal : List (Nat × Nat)
  staged : List (Nat × Nat)
  packageFault : Bool
  /-- the die-to-die link that the error-handling core recorded with the package fault (R225) -/
  faultLink : Option Nat
  power : Nat
  powerNext : Option Nat
  /-- the snapshot window and whether it is held; triggers that found it held; the armed code (R446) -/
  window : Option Snapshot
  snapHeld : Bool
  snapOverrun : Nat
  armed : Nat
  /-- board power has failed; the drain to flash has ended (R448) -/
  powerFail : Bool
  drained : Bool
  flash : Option Flash
  /-- what the capability list in device memory says of usable quads, ports and power (R445) -/
  published : List Nat
  deriving DecidableEq, Repr

/-! ### Turns and the whole state -/

/-- Who acts in a turn (log 1). -/
inductive Act where
  /-- a core issues the instruction of the slot its rotation chooses -/
  | issue (core : Nat)
  /-- a firmware core takes the next command of its mailbox (R440) -/
  | firmware (core : Nat)
  /-- one of the device's own steps -/
  | event (i : Instr)
  deriving DecidableEq, Repr

/-- One turn: the cycles that pass before it, the choice number it offers, and who acts (log 1, 16). -/
structure Turn where
  dt : Nat
  pick : Nat
  act : Act
  deriving DecidableEq, Repr

structure State where
  /-- the model's own: the turns to come, the position of the default rotation, the choice number of the present turn, the
  counter of free values, the number of the next item in flight, and the strand that is issuing (log 1, 7, 16) -/
  turns : List Turn
  rot : Nat
  pick : Nat
  fresh : Nat
  nextId : Nat
  cur : Option Nat
  /-- core clock cycles since reset (R122) -/
  cycle : Nat
  pkg : Nat
  strands : Tab Strand
  cores : Tab Core
  quads : Tab Quad
  images : Tab Image
  mem : Memory
  caches : Caches
  prot : Prot
  xlat : Xlat
  groups : Groups
  sync : Sync
  flights : Tab Flight
  ops : Tab EngineOp
  /-- selection engine (stack) → the die it served last (R326) -/
  served : Tab Nat
  gangs : Tab Gang
  ctxs : Tab Context
  kernels : Tab Kernel
  launches : Tab Launch
  queues : Tab Queue
  links : Links
  sys : System
  deriving DecidableEq, Repr

/-- Why the machine stops. -/
inductive Fault where
  /-- An instruction is executed while no strand is issuing: `exec` was called outside `step`, which always names one.
  Raised by every instruction word; safe (the hardware has no such moment). -/
  | noStrand
  deriving DecidableEq, Repr

/-- Why an instruction has no meaning in the model. -/
inductive Refusal where
  /-- An instruction whose arm of `exec` has no meaning yet. Raised by Dispatch only; safe. -/
  | notModelled (mnemonic : String)
  deriving DecidableEq, Repr

/-- A general register as placement leaves g4 to g15 (R130). -/
def GReg.empty : GReg := ⟨0, false, false, 0, false⟩

/-- The machine right after reset: boot step 1, nothing defined (R442). -/
def State.reset : State where
  turns := []
  rot := 0
  pick := 0
  fresh := 0
  nextId := 0
  cur := none
  cycle := 0
  pkg := 0
  strands := []
  cores := []
  quads := []
  images := []
  mem := []
  caches := ⟨[], []⟩
  prot := ⟨[], [], [], 0, [], [], [], [], []⟩
  xlat := ⟨[], [], [], [], []⟩
  groups := ⟨[], [], [], [], [], [], [], []⟩
  sync := ⟨[], [], [], [], [], [], []⟩
  flights := []
  ops := []
  served := []
  gangs := []
  ctxs := []
  kernels := []
  launches := []
  queues := []
  links := ⟨[], [], [], [], [], 0, 2, 16, [], false⟩
  sys := {
    mailboxes := []
    doorbells := []
    bars := []
    msix := []
    frayLog := []
    logOverrun := 0
    boot := 1
    bank := 0
    fused := []
    journal := []
    staged := [(3, 2 ^ 20)]
    packageFault := false
    faultLink := none
    power := 15
    powerNext := none
    window := none
    snapHeld := false
    snapOverrun := 0
    armed := 0
    powerFail := false
    drained := false
    flash := none
    published := [] }

end Sys2Proof.Machine
end

