-- ==== Sys2Proof/Machine/Mem.lean ====
section
/-! DEFINITION. Memory as bytes by key: reads, writes, poison units and damage (R11, R22, R29, R32, R347).

Keys: HBM bytes stand at their 52-bit physical address; a byte of a context's scratchpads at 2^52 + context * 2^41 +
bits [40:0] of its spread pointer; a byte of a quad's typed buffers at 2^53 + ((context * 4096 + quad) * 4 + buffer) *
2^18 + offset; a byte of a spilled page at 2^54 + context * 2^61 + virtual address. -/

namespace Sys2Proof.Machine

/-- What an address that memory does not list reads as (log 6). -/
def unlisted : Byte := 0

def Memory.read : Memory → Nat → Byte
  | [], _ => unlisted
  | (a, b) :: t, k => if a = k then b else if k < a then unlisted else Memory.read t k

/-- One byte written; the canonical form is kept. -/
def Memory.write : Memory → Nat → Byte → Memory
  | [], k, v => if v = unlisted then [] else [(k, v)]
  | (a, b) :: t, k, v =>
    if a < k then (a, b) :: Memory.write t k v
    else if a = k then (if v = unlisted then t else (a, v) :: t)
    else if v = unlisted then (a, b) :: t else (k, v) :: (a, b) :: t

/-- `n` bytes from an address upwards. -/
def Memory.readBytes (m : Memory) : Nat → Nat → List Byte
  | _, 0 => []
  | a, n + 1 => m.read a :: Memory.readBytes m (a + 1) n

/-- Consecutive bytes written. -/
def Memory.writeBytes : Memory → Nat → List Byte → Memory
  | m, _, [] => m
  | m, a, b :: bs => Memory.writeBytes (m.write a b) (a + 1) bs

/-- The canonical form: every address above `lo`, strictly rising, no listed byte equal to the unlisted one. -/
def Memory.wfFrom : Nat → Memory → Bool
  | _, [] => true
  | lo, (a, b) :: t => decide (lo ≤ a) && decide (b ≠ unlisted) && Memory.wfFrom (a + 1) t

/-- Memory is in its one canonical form. -/
def Memory.wf (m : Memory) : Bool := Memory.wfFrom 0 m

/-! ### Keys -/

def scratchBase : Nat := 2 ^ 52
def bufferBase : Nat := 2 ^ 53
def storageBase : Nat := 2 ^ 54

/-- The key of a scratchpad byte of a context (R14, R34). -/
def scratchKey (ctx ptr : Nat) : Nat := scratchBase + ctx * 2 ^ 41 + ptr % 2 ^ 41

/-- Buffers of a quad (Table 02-4): 1 W, 2 A, 3 C, as Table 15-1 codes them. -/
def bufferKey (ctx quad buf off : Nat) : Nat := bufferBase + ((ctx * 4096 + quad) * 4 + buf) * 2 ^ 18 + off

/-- The place of a spilled page's byte in storage (R371). -/
def storageKey (ctx va : Nat) : Nat := storageBase + ctx * 2 ^ 61 + va

/-- The size of the unit of protection at a key (R347). -/
def unitSize (key : Nat) : Nat := if key < scratchBase ∨ storageBase ≤ key then 32 else 8

/-- The first address of the unit that holds a key. -/
def unitBase (key : Nat) : Nat := alignDown key (unitSize key)

/-- The units that `n` bytes at a key touch. -/
def unitsOf (key n : Nat) : List Nat :=
  if n = 0 then []
  else (List.range ((unitBase (key + n - 1) - unitBase key) / unitSize key + 1)).map
    fun i => unitBase key + i * unitSize key

/-! ### Reads -/

/-- The address of a unit in the fray log (Table 19-6): the physical address of an HBM sector, the spread pointer of a
scratchpad word, the offset of a word in its buffer (log 65). -/
def unitAddress (u : Nat) : Nat :=
  if u < scratchBase then u
  else if u < bufferBase then 7 * 2 ^ 61 + (u - scratchBase) % 2 ^ 41
  else if u < storageBase then u % 2 ^ 18
  else u - storageBase

/-- What a read of a range meets: its bytes, and the code of the first unit that is poisoned or uncorrectable (R29). -/
structure Rd where
  bytes : List Byte
  code : Option Code
  deriving DecidableEq, Repr

/-- A unit is uncorrectable. -/
def spoiled (p : Prot) (u : Nat) : Bool :=
  Tab.find p.damage u == some .uncorrectable || Tab.find p.damage u == some .reported

/-- The code a unit's read delivers. -/
def unitCode (p : Prot) (u : Nat) : Option Code :=
  match Tab.find p.poison u with
  | some c => some c
  | none =>
    if spoiled p u then some 1 else none

/-- The first code among units. -/
def firstCode (p : Prot) : List Nat → Option Code
  | [] => none
  | u :: us => match unitCode p u with
    | some c => some c
    | none => firstCode p us

/-- A byte read: 0 from a poisoned unit (R347) and from an uncorrectable sector of HBM, which is delivered as poison (R32);
a free value from an uncorrectable SRAM word (R29, log 7). -/
def readByte (s : State) (key : Nat) : Byte :=
  if spoiled s.prot (unitBase key) then
    if unitSize key = 32 then 0 else (Config.freeWord (s.fresh + key)).truncate 8
  else s.mem.read key

def readRange (s : State) (key : Nat) : Nat → List Byte
  | 0 => []
  | n + 1 => readByte s key :: readRange s (key + 1) n

/-- A read of `n` bytes. -/
def readAt (s : State) (key n : Nat) : Rd := ⟨readRange s key n, firstCode s.prot (unitsOf key n)⟩

/-- The little-endian number a range holds. -/
def readNat (s : State) (key n : Nat) : Nat := leNat (readRange s key n)

/-! ### Writes -/

def State.setMem (s : State) (m : Memory) : State := { s with mem := m }
def State.setProt (s : State) (p : Prot) : State := { s with prot := p }

/-- Clears the poison of units, and the damage of those that a write of [key, key + n) covers whole (R347). -/
def cleanUnits (p : Prot) (key n : Nat) : List Nat → Prot
  | [] => p
  | u :: us =>
    let p1 := { p with poison := Tab.del p.poison u }
    let p2 := if key ≤ u ∧ u + unitSize u ≤ key + n then { p1 with damage := Tab.del p1.damage u } else p1
    cleanUnits p2 key n us

/-- A clean write (R347): poison is replaced; the rest of a poisoned unit already reads as zero. -/
def cleanWrite (s : State) (key : Nat) (bs : List Byte) : State :=
  (s.setMem (s.mem.writeBytes key bs)).setProt (cleanUnits s.prot key bs.length (unitsOf key bs.length))

/-- One unit written as poison (R347): its data bytes stand as zeros. -/
def poisonUnit (c : Code) (s : State) (u : Nat) : State :=
  (s.setMem (s.mem.writeBytes u (List.replicate (unitSize u) 0))).setProt
    { s.prot with poison := Tab.put s.prot.poison u c, damage := Tab.del s.prot.damage u }

/-- A write of poison covers every unit that the bytes touch (R113, R347). -/
def poisonWrite (s : State) (key n : Nat) (c : Code) : State := (unitsOf key n).foldl (poisonUnit c) s

/-- The bytes or poison of one write, put in place without its wakes. -/
def rawWrite (s : State) (w : MemWrite) : State :=
  match w.poison with
  | some c => poisonWrite s w.key w.bytes.length c
  | none => cleanWrite s w.key w.bytes

end Sys2Proof.Machine
end

