-- ==== Sys2Proof/Machine/Place.lean ====
section
/-! DEFINITION. Where a byte lies: cores and dies, the fields of a leaf entry, the stacks, channels and rows of HBM, what a key
names, and whether its place can serve an access. -/

namespace Sys2Proof.Machine

/-! ### Names (R132, R157) -/

def dieOf (core : Nat) : Nat := core / 512

def clusterOf (core : Nat) : Nat := core / 32

def quadOf (core : Nat) : Nat := core / 4

/-- The core on which a context's image of a home core runs: another core of the quad under donation (R390). -/
def physCore (s : State) (ctx home : Nat) : Nat := match Tab.find s.images (ctx * 4096 + home) with
  | some im => im.runsOn.getD home
  | none => home

/-! ### Leaf entries (Table 21-1) -/

def leafValid (l : Nat) : Bool := bitOf l 63

def leafState (l : Nat) : Nat := field l 60 3

def leafShared (l : Nat) : Bool := bitOf l 55

def leafSize (l : Nat) : Nat := 2 ^ (match field l 53 2 with
  | 0 => 16
  | 1 => 21
  | _ => 30)

def leafSwz (l : Nat) : Nat := field l 48 4

def leafFrame (l : Nat) : Nat := field l 0 36 * 2 ^ 16

def withState (l st : Nat) : Nat := l - leafState l * 2 ^ 60 + st * 2 ^ 60

def withFrame (l frame : Nat) : Nat := l - field l 0 36 + frame / 2 ^ 16 % 2 ^ 36

/-! ### Stacks, channels and rows (Table 21-2) -/

/-- The stack to which an HBM address belongs under a swizzle (Table 21-2). -/
def stackOf (phys swz : Nat) : Nat :=
  let a := phys % 2 ^ 39
  let u := a / (256 * 4 ^ (swz % 4))
  match swz / 4 % 4 with
  | 0 => u % 8
  | 1 => u % 1024 % 8 ^^^ (u / 1024 % 1024 % 8)
  | _ => field a 36 3

/-- The pseudo-channel and row of an HBM address (Table 21-2). -/
def channelOf (phys swz : Nat) : Nat :=
  let a := phys % 2 ^ 39
  let g := 256 * 4 ^ (swz % 4)
  let u := a / g
  let w := a % 2 ^ 36 / g
  match swz / 4 % 4 with
  | 0 => u / 8 % 128
  | 1 => (u ^^^ (u / 1024 % 1024)) / 8 % 128
  | 2 => w % 128
  | _ => (w ^^^ (w / 128)) % 128

def rowOf (phys swz : Nat) : Nat :=
  let a := phys % 2 ^ 39
  let g := 256 * 4 ^ (swz % 4)
  if swz / 8 % 2 = 0 then a / g / 1024 else a % 2 ^ 36 / g / 128

/-- The number of a row in the remap CAMs (R364): its controller, which is die * 8 + pseudo-channel / 16 (R370), then the
pseudo-channel within it and the row of Table 21-2 (log 24). -/
def rowKey (phys swz : Nat) : Nat :=
  (stackOf phys swz * 8 + channelOf phys swz / 16) * 2 ^ 25 + channelOf phys swz % 16 * 2 ^ 21 + rowOf phys swz

/-- The leaf of the page that backs an HBM byte; 0 if none does. -/
def leafAt (s : State) (key : Nat) : Nat :=
  match s.xlat.pages.find? fun p =>
      leafState p.2.leaf != 0 && leafState p.2.leaf != 3 &&
        decide (leafFrame p.2.leaf ≤ key ∧ key < leafFrame p.2.leaf + leafSize p.2.leaf) with
  | some p => p.2.leaf
  | none => 0

/-- The swizzle of the page that backs an HBM byte; the spread swizzle of code 0 where none does. -/
def swizzleOf (s : State) (key : Nat) : Nat := leafSwz (leafAt s key)

/-- The row of an HBM byte under its page's swizzle. -/
def rowKeyOf (s : State) (key : Nat) : Nat := rowKey key (swizzleOf s key)

/-! ### What a key names -/

/-- The scratchpad pointer a key names: its core and offset, where it lies in this package. -/
def keyCore (key : Nat) : Nat := field (key - scratchBase) 16 12

def keyPkg (key : Nat) : Nat := field (key - scratchBase) 28 13

def keyCtx (key : Nat) : Nat := (key - scratchBase) / 2 ^ 41

/-- The package in which a byte lies. -/
def keyPackage (s : State) (key : Nat) : Nat :=
  if key < scratchBase then key / 2 ^ 39 else if key < bufferBase then keyPkg key else s.pkg

/-! ### Banks, regions and rows that can serve an access (R31, R33, R34, R364) -/

/-- The banks of a core's scratchpad range are out of retention (R31). -/
def banksReady (s : State) (core off n : Nat) : Bool :=
  (List.range (ceilDiv (off % 8 + n) 8)).all fun i =>
    !Tab.has s.prot.banks (core * 16 + field (off + 8 * i) 3 4)

/-- The number of the storage region of a scratchpad offset (R33). -/
def regionOf (core off : Nat) : Nat := core * 16 + off % 2 ^ 16 / 4096

/-- One region can serve an access: the running image finds its own region on chip (R33); a request finds it at the bank
or in the save area (R34). -/
def regionReady (s : State) (img core off n : Nat) (own : Bool) : Bool :=
  match Tab.find s.prot.regions (regionOf core off) with
  | none => !own || banksReady s core off n
  | some r =>
    if own then r.owner == some img && r.saving.isNone && r.restoring.isNone && banksReady s core off n
    else r.saving != some img && r.restoring != some img && (r.owner != some img || banksReady s core off n)

/-- A context's data in the scratchpad of a home core can be accessed now, at the core that holds the image (R390). -/
def padReady (s : State) (ctx home off n : Nat) (own : Bool) : Bool :=
  let core := physCore s ctx home
  let img := ctx * 4096 + home
  regionReady s img core off n own &&
    (regionOf core off == regionOf core (off + n - 1) || regionReady s img core (off + n - 1) 1 own)

/-- A request can be served at the bank or the save area now (R31, R34). -/
def requestReady (s : State) (key n : Nat) : Bool :=
  decide (bufferBase ≤ key) || keyPackage s key != s.pkg ||
    padReady s (keyCtx key) (keyCore key) (key % 2 ^ 16) n false

/-- `n` bytes at a key can be accessed at their home now: the bank and region of a scratchpad, the row of HBM; another package's rows
are its own (R364). -/
def keyServes (s : State) (key n : Nat) : Bool :=
  if key < scratchBase then keyPackage s key != s.pkg || !s.prot.remapping.contains (rowKeyOf s key) else requestReady s key n

end Sys2Proof.Machine
end

