-- ==== Sys2Proof/Machine/Ops.lean ====
section
/-! DEFINITION. The named operations on strands, scopes and the fray log that every meaning shares: advancing, parking,
taking a trap (R91 to R93), observing a fray (R173), cancellation points (R169, R351), marking, cancelling and
fraying scopes (R163 to R172), shares (R162), items in flight. -/

namespace Sys2Proof.Machine

abbrev Out := Host.Outcome State Fault Refusal

/-! ### Setters -/

def State.setStrands (s : State) (t : Tab Strand) : State := { s with strands := t }
def State.putStrand (s : State) (sid : Nat) (k : Strand) : State := { s with strands := Tab.put s.strands sid k }
def State.delStrand (s : State) (sid : Nat) : State := { s with strands := Tab.del s.strands sid }
def State.modStrand (s : State) (sid : Nat) (f : Strand → Strand) : State :=
  { s with strands := Tab.modify s.strands sid f }
def State.putCore (s : State) (c : Nat) (x : Core) : State := { s with cores := Tab.put s.cores c x }
def State.modCore (s : State) (c : Nat) (f : Core → Core) : State := { s with cores := Tab.modify s.cores c f }
def State.putQuad (s : State) (q : Nat) (x : Quad) : State := { s with quads := Tab.put s.quads q x }
def State.setGroups (s : State) (g : Groups) : State := { s with groups := g }
def State.setSync (s : State) (y : Sync) : State := { s with sync := y }
def State.setXlat (s : State) (x : Xlat) : State := { s with xlat := x }
def State.setSys (s : State) (x : System) : State := { s with sys := x }
def State.setLinks (s : State) (x : Links) : State := { s with links := x }
def State.setFlights (s : State) (t : Tab Flight) : State := { s with flights := t }
def State.delFlight (s : State) (id : Nat) : State := { s with flights := Tab.del s.flights id }
def State.putOp (s : State) (id : Nat) (x : EngineOp) : State := { s with ops := Tab.put s.ops id x }
def State.delOp (s : State) (id : Nat) : State := { s with ops := Tab.del s.ops id }
/-- A record is used: its die's table counts it as the most recent (R158). -/
def useScope (t : Tab (List Nat)) (key : Nat) : Tab (List Nat) :=
  Tab.put t (key / 2 ^ 14 % 8) (key :: (Tab.get t (key / 2 ^ 14 % 8) []).erase key)
def State.putScope (s : State) (key : Nat) (r : Scope) : State :=
  { s with groups := { s.groups with scopes := Tab.put s.groups.scopes key r, recent := useScope s.groups.recent key } }
/-- A use that only reads a record (R158). -/
def State.touchScope (s : State) (key : Nat) : State :=
  { s with groups := { s.groups with recent := useScope s.groups.recent key } }
/-- The record at a key lies in the extension: its die's table of 16,384 holds as many used since (R158). -/
def inExtension (s : State) (key : Nat) : Bool :=
  ((Tab.get s.groups.recent (key / 2 ^ 14 % 8) []).drop 16384).contains key
def State.putCtx (s : State) (c : Nat) (x : Context) : State := { s with ctxs := Tab.put s.ctxs c x }
def State.putKernel (s : State) (key : Nat) (x : Kernel) : State := { s with kernels := Tab.put s.kernels key x }
def State.putQueue (s : State) (q : Nat) (x : Queue) : State := { s with queues := Tab.put s.queues q x }

/-- Puts an item in flight under the next number. -/
def State.send (s : State) (f : Flight) : State :=
  { s with flights := Tab.put s.flights s.nextId f, nextId := s.nextId + 1 }

/-- A free value (log 7), and the state with the next one to come. -/
def State.free (s : State) : Word := Config.freeWord s.fresh
def State.nextFree (s : State) : State := { s with fresh := s.fresh + 1 }

/-! ### Names (R132, R157) -/

def strandHandle (s : State) (k : Strand) : Nat := s.pkg * 2 ^ 51 + k.entry * 2 ^ 36 + k.gen
def scopeKey (ctx handle : Nat) : Nat := ctx * 2 ^ 17 + handle % 2 ^ 32 / 2 ^ 15
def pageKey (ctx va : Nat) : Nat := ctx * 2 ^ 48 + va / 2 ^ 16

/-- The home core of the image that a context runs on a core (R390). -/
def homeCore (s : State) (ctx core : Nat) : Nat :=
  match s.images.find? fun p => p.1 / 4096 == ctx && p.2.runsOn == some core with
  | some p => p.1 % 4096
  | none => core

/-- The live record a scope handle names (R157). -/
def findScope (s : State) (ctx handle : Nat) : Option Scope :=
  match Tab.find s.groups.scopes (scopeKey ctx handle) with
  | some r => if r.handle = handle % 2 ^ 32 ∧ r.state ≠ .closed then some r else none
  | none => none

/-- The package time base: nanoseconds at 2.5 cycles each (R30, R122; log 15). -/
def timeBase (s : State) : Nat := s.cycle * 2 / 5

/-! ### General registers -/

def Strand.g (k : Strand) (r : Nat) : GReg := k.regs[(r % 16 : Nat)]'(Nat.mod_lt _ (by decide))
def Strand.setG (k : Strand) (r : Nat) (v : GReg) : Strand :=
  { k with regs := k.regs.set (r % 16) v (Nat.mod_lt _ (by decide)), errs := Tab.del k.errs (r % 16) }
/-- A full, clean result. -/
def GReg.clean (v : Word) : GReg := ⟨v, true, false, 0, false⟩
def GReg.frayed (v : Word) (c : Code) : GReg := ⟨v, true, true, c, false⟩
def Strand.writeG (k : Strand) (r : Nat) (v : Word) : Strand := k.setG r (.clean v)
/-- A register whose word keeps its data and takes another fray bit and code: an error of the word stays (R28, R355, R358). -/
def Strand.remark (k : Strand) (r : Nat) (v : GReg) : Strand := { k.setG r v with errs := k.errs }
/-- A register emptied to await a return (R97). -/
def Strand.await (k : Strand) (r : Nat) : Strand := k.setG r { k.g r with full := false, pend := true }
def Strand.val (k : Strand) (r : Nat) : Word := (k.g r).val
def Strand.nat (k : Strand) (r : Nat) : Nat := (k.g r).val.toNat

/-- A vector register and its write (R241, R242). -/
def Strand.v (k : Strand) (r : Nat) : VReg := k.vregs[(r % 32 : Nat)]'(Nat.mod_lt _ (by decide))
def Strand.setV (k : Strand) (r : Nat) (x : VReg) : Strand :=
  { k with
    vregs := k.vregs.set (r % 32) x (Nat.mod_lt _ (by decide))
    errs := k.errs.filter fun p => decide (p.1 < 64 + 16 * (r % 32) ∨ 80 + 16 * (r % 32) ≤ p.1) }

def Strand.setSt (k : Strand) (st : Status) : Strand := { k with st := st }
def Strand.setPhase (k : Strand) (p : Phase) : Strand := { k with phase := p }
def Strand.setStall (k : Strand) (x : Stall) : Strand := { k with stall := x }

/-- st.T and st.FC as a fray of code `c` sets them (R349). -/
def Strand.taint (k : Strand) (c : Code) : Strand :=
  k.setSt { k.st with t := true, fc := c.zeroExtend 8 }

/-- st as one word (Table 05-8). -/
def Status.toNat (x : Status) : Nat :=
  x.mode.toNat * 2 ^ 48 + x.ec.toNat * 2 ^ 40 + x.fc.toNat * 2 ^ 32 + x.sd % 16 * 2 ^ 28 + x.x.toNat * 2 ^ 11 +
    x.a.toNat * 2 ^ 10 + x.p.toNat * 2 ^ 9 + x.c.toNat * 2 ^ 8 + x.t.toNat * 2 ^ 7 + x.ff.toNat

/-! ### Moving on (R61, R83, R89) -/

/-- The first word of the unit that is issuing: the first hint word of a run, otherwise the word at pc (R83). -/
def Strand.unitPc (k : Strand) : Nat := match k.run with
  | some r => r.first
  | none => k.pc

/-- The unit is over: no hints, no rest of a pair, no mark of a wait that has ended. -/
def Strand.endUnit (k : Strand) : Strand := { k with run := none, recheck := false, again := false, stall := .none }

/-- The count after the instruction that is issuing, where sc is eager: one for it, one for the hint run before it, and one for
the P word whose first entry it is (R171, log 67). -/
def Strand.count (k : Strand) : Nat :=
  if k.counts then k.eager + 1 + k.run.isSome.toNat + (decide (2 ≤ k.pair.length)).toNat else k.eager

/-- The next word: the rest of a pair at the same P word, or the word after (R61, R89). One more instruction is
counted (R171). -/
def Strand.advance (k : Strand) : Strand :=
  let k1 := { k.endUnit with eager := k.count }
  match k.pair with
  | [] => { k1 with pc := (k.pc + 4) % 2 ^ 64 }
  | [_] => { k1 with pair := [], pc := (k.pc + 4) % 2 ^ 64 }
  | _ :: ws => { k1 with pair := ws }

/-- A transfer of control: the rest of a pair is suppressed (R89, R120). -/
def Strand.jump (k : Strand) (target : Nat) : Strand :=
  { k.endUnit with eager := k.count, pair := [], pc := target % 2 ^ 64 }

/-- The instruction is to issue again from the first word of its unit; before the first entry of a pair has taken effect
that is the P word (R89). -/
def Strand.rewind (k : Strand) : Strand :=
  { k with pc := k.unitPc, run := none, pair := if 2 ≤ k.pair.length then [] else k.pair }

/-- The strand parks before the first word of its unit (R83). -/
def Strand.park (k : Strand) (why : Park) : Strand := { k.rewind with phase := .parked why, stall := .none }

/-- The strand parks in the instruction, which a reply completes: the rest of a pair follows it then (R89). -/
def Strand.parkIn (k : Strand) (why : Park) : Strand := { k with phase := .parked why, stall := .none }

/-- The slot stalls and the unit issues again when the wait ends (R134). -/
def Strand.wait (k : Strand) (why : Stall) : Strand := { k.rewind with stall := why }

/-! ### The fray log and snapshots (R362, R363, R446) -/

/-- What the snapshot registers latch (R446, log 26). -/
def latched (s : State) : Snapshot :=
  ⟨s.cycle, s.strands, s.cores, s.quads, s.gangs, s.prot, s.xlat, s.groups, s.sync, s.ops, s.served, s.links, s.sys.mailboxes,
    s.sys.boot, s.sys.power⟩

/-- The common snapshot trigger: it fills the window; a held window counts an overrun (R123, R446); the drain after a power
failure latches nothing new (R448). -/
def snapTrigger (s : State) : State :=
  if s.sys.snapHeld then
    s.setSys { s.sys with snapOverrun := (s.sys.snapOverrun + 1) % 2 ^ 32 }
  else if s.sys.powerFail then s
  else s.setSys { s.sys with snapHeld := true, window := some (latched s) }

/-- One entry of the fray log: a ring of 65,536 (R362). The first with the armed code since ARM is a trigger, and disarms it (R363,
R446). -/
def logFray (s : State) (kind : Nat) (code : Code) (ctx scope addr detail : Nat) : State :=
  let e : LogEntry := ⟨timeBase s, kind, code, ctx, scope, addr, detail⟩
  let s1 :=
    if s.sys.frayLog.length < 65536 then s.setSys { s.sys with frayLog := s.sys.frayLog ++ [e] }
    else s.setSys { s.sys with
      frayLog := s.sys.frayLog.drop 1 ++ [e], logOverrun := (s.sys.logOverrun + 1) % 2 ^ 32 }
  if s.sys.armed ≠ 0 ∧ s.sys.armed = code.toNat then snapTrigger (s1.setSys { s1.sys with armed := 0 }) else s1

/-! ### Shares in flight (R162) -/

/-- A member's return of 2^e units on its way to the scope's home. -/
def returnShare (s : State) (ctx scope e : Nat) : State := s.send (.share ctx scope (2 ^ e) s.pkg)

/-- An acknowledgment of `SEND` on its way back (R152). -/
def ackMsg (s : State) (m : Msg) (v : Nat) (fray : Bool) (c : Code) : State :=
  match m.ack with
  | some r => s.send (.ack m.sender m.senderGen ⟨r, BitVec.ofNat 64 v, fray, c⟩)
  | none => s

/-- A message that ends undelivered: its share returns, and its acknowledgment carries 1 (gone) or 2 (cancelled) (R147). -/
def dropMsg (s : State) (m : Msg) (v : Nat) : State :=
  ackMsg (s.send (.share m.ctx m.scope m.units (field m.target 51 13))) m v false 0

/-- A list of messages that end undelivered. -/
def dropMsgs (s : State) (ms : List Msg) (v : Nat) : State := ms.foldl (fun s m => dropMsg s m v) s

/-! ### Fills and the delivery of messages (R97, R147) -/

/-- A fill of one general register (R97): a park on it ends. -/
def Strand.fill (k : Strand) (f : Fill) : Strand :=
  let k1 := k.setG f.reg ⟨f.val, true, f.fray, f.code, false⟩
  match k.phase with
  | .parked (.reg r) => if r % 16 = f.reg % 16 then { k1 with phase := .running, recheck := true } else k1
  | .parked (.ret r) => if r % 16 = f.reg % 16 then { k1 with phase := .running } else k1
  | _ => k1

/-- The fills of a strand of the named generation; a strand that has retired takes none. -/
def fillStrand (s : State) (sid gen : Nat) (fs : List Fill) : State :=
  s.modStrand sid fun k => if k.gen = gen then fs.foldl Strand.fill k else k

/-- A message can be delivered into a register (R147). -/
def receivable (k : Strand) (r : Nat) : Bool :=
  k.st.mode.getLsbD (r % 16) && !(k.g r).full && !(k.g r).pend

/-- Delivery: the register is filled, the share returns, the acknowledgment carries 0 (R147, R152). -/
def deliver (s : State) (sid : Nat) (m : Msg) : State :=
  ackMsg ((s.modStrand sid fun k => k.fill ⟨m.reg, m.val, m.fray, m.code⟩).send (.share m.ctx m.scope m.units s.pkg)) m 0 false 0

/-- The messages held for a strand, oldest first: each is delivered or stays held. -/
def deliverEach (sid : Nat) : List Msg → State → State
  | [], s => s
  | m :: ms, s =>
    match Tab.find s.strands sid with
    | none => s
    | some k =>
      if receivable k m.reg then deliverEach sid ms (deliver s sid m)
      else deliverEach sid ms (s.putStrand sid { k with mail := k.mail ++ [m] })

/-- A strand takes no message while it is switched out, on its way, or being retired (Tables 06-7 and 06-8). -/
def takesMail (k : Strand) : Bool := !k.out && k.phase != .migrating && k.phase != .cancelling

/-- What comes for a switched-out strand goes to the spill queue of its directory die (R389). -/
def spillTo (s : State) (sid : Nat) (k : Strand) (x : Spilled) : State :=
  let key := k.ctx * 8 + k.entry / 4096
  s.setGroups { s.groups with spill := Tab.put s.groups.spill key (Tab.get s.groups.spill key [] ++ [(sid, x)]) }

/-- Strands that wait for one thing look again; the wake of a switched-out one is spilled (R389). -/
def wakeParked (s : State) (why : Park) (item : Spilled) : State :=
  let s1 := s.setStrands (s.strands.map fun p =>
    (p.1, if p.2.phase = .parked why ∧ p.2.out = false then { p.2 with phase := .running } else p.2))
  (s.strands.filter fun p => p.2.phase == .parked why && p.2.out &&
    !(s.groups.spill.any fun q => q.2.contains (p.1, item))).foldl (fun s p => spillTo s p.1 p.2 item) s1

/-- Strands that wait for a ticket, spool space or room for a message look again (R149, R389). -/
def wakeSpace (s : State) : State := wakeParked s .space .space

/-- Delivers what can be delivered of a strand's mailbox queue. -/
def deliverHeld (s : State) (sid : Nat) : State :=
  match Tab.find s.strands sid with
  | none => s
  | some k =>
    if takesMail k && !k.mail.isEmpty then wakeSpace (deliverEach sid k.mail (s.putStrand sid { k with mail := [] })) else s

/-! ### What a read or scrub finds in a damaged word (R29, R348, R363, R364) -/

/-- A byte lies in this package. -/
def ownPlace (s : State) (key : Nat) : Bool := keyPackage s key == s.pkg

/-- An uncorrectable sector found in HBM makes its row due for a remap, whatever becomes of the sector (R364). -/
def noteRow (s : State) (u : Nat) : State :=
  if scratchBase ≤ u ∨ ownPlace s u = false then s
  else s.setProt { s.prot with
    rowErrors := Tab.put s.prot.rowErrors (rowKeyOf s u) (Nat.max 16 (Tab.get s.prot.rowErrors (rowKeyOf s u) 0)) }

/-- What a read or a scrub finds in a damaged unit: a correctable error is corrected, written back and counted, an
uncorrectable one is logged once as a source (R29, R348, R363, R364); one of another package by that package. -/
def noteUnit (ctx : Nat) (s : State) (u : Nat) : State :=
  match Tab.find s.prot.damage u with
  | some .uncorrectable =>
    let s1 := noteRow s u
    let s2 := s1.setProt { s1.prot with damage := Tab.put s1.prot.damage u .reported }
    if ownPlace s u then logFray s2 5 1 ctx 0 (unitAddress u) 0 else s2
  | some .correctable =>
    let rows := if scratchBase ≤ u ∨ ownPlace s u = false then s.prot.rowErrors
      else Tab.put s.prot.rowErrors (rowKeyOf s u) (Tab.get s.prot.rowErrors (rowKeyOf s u) 0 + 1)
    s.setProt { s.prot with
      damage := Tab.del s.prot.damage u, corrected := s.prot.corrected + (ownPlace s u).toNat, rowErrors := rows }
  | _ => s

/-- A read of `n` bytes at a key, as the protection of its units sees it. -/
def noteDamage (s : State) (ctx key n : Nat) : State := (unitsOf key n).foldl (noteUnit ctx) s

/-- A register word whose error cannot be corrected: its value is free, and frayed with code 1 (R29). -/
def Strand.spoil (k : Strand) (w : Nat) (v : Word) : Strand :=
  if w < 16 then { k with regs := k.regs.set (w % 16) { k.g w with val := v, fray := true, code := 1 } (Nat.mod_lt _ (by decide)) }
  else if w < 32 then
    let x := k.masks[((w - 16) / 2 % 8 : Nat)]'(Nat.mod_lt _ (by decide))
    let half := 2 ^ (64 * (w % 2))
    let d := x.data.toNat - x.data.toNat / half % 2 ^ 64 * half + v.toNat * half
    { k with masks := k.masks.set ((w - 16) / 2 % 8) ⟨BitVec.ofNat 128 d, true, 1⟩ (Nat.mod_lt _ (by decide)) }
  else
    let x := k.v ((w - 64) / 16)
    let chunk := 2 ^ (64 * (w % 16))
    let d := x.data.toNat - x.data.toNat / chunk % 2 ^ 64 * chunk + v.toNat * chunk
    { k with vregs := k.vregs.set ((w - 64) / 16 % 32) ⟨BitVec.ofNat 1024 d, x.fray ||| 1#16 <<< (w % 16), 1⟩ (Nat.mod_lt _ (by decide)) }

/-- A register word as a read or a scrub finds it: corrected and counted, or logged as a source and frayed (R29, R348, R363, R365; the
log's address is 0, log 66). -/
def noteWord (sid : Nat) (s : State) (w : Nat) : State :=
  match Tab.find s.strands sid with
  | none => s
  | some k =>
    let k1 := { k with errs := Tab.del k.errs w }
    match Tab.find k.errs w with
    | none => s
    | some .correctable => (s.putStrand sid k1).setProt { s.prot with corrected := s.prot.corrected + 1 }
    | some _ => (logFray (s.putStrand sid (k1.spoil w s.free)) 5 1 k.ctx 0 0 0).nextFree

/-- The register words an instruction reads. -/
def noteWords (s : State) (sid : Nat) (ws : List Nat) : State := ws.foldl (noteWord sid) s

/-- The general registers and masks of strands that leave their core, which are read as they are sent or saved (R139, R387). -/
def noteLeaving (s : State) (sids : List Nat) : State := sids.foldl (fun s sid => noteWords s sid (List.range 32)) s

/-- The words of vector registers and of the mask file, which a vector instruction reads whole (log 66). -/
def vectorWords (vs : List Nat) : List Nat := (List.range 16).map (16 + ·) ++ vs.flatMap fun v => (List.range 16).map (64 + 16 * (v % 32) + ·)

/-- A word of a die's other arrays by what it holds: 0 a spool record by its ticket, 1 a fetch buffer's word by its strand and
address, 2 another (R3; log 66). -/
def arrayKey (die kind name : Nat) : Nat := (die * 4 + kind) * 2 ^ 96 + name

/-- A word of another array as a read or a scrub finds it (R29, R365); an uncorrectable one is logged once. -/
def noteArray (ctx : Nat) (s : State) (key : Nat) : State :=
  match Tab.find s.prot.arrays key with
  | some .correctable => s.setProt { s.prot with arrays := Tab.del s.prot.arrays key, corrected := s.prot.corrected + 1 }
  | some .uncorrectable => logFray (s.setProt { s.prot with arrays := Tab.put s.prot.arrays key .reported }) 5 1 ctx 0 0 0
  | _ => s

/-- A word of another array cannot be corrected. -/
def arraySpoiled (s : State) (key : Nat) : Bool :=
  Tab.find s.prot.arrays key == some .uncorrectable || Tab.find s.prot.arrays key == some .reported

/-- A word of another array written anew. -/
def renewArray (s : State) (key : Nat) : State := s.setProt { s.prot with arrays := Tab.del s.prot.arrays key }

/-! ### Cluster caches (R26, R223) -/

def State.setCaches (s : State) (x : Caches) : State := { s with caches := x }

def clockOf (s : State) (die : Nat) : List Nat := Tab.get s.sync.vclock die (List.replicate 8 0)
def appliedOf (s : State) (die : Nat) : List Nat := Tab.get s.sync.applied die (List.replicate 8 0)

/-- A line meets `n` bytes at a key. -/
def Line.meets (x : Line) (key n : Nat) : Bool := decide (x.base < key + n ∧ key < x.base + 128)

/-- A cluster for which a test holds has a line, or one on its way, that meets a range. -/
def lineHeld (s : State) (which : Nat → Bool) (key n : Nat) : Bool :=
  (s.caches.lines.any fun p => which p.1 && p.2.any (·.meets key n)) || s.caches.fills.any fun p => which p.2.1 && p.2.2.meets key n

/-- Lines go from the clusters for which a test holds. -/
def dropLines (s : State) (which : Nat → Bool) (gone : Line → Bool) : State := s.setCaches {
  lines := s.caches.lines.map fun p => (p.1, if which p.1 then p.2.filter fun x => !gone x else p.2)
  fills := s.caches.fills.filter fun p => !(which p.2.1 && gone p.2.2) }

/-- The lines that meet a range go. -/
def dropRange (s : State) (which : Nat → Bool) (key n : Nat) : State :=
  if lineHeld s which key n then dropLines s which (·.meets key n) else s

/-- A stamped item's invalidation, and the bytes that one concerns: the writes of a write lie within 256 bytes (R234). -/
def MemWrite.invalidation (w : MemWrite) : MemWrite := ⟨w.key, [], none⟩
def MemWrite.span (w : MemWrite) : Nat := if w.bytes.isEmpty then 256 else w.bytes.length
def MemWrite.touches (w : MemWrite) (key n : Nat) : Bool := decide (w.key < key + n ∧ key < w.key + w.span)

/-- A die stamps a cross-die write: its clock counts it, it is applied there, and an item goes to every other die (R223). -/
def stampWrite (s : State) (die sid : Nat) (w : Nat → MemWrite) : State :=
  let v := clockOf s die
  let v1 := v.set die ((v.getD die 0 + 1) % 2 ^ 32)
  let s1 := s.setSync { s.sync with
    vclock := Tab.put s.sync.vclock die v1
    applied := Tab.put s.sync.applied die ((appliedOf s die).set die (v1.getD die 0)) }
  ((List.range 8).filter fun d => d != die).foldl (fun s d => s.send (.stamped die d sid v1 (w d))) s1

/-- A write performed at its home reaches the caches: its die's lose the line at once; another die that holds it, to which no
invalidation of it is on its way, makes it a cross-die write of the home die (R223). -/
def uncache (s : State) (w : MemWrite) : State :=
  if scratchBase ≤ w.key ∨ lineHeld s (fun _ => true) w.key w.bytes.length = false then s
  else if ownPlace s w.key = false then dropRange s (fun _ => true) w.key w.bytes.length
  else
    let home := stackOf w.key (swizzleOf s w.key)
    let s1 := dropRange s (fun c => c / 16 == home) w.key w.bytes.length
    let told := fun d : Nat => s.flights.any fun p => match p.2 with
      | .stamped _ dst _ _ x => dst == d && x.touches w.key w.bytes.length
      | _ => false
    if (List.range 8).any fun d => d != home && lineHeld s (fun c => c / 16 == d) w.key w.bytes.length && !told d then
      stampWrite s1 home (s.cur.getD 0) fun _ => w.invalidation
    else s1

/-! ### Writes with their wakes (R204, R205) -/

/-- A doubleword's bytes and poison, as a waiter would see a change. -/
def dwordView (s : State) (key : Nat) : List Byte × Option Code :=
  (s.mem.readBytes key 8, Tab.find s.prot.poison (unitBase key))

/-- A strand parked in `WAITA` runs, to re-read its doubleword (R205). -/
def Strand.leaveWaita (k : Strand) : Strand := match k.phase with
  | .parked (.waita _) => { k with phase := .running }
  | _ => k

/-- A recorded `WAITA` is woken (R205): its record says by what, a `WAKEA` prevailing over a write, and its strand runs; the wake of
a switched-out one is spilled (R396). -/
def wakeWaita (s : State) (m : Monitor) (how : Woken) : State :=
  let s1 := s.setSync { s.sync with monitors := s.sync.monitors.map fun x =>
    if x.sid = m.sid ∧ x.woken ≠ .byWakea then { x with woken := how } else x }
  match Tab.find s.strands m.sid with
  | none => s1
  | some k => if k.out then (if m.woken = .no then spillTo s1 m.sid k .waita else s1) else s1.modStrand m.sid (·.leaveWaita)

/-- The waiters on doublewords that a write has changed are woken (R204, R205). -/
def wakeMonitors (before after : State) : State :=
  (after.sync.monitors.filter fun m =>
    !m.poll && decide (dwordView before m.loc.key ≠ dwordView after m.loc.key)).foldl (fun s m => wakeWaita s m .byWrite) after

/-- A write performed at its home. -/
def writeAt (s : State) (w : MemWrite) : State := uncache (wakeMonitors s (rawWrite s w)) w

/-- A clean write performed at its home. -/
def putBytes (s : State) (key : Nat) (bs : List Byte) : State := writeAt s ⟨key, bs, none⟩

/-! ### Marking, cancelling and fraying (R163 to R172) -/

/-- A scope has marked a member, a strand by its handle or none for another member: any but its succeeder (R164). -/
def hasMarked (r : Scope) (member : Option Nat) : Bool :=
  r.state == .cancelling || r.result == .cancelled || r.result == .frayed ||
    (r.result == .succeeded && some r.succeeder != member)

/-- An item is a reply to a strand's `BWAIT` or a grant of its `LOCK`. -/
def Flight.repliesTo (sid : Nat) : Flight → Bool
  | .bwaitRet x _ _ _ _ => x == sid
  | .lockRet x _ _ _ _ => x == sid
  | _ => false

/-- A spilled item is a reply to a strand's `BWAIT`. -/
def spillsReply (sid : Nat) (x : Nat × Spilled) : Bool := x.1 == sid && (match x.2 with
  | .bwait _ _ _ _ => true
  | _ => false)

/-- A reply to a parked `BWAIT` or a grant to a parked `LOCK` is on its way, or spilled (Table 08-8). -/
def replied (s : State) (sid : Nat) : Bool :=
  (s.flights.any fun p => p.2.repliesTo sid) || s.groups.spill.any fun p => p.2.any (spillsReply sid)

/-- The replies to a strand are discarded (Table 08-8). -/
def dropReplies (s : State) (sid : Nat) : State :=
  (s.setFlights (s.flights.filter fun p => !p.2.repliesTo sid)).setGroups { s.groups with
    spill := s.groups.spill.map fun p => (p.1, p.2.filter fun x => !spillsReply sid x) }

/-- A lock's arrived field counts one queued waiter less (Table 08-1). The field is read, with what that finds of an error; a poisoned
or uncorrectable one is no count, and stays as it is (R29; DESIGN CHOICE, log 87). -/
def countLess (s : State) (ctx key : Nat) : State :=
  let s1 := noteDamage s ctx (key + 8) 8
  if (readAt s (key + 8) 8).code.isSome then s1 else putBytes s1 (key + 8) (leBytes 8 (readNat s (key + 8) 8 - 1))

/-- The records of a waiter at barriers, locks and doublewords, withdrawn (R194). -/
def withdraw (s : State) (sid : Nat) : State :=
  let keep := fun (ws : List Waiter) => ws.filter fun w => w.sid != sid
  let keys := (s.sync.queues.filter fun p => p.2.any fun w => w.sid == sid).map (·.1)
  let s1 := s.setSync { s.sync with
    waiters := s.sync.waiters.map fun p => (p.1, keep p.2)
    queues := s.sync.queues.map fun p => (p.1, keep p.2)
    monitors := s.sync.monitors.filter fun m => m.sid != sid }
  -- a lock's queued waiters are counted in its arrived field (Table 08-1); its bank may make the write wait (R31)
  keys.foldl (fun s key =>
    if keyServes s key 32 then countLess s (sid / 32768) key else s.send (.lockUpdate (sid / 32768) 0 key false)) s1

/-- The destination of a wait that ends without its reply stays empty and awaits nothing (R194, Table 08-8). -/
def Strand.unawait (k : Strand) (d : Nat) : Strand := k.setG d { k.g d with full := false, pend := false }

/-- A wait that a cancel ends: the register stays empty, and may then take a message that is held for it (R147, R194). -/
def endWait (s : State) (sid d : Nat) (k : Strand) : State := deliverHeld (s.putStrand sid (k.unawait d)) sid

/-- Marks one strand (R165): its pending cancel is set, and a park that a cancel ends is left (Table 06-2, R194); a
mark for a switched-out strand is spilled (R129, R389). A `LOCK`'s fray reply on its way stands as a grant does (R207; DESIGN
CHOICE, log 96). -/
def markStrand (s : State) (sid : Nat) : State :=
  match Tab.find s.strands sid with
  | none => s
  | some k =>
    let k1 := k.setSt { k.st with c := true }
    let woken := { k1 with phase := .running, recheck := true, again := false }
    if k.out then spillTo s sid k .mark
    else match k.phase with
      | .placed => s
      | .cancelling => s
      -- between the entries of a pair there is no point (R89, R169)
      | .parked (.reg _) => s.putStrand sid (if k.st.sd = 0 ∧ k.pair.length ≠ 1 then woken else k1)
      | .parked (.bwait d) =>
        if replied s sid then (if k.st.sd = 0 then endWait (dropReplies s sid) sid d woken else s.putStrand sid k1)
        else endWait (withdraw s sid) sid d woken
      | .parked (.lock d) => if replied s sid then s.putStrand sid k1 else endWait (withdraw s sid) sid d woken
      | .parked (.waita d) => endWait (withdraw s sid) sid d { woken with st := { woken.st with p := false } }
      | _ => s.putStrand sid k1

/-- The members of a scope among the strands, but for one handle if one is given. -/
def membersOf (s : State) (ctx scope : Nat) (but : Option Nat) : List Nat :=
  (s.strands.filter fun p =>
    p.2.ctx == ctx && p.2.sc == scope && some (strandHandle s p.2) != but).map (·.1)

/-- Held messages of a marked scope are discarded (R147, R165). -/
def discardHeld (s : State) (ctx scope : Nat) : State :=
  let mine := fun (m : Msg) => m.ctx == ctx && m.scope == scope
  let spilled := fun (x : Nat × Spilled) => match x.2 with
    | .msg m => if mine m then some m else none
    | _ => none
  let held := (s.strands.map fun p => p.2.mail.filter mine).flatten ++
    (s.groups.tickets.map fun p => p.2.mail.filter mine).flatten ++
    (s.groups.spill.map fun p => p.2.filterMap spilled).flatten
  let s1 := s.setStrands (s.strands.map fun p => (p.1, { p.2 with mail := p.2.mail.filter fun m => !mine m }))
  let s2 := s1.setGroups { s1.groups with
    tickets := s1.groups.tickets.map fun p => (p.1, { p.2 with mail := p.2.mail.filter fun m => !mine m })
    spill := s1.groups.spill.map fun p => (p.1, p.2.filter fun x => (spilled x).isNone) }
  if held.isEmpty then s2 else wakeSpace (dropMsgs s2 held 2)

/-- Engine operations of a marked scope that were not issued under a shield (R165). -/
def markOps (s : State) (ctx scope : Nat) : State :=
  { s with ops := s.ops.map fun p =>
      (p.1, if p.2.ctx == ctx && p.2.scope == scope && !p.2.shielded then { p.2 with marked := true } else p.2) }

/-- Marks the members of a scope, but for one handle if one is given (R165). -/
def markMembers (s : State) (ctx scope : Nat) (but : Option Nat) : State :=
  markOps (discardHeld ((membersOf s ctx scope but).foldl markStrand s) ctx scope) ctx scope

/-- A cancel goes on to every package of the remote list that has units outstanding (R164 step 4, R426). -/
def forwardCancel (s : State) (ctx : Nat) (r : Scope) : State :=
  (r.remotes.filter fun p => p.2 != 0).foldl (fun s p => s.send (.proxyCancel ctx r.handle p.1)) s

/-- A cancel applied to one record (R164); `descent` when it comes from an ancestor.  After a `SUCCEED` a cancel that does not
come by descent changes nothing here (Table 07-9); one that meets an emptying scope acts whenever it came (log 68). -/
def cancelOne (s : State) (ctx : Nat) (descent : Bool) (r : Scope) : State :=
  let res := if r.result = .ok then ScopeResult.cancelled else r.result
  let key := scopeKey ctx r.handle
  let mark := fun s : State => forwardCancel (markMembers s ctx r.handle none) ctx r
  match r.state with
  | .cancelling => s.putScope key { r with result := res }
  | .succeeded => if descent then mark (s.putScope key { r with state := .cancelling }) else s
  | .closed => s
  | .open => mark (s.putScope key { r with state := .cancelling, result := res })
  | .emptying =>
    if r.result = .ok ∨ (r.result = .succeeded ∧ descent) then mark (s.putScope key { r with result := res }) else s

/-- Whether the walk from a scope upward through parents reaches another, within `fuel` records. -/
def reaches (s : State) (ctx : Nat) : Nat → Nat → Nat → Bool
  | 0, _, _ => false
  | fuel + 1, h, target =>
    if h = target then true
    else match findScope s ctx h with
      | some r => if r.parent = 0 then false else reaches s ctx fuel r.parent target
      | none => false

def scopeFuel (s : State) : Nat := s.groups.scopes.length + 1

/-- The open scopes below one, of one context. -/
def descendants (s : State) (ctx h : Nat) : List Scope :=
  (s.groups.scopes.filter fun p =>
    p.1 / 2 ^ 17 == ctx && p.2.handle != h && reaches s ctx (scopeFuel s) p.2.parent h).map (·.2)

/-- A cancel reaches a scope and every open scope below it (R164; the descent is one step, log 4). -/
def cancelScope (s : State) (ctx h : Nat) : State :=
  match findScope s ctx h with
  | none => s
  | some r => (descendants s ctx h).foldl (fun s d => cancelOne s ctx true d) (cancelOne s ctx false r)

/-- Units of a scope enter or leave its proxy record at another package, which is freed with its last (R426, log 31). -/
def raiseProxy (s : State) (ctx scope pkg units : Nat) : State :=
  let key := scopeKey ctx scope * 8192 + pkg
  let x := Tab.get s.links.proxies key ⟨s.pkg, ctx, scope, pkg, 0, false⟩
  s.setLinks { s.links with proxies := Tab.put s.links.proxies key { x with units := x.units + units } }
def lowerProxy (s : State) (ctx scope pkg units : Nat) : State :=
  let key := scopeKey ctx scope * 8192 + pkg
  match Tab.find s.links.proxies key with
  | none => s
  | some x =>
    let rest := if x.units ≤ units then Tab.del s.links.proxies key else Tab.put s.links.proxies key { x with units := x.units - units }
    s.setLinks { s.links with proxies := rest }

/-- An MSI-X vector raised (R427). -/
def raiseMsix (s : State) (v : Nat) : State := s.setSys { s.sys with msix := s.sys.msix ++ [v] }

/-- An event posted to a context's ring of 256, with its vector (R393, R441); once a TEARDOWN has begun, none of a frayed root
(R396). -/
def postEvent (s : State) (ctx kind code object : Nat) : State :=
  match Tab.find s.ctxs ctx with
  | some c =>
    if kind = 0 ∧ c.tearing.isSome then s else
    let kept := if c.events.length < 256 then c.events else c.events.drop 1
    raiseMsix (s.putCtx ctx { c with events := kept ++ [(kind, code, object)], posted := c.posted + 1 }) (8 + ctx)
  | none => s

/-- Fraying a scope with a code (R172): result, cancel, fray log; a frayed context root is reported (R393). -/
def frayScope (s : State) (ctx h : Nat) (c : Code) : State :=
  match findScope s ctx h with
  | none => s
  | some r =>
    let first := r.result != .frayed
    let s1 := if first then s.putScope (scopeKey ctx h) { r with result := .frayed, fray := c } else s
    let s2 := logFray (cancelScope s1 ctx h) 1 c ctx (h % 2 ^ 32) 0 0
    -- a frayed result has marked every member, the succeeder too (R164)
    let unmarked := r.state == .succeeded || (r.state == .emptying && (r.result == .ok || r.result == .succeeded))
    let s2 := if first && unmarked then forwardCancel (markMembers s2 ctx r.handle none) ctx r else s2
    if first && r.root && r.parent == 0 then postEvent s2 ctx 0 c.toNat r.handle else s2

/-- The nearest selvedge of a scope (R352). -/
def nearestSelvedge (s : State) (ctx : Nat) : Nat → Nat → Nat
  | 0, h => h
  | fuel + 1, h =>
    match findScope s ctx h with
    | some r => if r.selv || r.parent == 0 then h else nearestSelvedge s ctx fuel r.parent
    | none => h

def selvedgeOf (s : State) (ctx h : Nat) : Nat := nearestSelvedge s ctx (scopeFuel s) h

/-! ### Cancellation points (R169, R351) -/

/-- The strand opened its current scope. -/
def isOpener (s : State) (k : Strand) : Bool :=
  match findScope s k.ctx k.sc with
  | some r => !r.root && r.opener == strandHandle s k
  | none => false

/-- The strand leaves rotation to be retired (R128). -/
def enterCancelling (s : State) (sid : Nat) (k : Strand) : State :=
  s.putStrand sid { k.endUnit with phase := .cancelling, pair := [] }

/-- The gang of a member that lands or retires is aborted (R296): set once the gang operations are known below. -/
def gangOf (k : Strand) : Option Nat := match k.gang with
  | some m => some m.gang
  | none => none

/-- A core none of whose strands is a gang member is in compact rotation from the next cycle: in this one only the slot of its phase
can still be chosen (R137, R296, R297). -/
def settlePhase (s : State) (core : Nat) : State :=
  if s.strands.any fun p => p.2.core == core && p.2.gang.isSome then s
  else s.modCore core fun c => match c.phase with
    | none => c
    | some φ => { c with phase := none, able := c.able.filter (· == (s.cycle + 8 - φ % 8) % 8) }

/-- Leaves a gang without its members: each returns to compact rotation, its scopes fray with code 6 (R296). -/
def abortGang (s : State) (g : Nat) : State :=
  match Tab.find s.gangs g with
  | none => s
  | some x =>
    let mem := x.members.filterMap fun sid => (Tab.find s.strands sid).map fun k => (sid, k)
    let scopes := (mem.filterMap fun p => p.2.gang.map (·.scope)).dedup
    let s1 := mem.foldl (fun s p =>
      let k := p.2
      let k1 := { k with gang := none, gangAborted := true, vccTarget := none }
      -- a parked GANG.ENTER completes
      let k2 := match k.phase with
        | .parked .gang => { k1.advance with phase := .running }
        | _ => k1
      s.putStrand p.1 k2) s
    let s1 := mem.foldl (fun s p => settlePhase s p.2.core) s1
    -- loads still held fill when their data returns
    let mine := fun sid => x.members.contains sid
    let s2 := s1.setFlights (s1.flights.map fun p => (p.1, match p.2 with
      | .vecRet sid gen d v due => if mine sid then .vecRet sid gen d v none else .vecRet sid gen d v due
      | .vecLoad sid gen d t got left v due =>
        if mine sid then .vecLoad sid gen d t got left v none else .vecLoad sid gen d t got left v due
      | .loadRet sid gen fs due => if mine sid then .loadRet sid gen fs none else .loadRet sid gen fs due
      | .remoteLoad sid gen key ps v due =>
        if mine sid then .remoteLoad sid gen key ps v none else .remoteLoad sid gen key ps v due
      | f => f))
    let s3 := { s2 with gangs := Tab.del s2.gangs g }
    scopes.foldl (fun s h => frayScope s x.ctx h 6) s3

/-- The gang of a strand that lands or retires ends (R296). -/
def leaveGangAborting (s : State) (k : Strand) : State := match gangOf k with
  | some g => abortGang s g
  | none => s

/-- The check of a strand's taint before a cancellation point (R351). -/
def taintCheck (s : State) (sid : Nat) : State :=
  match Tab.find s.strands sid with
  | none => s
  | some k =>
    if k.st.t then
      let v := selvedgeOf s k.ctx k.sc
      match findScope s k.ctx v with
      | some r =>
        if r.result = .frayed then s
        else frayScope s k.ctx v (if k.st.fc = 0 then 9 else k.st.fc.truncate 4)
      | none => s
    else s

/-- Acts on a pending cancel where the shield allows (R169, R170): the state, and whether the instruction goes on. -/
def actOnCancel (s : State) (sid : Nat) : State × Bool :=
  match Tab.find s.strands sid with
  | none => (s, false)
  | some k =>
    if k.st.sd > 0 ∨ k.st.c = false then (s, true)
    else
      let s1 := leaveGangAborting s k
      match Tab.find s1.strands sid with
      | none => (s1, false)
      | some j =>
        let k1 := { j.setSt { j.st with c := false } with gang := none }
        match findScope s k.ctx k.sc with
        | some r =>
          if isOpener s k then
            -- the landing is read in the record, which is used (R158)
            ((s1.touchScope (scopeKey k.ctx k.sc)).putStrand sid
              { k1.endUnit with pair := [], phase := .running, pc := r.landing }, false)
          else (enterCancelling s1 sid k1, false)
        | none => (enterCancelling s1 sid k1, false)

/-- A cancellation point (R169): the eager count, the taint check, then the pending cancel. -/
def cancelPoint (s : State) (sid : Nat) : State × Bool :=
  actOnCancel (taintCheck (s.modStrand sid fun k => { k with eager := 0 }) sid) sid

/-! ### Observing a fray (R95, R173) -/

/-- The observer's FC and T, and the selvedge frayed whatever its shield. -/
def frayNearest (s : State) (sid : Nat) (c : Code) : State :=
  match Tab.find s.strands sid with
  | none => s
  | some k => frayScope (s.putStrand sid (k.taint c)) k.ctx (selvedgeOf s k.ctx k.sc) c

/-- A strand observes a fray at an instruction that then has no effect (R173): it lands or retires when it is marked
and unshielded, and otherwise goes on with its next instruction. From a word within a hint run it goes on at the word after that
one, without the hints before it, and from the first entry of a pair with the second (DESIGN CHOICE: R83 and R89 do not say where;
log 74). The fray has the new code, and the strand's earlier st.FC takes no taint check here (DESIGN CHOICE: R173 does not say which
comes first; log 86). -/
def observeFray (s : State) (sid : Nat) (c : Code) : State :=
  let s1 := frayNearest (s.modStrand sid fun k => { k with eager := 0 }) sid c
  let r := actOnCancel s1 sid
  if r.2 then r.1.modStrand sid (·.advance) else r.1

/-! ### Taking a trap (R91 to R93) -/

/-- The `.trap` entry of a strand's kernel (Table 05-7, R397). -/
def trapEntry (s : State) (k : Strand) : Option Nat := (Tab.find s.kernels (k.ctx * 2 ^ 32 + k.kernel)).bind (·.tvec)

/-- Whether a fetch at an address passes its segment check with the ex right (R20, R21). -/
def fetchSegOk (segs : List Nat) (pc : Nat) : Bool :=
  let sel := pc / 2 ^ 61 % 8
  let r := segs.getD sel 0
  sel != 7 && bitOf r 125 && decide (pc % 2 ^ 61 + 4 ≤ field r 61 61)

/-- The segment table in force on a core (R391). -/
def segsOf (s : State) (ctx core : Nat) : List Nat :=
  match Tab.find s.cores core with
  | some c => match c.oldSegs with
    | some t => t
    | none => ((Tab.find s.ctxs ctx).map (·.segs)).getD []
  | none => ((Tab.find s.ctxs ctx).map (·.segs)).getD []

/-- st.EC and ep as a trap writes them (R92). -/
def Strand.saveTrap (k : Strand) (cause : Nat) : Strand :=
  { k.setSt { k.st with ec := BitVec.ofNat 8 cause } with ep := k.unitPc }

/-- A precise trap: EC, ep, and the handler's address; without a usable handler a fray with code 8 (R92, R93). The segment check of
the handler's address is made here, not at the later fetch of its word, and the instruction that trapped has been counted
(DESIGN CHOICE: R93 does not say when the check is made, nor R171 whether a trapping instruction counts; log 80). -/
def trap (s : State) (sid : Nat) (cause : Nat) : State :=
  match Tab.find s.strands sid with
  | none => s
  | some k =>
    let k1 := k.saveTrap cause
    match trapEntry s k with
    | none => observeFray (s.putStrand sid k1) sid 8
    | some tv =>
      if fetchSegOk (segsOf s k.ctx k.core) tv = false then observeFray (s.putStrand sid k1) sid 8
      else s.putStrand sid { k1.endUnit with eager := k.count, pair := [], pc := tv }

/-- The causes of Table 04-12. -/
def causeIllegal : Nat := 0x01
def causeSegment : Nat := 0x02
def causeBuffer : Nat := 0x03
def causeAlignment : Nat := 0x04
def causeBound : Nat := 0x05
def causeSchedule : Nat := 0x06
def causeGroup : Nat := 0x07
def causeTrap : Nat := 0x08
def causeBkpt : Nat := 0x09
def causeVector : Nat := 0x0A
def causeRight : Nat := 0x0B
def causeStale : Nat := 0x0C

/-- The return from a trap handler: `JR` to the address that `CTLR` read from ep (R92); there is no other. -/
def returnFrom (s : State) (sid target : Nat) : State := s.modStrand sid fun k => k.jump target

/-! ### Flags -/

/-- Flags merge into the issuer's st.FF (R48). -/
def Strand.mergeFlags (k : Strand) (f : Fp.Flags) : Strand := k.setSt { k.st with ff := k.st.ff ||| f }

end Sys2Proof.Machine
end

