-- ==== Sys2Proof/Machine/Xlat.lean ====
section
/-! DEFINITION. Addresses: segment and spread checks (R14 to R21, R104), pages and the leaf entry (R368 to R374), where a
byte lives, links and vector clocks on the way (R223, R224, R231), and writes with the wakes they cause (R205). -/

namespace Sys2Proof.Machine

/-- The rights an access needs, as the bits of Table 02-3: rd 1, wr 2, ex 4, en 8. -/
def needRd : Nat := 1
def needWr : Nat := 2
def needEx : Nat := 4
def needEn : Nat := 8

/-- Whether a segment register carries the rights. -/
def segRights (r need : Nat) : Bool :=
  (!bitOf need 0 || bitOf r 127) && (!bitOf need 1 || bitOf r 126) &&
  (!bitOf need 2 || bitOf r 125) && (!bitOf need 3 || bitOf r 124)

def selector (ptr : Nat) : Nat := ptr / 2 ^ 61 % 8
def isSpread (ptr : Nat) : Bool := selector ptr == 7
/-- Fields of a spread pointer (Table 02-2). -/
def ptrPkg (ptr : Nat) : Nat := field ptr 28 13
def ptrCore (ptr : Nat) : Nat := field ptr 16 12
def ptrOff (ptr : Nat) : Nat := ptr % 2 ^ 16

/-- `ADDP` (R104). -/
def addp (x : Nat) (y : Int) : Nat :=
  if isSpread x then x / 2 ^ 41 * 2 ^ 41 + unsigned 41 ((x % 2 ^ 41 : Nat) + y)
  else x / 2 ^ 61 * 2 ^ 61 + unsigned 61 ((x % 2 ^ 61 : Nat) + y)

/-- The `^` step of R17. -/
def coreStep (x : Nat) (y : Int) : Nat :=
  x - field x 16 2 * 2 ^ 16 + unsigned 2 ((field x 16 2 : Nat) + y) * 2 ^ 16

/-- Offsets that hold a kernel's dictionary (R87). -/
def inDictionary (off w : Nat) : Bool := decide (0xF000 < off + w ∧ 0 < w)

/-- The kernel loaded for a strand has a dictionary. -/
def hasDict (s : State) (ctx kernel : Nat) : Bool :=
  match Tab.find s.kernels (ctx * 2 ^ 32 + kernel) with
  | some x => !x.dict.isEmpty
  | none => false

/-- The pipeline's check of one access of `w` bytes (R15, R20, R21). -/
def segCheck (s : State) (segs : List Nat) (quads ptr w need : Nat) : Bool :=
  let r := segs.getD (selector ptr) 0
  if isSpread ptr then
    field ptr 41 20 == 0 && decide (ptrPkg ptr < field r 61 61) && segRights r need && !bitOf need 2 &&
      (ptrPkg ptr != s.pkg || bitOf quads (ptrCore ptr / 4))
  else decide (ptr % 2 ^ 61 + w ≤ field r 61 61) && segRights r need

/-- The check of a range of bytes: through a spread pointer it may run on across cores, each of which is checked
(R300, R305). -/
def segCheckRange (s : State) (segs : List Nat) (quads ptr w need : Nat) : Bool :=
  if isSpread ptr then
    segCheck s segs quads ptr 0 need &&
      ((List.range ((ptrOff ptr + w - 1) / 2 ^ 16 + 1)).all fun i =>
        segCheck s segs quads (addp ptr ((i * 2 ^ 16 : Nat))) 0 need)
  else segCheck s segs quads ptr w need

/-- The check of a strand's access, with the dictionary region closed to its writes (R87). Where kernels with and without a
dictionary run together, the strand's own kernel decides (DESIGN CHOICE: R87 does not say whose writes are meant; log 74). -/
def strandCheck (s : State) (k : Strand) (ptr w need : Nat) : Bool :=
  segCheck s (segsOf s k.ctx k.core) (((Tab.find s.ctxs k.ctx).map (·.quads)).getD 0) ptr w need &&
    !(isSpread ptr && bitOf need 1 && inDictionary (ptrOff ptr) w && hasDict s k.ctx k.kernel)

/-! ### Leaf entries and pages (Table 21-1) -/

/-- Whether a leaf carries the rights (R374). -/
def leafRights (l need : Nat) : Bool :=
  (!bitOf need 0 || bitOf l 59) && (!bitOf need 1 || bitOf l 58) &&
  (!bitOf need 2 || bitOf l 57) && (!bitOf need 3 || bitOf l 56)

/-- The virtual address of a segment pointer (R20). -/
def virtAddr (segs : List Nat) (ptr : Nat) : Nat :=
  (field (segs.getD (selector ptr) 0) 0 61 + ptr % 2 ^ 61) % 2 ^ 61

/-- The page of a context that holds a virtual address: its key and entry. -/
def findPage (s : State) (ctx va : Nat) : Option (Nat × Page) :=
  s.xlat.pages.find? fun p =>
    p.1 / 2 ^ 48 == ctx && leafValid p.2.leaf &&
      p.1 % 2 ^ 48 * 2 ^ 16 == alignDown (va % 2 ^ 61) (leafSize p.2.leaf)

/-- The TLB entry of a cluster for an address (R373). -/
def tlbFind (s : State) (cluster ctx va : Nat) : Option TlbEntry :=
  (Tab.get s.xlat.tlb cluster []).find? fun e =>
    e.ctx == ctx && e.va == alignDown va (leafSize e.leaf)

/-- The place of a scratchpad byte. -/
def scratchLoc (ctx ptr : Nat) : Loc := ⟨scratchKey ctx ptr, ptrPkg ptr, dieOf (ptrCore ptr), false, false, 0⟩

/-- The place of a byte of a page. -/
def pageLoc (l va : Nat) : Loc :=
  let phys := leafFrame l + va % leafSize l
  ⟨phys, phys / 2 ^ 39, stackOf phys (leafSwz l), leafState l == 4, leafShared l, l⟩

/-- The row of an HBM address is being remapped (R364). -/
def rowBusy (s : State) (l : Loc) : Bool :=
  l.key < scratchBase && l.pkg == s.pkg &&
    s.prot.remapping.contains (rowKey l.key (leafSwz l.leaf))

/-- The home die of a page: its virtual page number modulo 8, of the package that its leaf names (R368). -/
def pageDie (key leaf : Nat) : Nat := key % 2 ^ 48 * 2 ^ 16 / leafSize leaf % 8

/-- The package that a leaf names. -/
def leafPkg (l : Nat) : Nat := leafFrame l / 2 ^ 39

/-- The pages of the requests that are parked in the fault queues: atomics, claims, arrivals, and the units of engine operations
(R310, R319). -/
def parkedPages (s : State) : List Nat :=
  (s.flights.filterMap fun p => match p.2 with
    | .atomic a true => a.page
    | .claim c => if c.stage = 5 then c.claim.page else none
    | .arrival a true => (findPage s a.ctx a.ptr).map (·.1)
    | _ => none) ++ s.ops.flatMap fun p => p.2.parked.map (·.2)

/-- The fault queue of a page's home die holds fewer than 1,024 entries (R310). -/
def faultRoom (s : State) (page : Nat) : Bool :=
  let home := fun key => (Tab.find s.xlat.pages key).map fun p => (leafPkg p.leaf, pageDie key p.leaf)
  decide (((parkedPages s).filter fun q => home q == home page).length < 1024)

/-- What a strand's translation finds (R373, R374). -/
inductive Found where
  | at (l : Loc)
  /-- a miss, for the walker: the virtual address -/
  | miss (va : Nat)
  deriving DecidableEq, Repr

/-- Translates a strand's pointer at its cluster's port. An entry whose leaf lacks the right does not serve the access: the
walker looks at the page's leaf, which may have been granted it since (R374). -/
def translate (s : State) (k : Strand) (ptr need : Nat) : Found :=
  if isSpread ptr then .at (scratchLoc k.ctx ptr)
  else
    let va := virtAddr (segsOf s k.ctx k.core) ptr
    match tlbFind s (clusterOf k.core) k.ctx va with
    | some e => if leafRights e.leaf need then .at (pageLoc e.leaf va) else .miss va
    | none => .miss va

/-- What an engine's translation finds (R310, R311): a place, a page that will come, or nothing usable. -/
inductive EngFound where
  | at (l : Loc)
  | resolvable (page : Nat)
  | unresolvable
  deriving DecidableEq, Repr

def engTranslate (s : State) (ctx : Nat) (segs : List Nat) (ptr need : Nat) : EngFound :=
  if isSpread ptr then .at (scratchLoc ctx ptr)
  else
    let va := virtAddr segs ptr
    match findPage s ctx va with
    | none => .unresolvable
    | some (key, p) =>
      if !leafRights p.leaf (need ||| needEn) then .unresolvable
      else match leafState p.leaf with
        | 1 => .at (pageLoc p.leaf va)
        | 5 => .at (pageLoc p.leaf va)
        | 4 => .at (pageLoc p.leaf va)
        | _ => .resolvable key

/-- A TLB of 2,048 entries takes one more, in the place of an older one for the same page (R373). -/
def tlbFill (s : State) (cluster : Nat) (e : TlbEntry) : State :=
  let others := (Tab.get s.xlat.tlb cluster []).filter fun x => !(x.ctx == e.ctx && x.va == e.va)
  s.setXlat { s.xlat with tlb := Tab.put s.xlat.tlb cluster (others.drop (others.length - 2047) ++ [e]) }

/-- The first virtual address of a page and its context, from its key. -/
def pageVa (key : Nat) : Nat := key % 2 ^ 48 * 2 ^ 16
def pageCtx (key : Nat) : Nat := key / 2 ^ 48

def putPage (s : State) (key : Nat) (p : Page) : State :=
  s.setXlat { s.xlat with pages := Tab.put s.xlat.pages key p }

/-- A walk's fill sets ac (Table 21-1, R373). -/
def fillFrom (s : State) (cluster key : Nat) (p : Page) : State :=
  let leaf := if bitOf p.leaf 52 then p.leaf else p.leaf + 2 ^ 52
  tlbFill (putPage s key { p with leaf := leaf }) cluster ⟨pageCtx key, pageVa key, leaf⟩

/-- A translation by a cluster's walker that its TLB lacks (R373). -/
def fillMissing (s : State) (cluster key : Nat) : State :=
  if (tlbFind s cluster (pageCtx key) (pageVa key)).isSome then s
  else match Tab.find s.xlat.pages key with
    | some p => if leafState p.leaf = 1 ∨ leafState p.leaf = 4 ∨ leafState p.leaf = 5 then fillFrom s cluster key p else s
    | none => s

/-- A page that a parked request waits for is asked of the memory manager once (R310, R373). -/
def askRepair (s : State) (ctx page : Nat) : State :=
  if s.xlat.repairs.contains page || (s.flights.any fun p => match p.2 with
      | .faultReq _ q => q == page
      | _ => false) then s
  else match Tab.find s.xlat.pages page with
    | some p => if leafValid p.leaf ∧ (leafState p.leaf = 0 ∨ leafState p.leaf = 3) then s.send (.faultReq ctx page) else s
    | none => s

/-! ### Links and clocks on the way -/

/-- The path to a package can carry traffic (R420, R421); the own package always can. -/
def pathOpen (s : State) (pkg : Nat) : Bool :=
  pkg == s.pkg || (match Tab.find s.links.paths pkg with
    | some p => p.state == .open
    | none => false)

/-- a ≤ b as serial numbers modulo 2^32 (R223). -/
def serialLe (a b : Nat) : Bool := decide ((b + 2 ^ 32 - a % 2 ^ 32) % 2 ^ 32 < 2 ^ 31)

/-- The later of two clocks, entry by entry (R223). -/
def clockMax (v w : List Nat) : List Nat :=
  (List.range 8).map fun i => if serialLe (v.getD i 0) (w.getD i 0) then w.getD i 0 else v.getD i 0

/-- A die's clock raised to cover what another covers. -/
def raiseClock (s : State) (die : Nat) (vec : List Nat) : State :=
  s.setSync { s.sync with vclock := Tab.put s.sync.vclock die (clockMax (clockOf s die) vec) }

/-- A read that a die makes at another's home brings the home's causal past with it: what the die reads afterwards comes
after it (R218, log 69). -/
def learn (s : State) (reader : Nat) (l : Loc) : State :=
  if l.pkg ≠ s.pkg ∨ l.die = reader then s else raiseClock s reader (clockOf s l.die)

/-- A write that a clock covers has still to be applied at a die. -/
def coveredAt (s : State) (die : Nat) (vec : List Nat) : Bool :=
  s.flights.any fun p => match p.2 with
    | .stamped src dst _ v _ => dst == die && serialLe (v.getD src 0) (vec.getD src 0)
    | _ => false

/-- A home serves an access of a die only after it has applied every write that the die's clock covers (R224). -/
def homeReady (s : State) (reader home : Nat) : Bool := !coveredAt s home (clockOf s reader)

/-- An access of a die to a place can be served now, as far as the clocks go. -/
def landed (s : State) (reader : Nat) (l : Loc) : Bool := l.pkg != s.pkg || homeReady s reader l.die

/-- Every cross-die write that a die's clock covers is applied everywhere (R217, R227). -/
def drained (s : State) (die : Nat) : Bool := (List.range 8).all fun d => !coveredAt s d (clockOf s die)

/-- A die has room for `n` more stamped writes: at most 2^20 are issued and not applied everywhere (R223). -/
def stampRoom (s : State) (die n : Nat) : Bool :=
  (List.range 8).all fun d =>
    decide (((clockOf s die).getD die 0 + 2 ^ 32 - (appliedOf s d).getD die 0) % 2 ^ 32 + n ≤ 2 ^ 20)

/-- What has been sent to a package has been taken there: an engine's access goes behind it (R425). -/
def pathClear (s : State) (pkg : Nat) : Bool :=
  pkg == s.pkg || s.links.sent.all fun e => e.pkg != pkg || e.port.isNone || e.there

/-- A write of a strand to a package is on its way, or one to any other package whose acknowledgment is still to come (R229, R423). -/
def farStores (s : State) (sid pkg : Nat) : Bool := s.flights.any fun p => match p.2 with
  | .remoteStore x _ w _ => x == sid && keyPackage s w.key == pkg
  | _ => false
def farPending (s : State) (sid : Nat) : Bool := s.flights.any fun p => match p.2 with
  | .remoteStore x _ w _ => x == sid && keyPackage s w.key != s.pkg
  | .wrote x _ _ => x == sid
  | _ => false

/-! ### Writes and reads on their way -/

/-- A write that a die makes toward a location: its own die's is performed at once; another die's is stamped and waits
(R223); another package's travels over the Weave (R229). The writer's own reads come after it: the lines that it meets go from the
caches of its die, or of its package (R210). -/
def issueWrite (s : State) (sid die : Nat) (l : Loc) (w : MemWrite) : State :=
  if l.pkg ≠ s.pkg then
    (dropRange s (fun _ => true) w.key w.bytes.length).send (.remoteStore sid (((Tab.find s.strands sid).map (·.gen)).getD 0) w none)
  else if l.die = die then writeAt s w
  else stampWrite (dropRange s (fun c => c / 16 == die) w.key w.bytes.length) die sid fun d => if d = l.die then w else w.invalidation

/-! ### Reads through a cluster's cache (R26, R223, R228) -/

/-- The line of a cluster that holds `n` bytes at a key. -/
def cachedLine (s : State) (cluster key n : Nat) : Option Line :=
  (Tab.get s.caches.lines cluster []).find? fun x => decide (x.base ≤ key ∧ key + n ≤ x.base + 128)

/-- What a read of a line delivers. -/
def Line.read (x : Line) (key n : Nat) : Rd :=
  let o := key - x.base
  ⟨((x.sectors.flatMap (·.1)).drop o).take n, ((x.sectors.drop (o / 32)).take ((o + n - 1) / 32 - o / 32 + 1)).findSome? (·.2)⟩

/-- No write that the die's clock covers is still to invalidate a line that it holds there (R218, R223). -/
def lineCurrent (s : State) (die key n : Nat) : Bool :=
  s.flights.all fun p => match p.2 with
    | .stamped src dst _ v w => dst != die || !serialLe (v.getD src 0) ((clockOf s die).getD src 0) || !w.touches key n
    | _ => true

/-- The line from which a plain read of HBM is served: one that the cluster still holds, which is the implementation's to say, and
that no ordering rule forbids (R26; log 3). -/
def cacheHit (s : State) (cluster : Nat) (l : Loc) (n : Nat) : Option Line :=
  if scratchBase ≤ l.key ∨ l.poisoned = true then none
  else match cachedLine s cluster l.key n with
    | some x => if lineCurrent s (cluster / 16) l.key n && Config.holdsLine s.fresh then some x else none
    | none => none

/-- The line that holds a key, as a read of HBM brings it. -/
def lineAt (s : State) (key : Nat) : Line :=
  let base := alignDown key 128
  ⟨base, (List.range 4).map fun i =>
    let r := readAt s (base + 32 * i) 32
    (r.bytes, r.code)⟩

/-- A cluster's cache of 2,048 lines takes one more. -/
def fillLine (s : State) (cluster : Nat) (x : Line) : State :=
  let others := (Tab.get s.caches.lines cluster []).filter fun y => y.base != x.base
  s.setCaches { s.caches with lines := Tab.put s.caches.lines cluster (others.drop (others.length - 2047) ++ [x]) }

/-- A plain read of this package's HBM brings its line into the cluster's cache. -/
def afterRead (s : State) (cluster ctx : Nat) (l : Loc) : State :=
  if scratchBase ≤ l.key ∨ l.pkg ≠ s.pkg ∨ l.poisoned = true then s
  else
    let s1 := noteDamage s ctx (alignDown l.key 128) 128
    fillLine s1 cluster (lineAt s1 l.key)

/-- A plain read at another package's home: no cluster keeps an older copy, and the line travels with the return (R210, R240). -/
def carryLine (s : State) (cluster : Nat) (l : Loc) : State :=
  if scratchBase ≤ l.key ∨ pathOpen s l.pkg = false ∨ l.poisoned = true then s
  else
    let s1 := dropRange s (fun _ => true) (alignDown l.key 128) 128
    s1.setCaches { s1.caches with fills := Tab.put s1.caches.fills s1.nextId (cluster, lineAt s1 l.key) }

/-- The same for a vector element, whose line the cluster takes when it is read. -/
def bringLine (s : State) (cluster : Nat) (l : Loc) : State :=
  if scratchBase ≤ l.key ∨ l.pkg = s.pkg ∨ pathOpen s l.pkg = false ∨ l.poisoned = true then s
  else fillLine (dropRange s (fun _ => true) (alignDown l.key 128) 128) cluster (lineAt s l.key)

/-- A return brings its line to the cluster, unless an acquire has discarded it (R240). -/
def takeFill (s : State) (id : Nat) : State := match Tab.find s.caches.fills id with
  | some (c, x) => fillLine (s.setCaches { s.caches with fills := Tab.del s.caches.fills id }) c x
  | none => s

/-- An acquire at `.sys` invalidates the cluster's lines that are homed in other packages, those on their way too (R228, R240). -/
def acquireSys (s : State) (cluster : Nat) : State := dropLines s (· == cluster) fun x => x.base / 2 ^ 39 != s.pkg

/-! ### Writes and reads at other packages -/

/-- A write of a strand to a package is lost, as the later ones will be (R231). -/
def loseWrite (s : State) (sid gen pkg : Nat) : State :=
  s.modStrand sid fun k => if k.gen = gen ∧ k.lost.contains pkg = false then { k with lost := pkg :: k.lost } else k

/-- A write at another package's home (R229, R231): it is lost over a dead path, and so are the later ones of its strand. Until its
acknowledgment comes it may be lost though it has been performed (R423). -/
def farWrite (s : State) (sid gen pkg : Nat) (w : MemWrite) : State :=
  let lost := match Tab.find s.strands sid with
    | some k => k.gen = gen && k.lost.contains pkg
    | none => false
  if lost then s
  else if pathOpen s pkg then (writeAt s w).send (.wrote sid gen pkg)
  else loseWrite s sid gen pkg

/-- A read through an open path delivers what stands at the home; a poisoned page delivers code 1 (Table 21-4); a read over
a dead path is lost and frays with code 3. -/
def readLoc (s : State) (l : Loc) (n : Nat) : Rd :=
  if !pathOpen s l.pkg then
    ⟨leBytes n (s.free.toNat), some 3⟩
  else
    let r := readAt s l.key n
    if l.poisoned then ⟨List.replicate n 0, some 1⟩ else r

/-- The same for a place, which is read only where the path to it is open. -/
def noteLoc (s : State) (ctx : Nat) (l : Loc) (n : Nat) : State :=
  if pathOpen s l.pkg then noteDamage s ctx l.key n else s

end Sys2Proof.Machine
end

