-- ==== Sys2Proof/Machine/Legal.lean ====
section
/-! DEFINITION. Which field values an instruction accepts (R35, R41, R65, R68 to R80), and which hints (R83 to R86, R247). -/

namespace Sys2Proof

/-! ### Element types (Table 03-1) -/

/-- The width in bits of a non-SX type code. -/
def typeWidth (t : Nat) : Nat :=
  match t with
  | 0 => 8 | 1 => 16 | 2 => 32 | 3 => 64 | 4 => 8 | 5 => 16 | 6 => 32 | 7 => 64 | 8 => 32 | 9 => 16 | 10 => 16
  | _ => 32

def isIntType (t : Nat) : Bool := decide (t ≤ 7)
def isSignedType (t : Nat) : Bool := decide (t ≤ 3)
def isFloatType (t : Nat) : Bool := decide (8 ≤ t ∧ t ≤ 10)
def isSxType (t : Nat) : Bool := decide (11 ≤ t ∧ t ≤ 13)
def isLaneType (t : Nat) : Bool := decide (t ≤ 10)

/-- The conditions `VCMP` accepts for a type (R252). -/
def vcmpCond (t c : Nat) : Bool :=
  if isSignedType t then decide (c ≤ 5)
  else if isIntType t then decide (c ≤ 1 ∨ (6 ≤ c ∧ c ≤ 9))
  else isFloatType t && decide (c ≤ 5)

/-- The rounding code a `HINT.MOD` payload supplies (R82, R86), nearest even without one. -/
def modRound : Option Nat → Nat
  | some x => if bitOf x 3 then x % 8 else 0
  | none => 0

/-- The saturation flag of a `HINT.MOD` payload. -/
def modSat : Option Nat → Bool
  | some x => bitOf x 8
  | none => false

/-- The rounding codes an accepted conversion takes (R253): none, or the greatest code with whether 1 to 3 are accepted. -/
inductive CvtRound where
  | none | upTo3 | upTo4 | zeroOr4
  deriving DecidableEq, Repr

/-- The accepted pairs of `VCVT` (R253): rounding, and whether `.sat` is accepted. -/
def cvtPair (dst src : Nat) : Option (CvtRound × Bool) :=
  if dst = src then .none
  else if isIntType src && isIntType dst then some (.none, true)
  else if isIntType src && isFloatType dst then some (.upTo4, false)
  else if isFloatType src && isIntType dst then some (.upTo4, false)
  else if isFloatType src && isFloatType dst then some (.upTo4, false)
  else if isFloatType src && isSxType dst then some (.zeroOr4, false)
  else if isSxType src && isFloatType dst then some (if dst = 8 then .none else .upTo3, false)
  else .none

def roundAccepted (m : CvtRound) (r : Nat) : Bool :=
  match m with
  | .none => false
  | .upTo3 => decide (r ≤ 3)
  | .upTo4 => decide (r ≤ 4)
  | .zeroOr4 => r == 0 || r == 4

/-- Where Tables 11-2 and 11-3 show "rnd" with codes 0 to 3 for an instruction and type (R247, R256). -/
def rndArith : Instr → Bool
  | .vadd _ _ _ _ t => isFloatType t
  | .vsub _ _ _ _ t => isFloatType t
  | .vmul _ _ _ _ t => isFloatType t
  | .vfma _ _ _ _ t => isFloatType t
  | .vfms _ _ _ _ t => isFloatType t
  | .vlog2 _ _ _ t => isFloatType t
  | .vexp2 _ _ _ t => isFloatType t
  | .vrcp _ _ _ t => isFloatType t
  | .vrsq _ _ _ t => isFloatType t
  | .vsqrt _ _ _ t => isFloatType t
  | _ => false

/-- Where they show "sat" (R247, R257, R258). -/
def satArith : Instr → Bool
  | .vadd _ _ _ _ t => isIntType t
  | .vsub _ _ _ _ t => isIntType t
  | .vmul _ _ _ _ t => isIntType t
  | .vfma _ _ _ _ t => isIntType t
  | .vfms _ _ _ _ t => isIntType t
  | .vabs _ _ _ t => isSignedType t
  | .vneg _ _ _ t => isSignedType t
  | .vredSum _ _ _ t => isIntType t
  | .vscanSum _ _ _ t => isIntType t
  | _ => false

/-- Whether an instruction accepts a `HINT.MOD` payload (R41, R86, R247). -/
def acceptsMod (i : Instr) (x : Nat) : Bool :=
  match i with
  | .vcvt _ _ _ _ t s =>
    match cvtPair t s with
    | some (m, sat) =>
      (m != .none || sat) && (!bitOf x 3 || roundAccepted m (x % 8)) && (!bitOf x 8 || sat)
    | none => false
  | _ =>
    (rndArith i || satArith i) && (!bitOf x 3 || (rndArith i && decide (x % 8 ≤ 3))) && (!bitOf x 8 || satArith i)

/-- Whether an instruction accepts `HINT.IMM` (R84, R110). -/
def acceptsImm : Instr → Bool
  | .addi .. => true
  | .andi .. => true
  | .ori .. => true
  | .xori .. => true
  | .cmpi .. => true
  | .ld _ _ _ m _ => decide (m ≤ 1)
  | .ldN _ _ _ m _ => decide (m ≤ 1)
  | .st _ _ _ m _ => decide (m ≤ 1)
  | .ldp _ _ _ m _ => decide (m ≤ 1)
  | .stp _ _ _ m _ => decide (m ≤ 1)
  | _ => false

/-- Whether an instruction accepts `HINT.LAT` (R85). -/
def acceptsLat : Instr → Bool
  | .ld .. => true
  | .ldN .. => true
  | .ldp .. => true
  | .vld .. => true
  | .vlds .. => true
  | .vgath .. => true
  | .ldt .. => true
  | _ => false

/-- The reach codes of R70. -/
def reachOk (r : Nat) : Bool := decide (r ≤ 4)

/-- The order and reach of an atomic (R71). -/
def atomicOk (o r : Nat) : Bool := reachOk r && (o != 0 || r == 0)

/-- The fields of a scalar access (R70): mode 3 carries a reach; a load does not increment its own destination. -/
def accessOk (load : Bool) (ds : List Nat) (a m o : Nat) : Bool :=
  (m != 3 || reachOk (o / 2 ^ 11)) && !(load && (m == 1 || m == 2) && ds.contains a)

/-- The control registers of Table 05-7. -/
def ctlListed (n : Nat) : Bool := decide (n ≤ 9 ∨ (0x10 ≤ n ∧ n ≤ 0x3F))

/-- The types `FCVT` accepts (R69). -/
def fcvtType (t : Nat) : Bool := t == 2 || t == 3 || (decide (6 ≤ t) && decide (t ≤ 10))

/-- The types of a product (R271). -/
def mmaType (t : Nat) : Bool := decide (9 ≤ t ∧ t ≤ 13)

/-- The element bytes of `LDT` (R284), 0 for a type it does not accept. -/
def ldtBytes (t : Nat) : Nat :=
  match t with
  | 1 => 2 | 5 => 2 | 9 => 2 | 10 => 2 | 2 => 4 | 6 => 4 | 8 => 4
  | _ => 0

/-- Whether the values of an instruction's fields are ones it accepts (R80), given the `HINT.MOD` payload before it. -/
def legalWith (mod : Option Nat) : Instr → Bool
  | .cmp _ _ _ c => decide (c ≤ 9)
  | .cmpi _ _ c _ => decide (c ≤ 9)
  | .br c _ _ => decide (c ≤ 9)
  | .brc c _ _ => decide (c ≤ 9)
  | .fcmp _ _ _ c => decide (c ≤ 5)
  | .ext _ _ l p => decide (p + l + 1 ≤ 64)
  | .extn _ _ l p => decide (p + l + 1 ≤ 64)
  | .ins _ _ l p => decide (p + l + 1 ≤ 64)
  | .fadd _ _ _ r => decide (r ≤ 3)
  | .fsub _ _ _ r => decide (r ≤ 3)
  | .fmul _ _ _ r => decide (r ≤ 3)
  | .ffma _ _ _ r => decide (r ≤ 3)
  | .fcvt _ _ b t s r =>
    fcvtType t && fcvtType s && t != s && (isFloatType t || isFloatType s) && decide (r ≤ 4) && (r == 4 || b == 0)
  | .ld d a _ m o => accessOk true [d] a m o
  | .ldN d a w m o => decide (w ≤ 2) && accessOk true [d] a m o
  | .st d a _ m o => accessOk false [d] a m o
  | .ldp d a w m o => decide (2 ≤ w) && decide (d < 15) && accessOk true [d, d + 1] a m o
  | .stp d a w m o => decide (2 ≤ w) && decide (d < 15) && accessOk false [d, d + 1] a m o
  | .amoAdd o _ _ _ _ r => atomicOk o r
  | .amoMin o _ _ _ _ r => atomicOk o r
  | .amoMax o _ _ _ _ r => atomicOk o r
  | .amoMinn o _ _ _ _ r => atomicOk o r
  | .amoMaxn o _ _ _ _ r => atomicOk o r
  | .amoAnd o _ _ _ _ r => atomicOk o r
  | .amoOr o _ _ _ _ r => atomicOk o r
  | .amoXor o _ _ _ _ r => atomicOk o r
  | .amoSwap o _ _ _ _ r => atomicOk o r
  | .amoc o _ _ _ _ _ r => atomicOk o r
  | .amof o _ _ _ r => atomicOk o r
  | .claim o _ _ _ r => atomicOk o r
  | .fence r => reachOk r
  | .pgadv _ _ v => decide (v ≤ 5)
  | .send d _ _ _ k => k == 1 || d == 0
  | .sinfo _ _ i => decide (i ≤ 6)
  | .vadd _ _ _ _ t => isLaneType t
  | .vsub _ _ _ _ t => isLaneType t
  | .vmul _ _ _ _ t => isLaneType t
  | .vmin _ _ _ _ t => isLaneType t
  | .vmax _ _ _ _ t => isLaneType t
  | .vabs _ _ _ t => isSignedType t || isFloatType t
  | .vneg _ _ _ t => isSignedType t || isFloatType t
  | .vfma _ _ _ _ t => isLaneType t
  | .vfms _ _ _ _ t => isLaneType t
  | .vand _ _ _ _ t => isIntType t
  | .vor _ _ _ _ t => isIntType t
  | .vxor _ _ _ _ t => isIntType t
  | .vshl _ _ _ _ t => isIntType t
  | .vshr _ _ _ _ t => isIntType t
  | .vsha _ _ _ _ t => isIntType t
  | .vsel _ _ _ _ t => isLaneType t
  | .vcmp _ _ _ _ t c => vcmpCond t c
  | .vcvt _ _ b k t s =>
    (match cvtPair t s with
      | some _ => true
      | none => false) && (b == 0 || modRound mod == 4) && (!isSxType t || k == 0)
  | .vlog2 _ _ _ t => isFloatType t
  | .vexp2 _ _ _ t => isFloatType t
  | .vrcp _ _ _ t => isFloatType t
  | .vrsq _ _ _ t => isFloatType t
  | .vsqrt _ _ _ t => isFloatType t
  | .vredSum _ _ _ t => isLaneType t
  | .vredMax _ _ _ t => isLaneType t
  | .vredMin _ _ _ t => isLaneType t
  | .vredMaxi _ _ _ t => isLaneType t
  | .vredMini _ _ _ t => isLaneType t
  | .vscanSum _ _ _ t => isLaneType t
  | .vscanMax _ _ _ t => isLaneType t
  | .vscanMin _ _ _ t => isLaneType t
  | .vperm _ _ _ _ t => isLaneType t
  | .vpermX2 _ a _ _ t => isLaneType t && decide (a < 31)
  | .vshuf _ _ _ _ t => isLaneType t
  | .vbcast _ _ _ t => isLaneType t
  | .vmov _ _ _ t => isLaneType t
  | .vmovX2 d a _ t => isLaneType t && decide (d < 31) && decide (a < 31)
  | .vmovX4 d a _ t => isLaneType t && decide (d < 29) && decide (a < 29)
  | .vins _ _ _ t => isLaneType t
  | .vext _ _ _ t => isLaneType t
  | .vld _ _ _ t s => isLaneType t && decide (s ≤ 2)
  | .vst _ _ _ t s => isLaneType t && decide (s ≤ 2)
  | .vstBnd _ _ _ _ t s => isFloatType t && decide (s ≤ 2)
  | .vlds _ _ _ _ t s => isLaneType t && decide (s ≤ 2)
  | .vsts _ _ _ _ t s => isLaneType t && decide (s ≤ 2)
  | .vgath _ _ _ _ t s => isLaneType t && typeWidth t != 8 && decide (s ≤ 2)
  | .vscat _ _ _ _ t s => isLaneType t && typeWidth t != 8 && decide (s ≤ 2)
  | .mma s t _ _ _ _ => mmaType t && decide (s < 24)
  | .mmas s t _ _ _ _ => mmaType t && decide (s < 24)
  | .mmag s t _ _ _ _ _ => mmaType t && decide (s < 24)
  | .mrd r _ _ v => decide (v + 2 ^ r ≤ 32)
  | .mwr r _ _ v => decide (v + 2 ^ r ≤ 32)
  | .ldt t _ _ _ => ldtBytes t != 0
  | .copy _ r _ _ _ _ => reachOk r
  | .copyT _ r _ _ _ _ => reachOk r
  | .copyTag _ r _ _ _ _ _ => reachOk r
  | .selp _ r _ => reachOk r
  | .selk _ r _ => reachOk r
  | .selr _ r _ => reachOk r
  | .ctlr _ n => ctlListed n
  | .ctlw _ n => ctlListed n
  | .bndset _ _ m _ => decide (m ≤ 2)
  | .hintMod _ p r => p == 1 || r == 0
  | _ => true

/-- The hints of a run are ones the instruction accepts (R83). -/
def hintsOk (imm lat mod : Option Nat) (i : Instr) : Bool :=
  (imm.isNone || acceptsImm i) && (lat.isNone || acceptsLat i) &&
  (match mod with
    | none => true
    | some x => acceptsMod i x)

end Sys2Proof
end

