-- ==== Sys2Proof/WellFormed.lean ====
section
/-! DEFINITION. Well-formed instructions: every field in the width its format gives it (R62), and holding a value that the
instruction accepts (R80) without a hint word before it. -/

namespace Sys2Proof

/-- The fields of an instruction lie in the widths the formats give them (R62). -/
def fits : Instr → Bool
  | .add d a b => decide (d < 16) && decide (a < 16) && decide (b < 16)
  | .sub d a b => decide (d < 16) && decide (a < 16) && decide (b < 16)
  | .mul d a b => decide (d < 16) && decide (a < 16) && decide (b < 16)
  | .mulh d a b => decide (d < 16) && decide (a < 16) && decide (b < 16)
  | .mulhn d a b => decide (d < 16) && decide (a < 16) && decide (b < 16)
  | .div d a b => decide (d < 16) && decide (a < 16) && decide (b < 16)
  | .divn d a b => decide (d < 16) && decide (a < 16) && decide (b < 16)
  | .rem d a b => decide (d < 16) && decide (a < 16) && decide (b < 16)
  | .remn d a b => decide (d < 16) && decide (a < 16) && decide (b < 16)
  | .and d a b => decide (d < 16) && decide (a < 16) && decide (b < 16)
  | .or d a b => decide (d < 16) && decide (a < 16) && decide (b < 16)
  | .xor d a b => decide (d < 16) && decide (a < 16) && decide (b < 16)
  | .andn d a b => decide (d < 16) && decide (a < 16) && decide (b < 16)
  | .orn d a b => decide (d < 16) && decide (a < 16) && decide (b < 16)
  | .shl d a b => decide (d < 16) && decide (a < 16) && decide (b < 16)
  | .shr d a b => decide (d < 16) && decide (a < 16) && decide (b < 16)
  | .sha d a b => decide (d < 16) && decide (a < 16) && decide (b < 16)
  | .rot d a b => decide (d < 16) && decide (a < 16) && decide (b < 16)
  | .min d a b => decide (d < 16) && decide (a < 16) && decide (b < 16)
  | .max d a b => decide (d < 16) && decide (a < 16) && decide (b < 16)
  | .minn d a b => decide (d < 16) && decide (a < 16) && decide (b < 16)
  | .maxn d a b => decide (d < 16) && decide (a < 16) && decide (b < 16)
  | .clz d a => decide (d < 16) && decide (a < 16)
  | .ctz d a => decide (d < 16) && decide (a < 16)
  | .popc d a => decide (d < 16) && decide (a < 16)
  | .brev d a => decide (d < 16) && decide (a < 16)
  | .sel d a b c => decide (d < 16) && decide (a < 16) && decide (b < 16) && decide (c < 16)
  | .mov d a => decide (d < 16) && decide (a < 16)
  | .addp d a b => decide (d < 16) && decide (a < 16) && decide (b < 16)
  | .cmp d a b c => decide (d < 16) && decide (a < 16) && decide (b < 16) && decide (c < 16)
  | .ext d a l p => decide (d < 16) && decide (a < 16) && decide (l < 64) && decide (p < 64)
  | .extn d a l p => decide (d < 16) && decide (a < 16) && decide (l < 64) && decide (p < 64)
  | .ins d a l p => decide (d < 16) && decide (a < 16) && decide (l < 64) && decide (p < 64)
  | .addi d a i => decide (d < 16) && decide (a < 16) && decide (i < 262144)
  | .andi d a i => decide (d < 16) && decide (a < 16) && decide (i < 262144)
  | .ori d a i => decide (d < 16) && decide (a < 16) && decide (i < 262144)
  | .xori d a i => decide (d < 16) && decide (a < 16) && decide (i < 262144)
  | .shli d a s => decide (d < 16) && decide (a < 16) && decide (s < 64)
  | .shri d a s => decide (d < 16) && decide (a < 16) && decide (s < 64)
  | .shai d a s => decide (d < 16) && decide (a < 16) && decide (s < 64)
  | .lih d i => decide (d < 16) && decide (i < 4194304)
  | .cmpi d a c i => decide (d < 16) && decide (a < 16) && decide (c < 16) && decide (i < 16384)
  | .fadd d a b r => decide (d < 16) && decide (a < 16) && decide (b < 16) && decide (r < 8)
  | .fsub d a b r => decide (d < 16) && decide (a < 16) && decide (b < 16) && decide (r < 8)
  | .fmul d a b r => decide (d < 16) && decide (a < 16) && decide (b < 16) && decide (r < 8)
  | .ffma d a b r => decide (d < 16) && decide (a < 16) && decide (b < 16) && decide (r < 8)
  | .fmin d a b => decide (d < 16) && decide (a < 16) && decide (b < 16)
  | .fmax d a b => decide (d < 16) && decide (a < 16) && decide (b < 16)
  | .fcmp d a b c => decide (d < 16) && decide (a < 16) && decide (b < 16) && decide (c < 16)
  | .fcvt d a b t s r => decide (d < 16) && decide (a < 16) && decide (b < 16) && decide (t < 16) && decide (s < 16) && decide (r < 8) && decide (0 < t)
  | .ld d a w m o => decide (d < 16) && decide (a < 16) && decide (w < 4) && decide (m < 4) && decide (o < 16384)
  | .ldN d a w m o => decide (d < 16) && decide (a < 16) && decide (w < 4) && decide (m < 4) && decide (o < 16384)
  | .st d a w m o => decide (d < 16) && decide (a < 16) && decide (w < 4) && decide (m < 4) && decide (o < 16384)
  | .ldp d a w m o => decide (d < 16) && decide (a < 16) && decide (w < 4) && decide (m < 4) && decide (o < 16384)
  | .stp d a w m o => decide (d < 16) && decide (a < 16) && decide (w < 4) && decide (m < 4) && decide (o < 16384)
  | .amoAdd o d a b w r => decide (o < 4) && decide (d < 16) && decide (a < 16) && decide (b < 16) && decide (w < 2) && decide (r < 8)
  | .amoMin o d a b w r => decide (o < 4) && decide (d < 16) && decide (a < 16) && decide (b < 16) && decide (w < 2) && decide (r < 8)
  | .amoMax o d a b w r => decide (o < 4) && decide (d < 16) && decide (a < 16) && decide (b < 16) && decide (w < 2) && decide (r < 8)
  | .amoMinn o d a b w r => decide (o < 4) && decide (d < 16) && decide (a < 16) && decide (b < 16) && decide (w < 2) && decide (r < 8)
  | .amoMaxn o d a b w r => decide (o < 4) && decide (d < 16) && decide (a < 16) && decide (b < 16) && decide (w < 2) && decide (r < 8)
  | .amoAnd o d a b w r => decide (o < 4) && decide (d < 16) && decide (a < 16) && decide (b < 16) && decide (w < 2) && decide (r < 8)
  | .amoOr o d a b w r => decide (o < 4) && decide (d < 16) && decide (a < 16) && decide (b < 16) && decide (w < 2) && decide (r < 8)
  | .amoXor o d a b w r => decide (o < 4) && decide (d < 16) && decide (a < 16) && decide (b < 16) && decide (w < 2) && decide (r < 8)
  | .amoSwap o d a b w r => decide (o < 4) && decide (d < 16) && decide (a < 16) && decide (b < 16) && decide (w < 2) && decide (r < 8)
  | .amoc o d a b c w r => decide (o < 4) && decide (d < 16) && decide (a < 16) && decide (b < 16) && decide (c < 16) && decide (w < 2) && decide (r < 8)
  | .amof o d a b r => decide (o < 4) && decide (d < 16) && decide (a < 16) && decide (b < 16) && decide (r < 8)
  | .claim o d a b r => decide (o < 4) && decide (d < 16) && decide (a < 16) && decide (b < 16) && decide (r < 8)
  | .fence r => decide (r < 8)
  | .pref a => decide (a < 16)
  | .pgadv a b v => decide (a < 16) && decide (b < 16) && decide (v < 16)
  | .br c a o => decide (c < 16) && decide (a < 16) && decide (o < 262144) && decide (c ≠ 14)
  | .jr a o => decide (a < 16) && decide (o < 262144)
  | .brc c a o => decide (c < 16) && decide (a < 16) && decide (o < 262144)
  | .jmp o => decide (o < 67108864)
  | .call o => decide (o < 67108864)
  | .fork d o => decide (d < 16) && decide (o < 262144)
  | .forkr d b => decide (d < 16) && decide (b < 16)
  | .exit => true
  | .yield => true
  | .send d h v t k => decide (d < 16) && decide (h < 16) && decide (v < 16) && decide (t < 16) && decide (k < 2)
  | .self d => decide (d < 16)
  | .mode d m => decide (d < 16) && decide (m < 65536)
  | .empty m => decide (m < 65536)
  | .sopen d s e o => decide (d < 16) && decide (s < 2) && decide (e < 2) && decide (o < 65536)
  | .sclose d => decide (d < 16)
  | .scancel h => decide (h < 16)
  | .succeed => true
  | .shield => true
  | .unshield => true
  | .cpt => true
  | .sinfo d h i => decide (d < 16) && decide (h < 16) && decide (i < 256)
  | .binitCount a => decide (a < 16)
  | .binitBytes a => decide (a < 16)
  | .binitLock a => decide (a < 16)
  | .bexpect a b => decide (a < 16) && decide (b < 16)
  | .barrive a b => decide (a < 16) && decide (b < 16)
  | .bwait d a => decide (d < 16) && decide (a < 16)
  | .btest d a => decide (d < 16) && decide (a < 16)
  | .lock d a => decide (d < 16) && decide (a < 16)
  | .unlock a => decide (a < 16)
  | .waita d a b => decide (d < 16) && decide (a < 16) && decide (b < 16)
  | .wakea a b => decide (a < 16) && decide (b < 16)
  | .mend m => decide (m < 65536)
  | .mendb a => decide (a < 16)
  | .mendm a => decide (a < 16)
  | .fray t k => decide (t < 16) && decide (k < 4)
  | .vadd d a b k t => decide (d < 32) && decide (a < 32) && decide (b < 32) && decide (k < 8) && decide (t < 16)
  | .vsub d a b k t => decide (d < 32) && decide (a < 32) && decide (b < 32) && decide (k < 8) && decide (t < 16)
  | .vmul d a b k t => decide (d < 32) && decide (a < 32) && decide (b < 32) && decide (k < 8) && decide (t < 16)
  | .vmin d a b k t => decide (d < 32) && decide (a < 32) && decide (b < 32) && decide (k < 8) && decide (t < 16)
  | .vmax d a b k t => decide (d < 32) && decide (a < 32) && decide (b < 32) && decide (k < 8) && decide (t < 16)
  | .vabs d a k t => decide (d < 32) && decide (a < 32) && decide (k < 8) && decide (t < 16)
  | .vneg d a k t => decide (d < 32) && decide (a < 32) && decide (k < 8) && decide (t < 16)
  | .vfma d a b k t => decide (d < 32) && decide (a < 32) && decide (b < 32) && decide (k < 8) && decide (t < 16)
  | .vfms d a b k t => decide (d < 32) && decide (a < 32) && decide (b < 32) && decide (k < 8) && decide (t < 16)
  | .vand d a b k t => decide (d < 32) && decide (a < 32) && decide (b < 32) && decide (k < 8) && decide (t < 16)
  | .vor d a b k t => decide (d < 32) && decide (a < 32) && decide (b < 32) && decide (k < 8) && decide (t < 16)
  | .vxor d a b k t => decide (d < 32) && decide (a < 32) && decide (b < 32) && decide (k < 8) && decide (t < 16)
  | .vshl d a b k t => decide (d < 32) && decide (a < 32) && decide (b < 32) && decide (k < 8) && decide (t < 16)
  | .vshr d a b k t => decide (d < 32) && decide (a < 32) && decide (b < 32) && decide (k < 8) && decide (t < 16)
  | .vsha d a b k t => decide (d < 32) && decide (a < 32) && decide (b < 32) && decide (k < 8) && decide (t < 16)
  | .vsel d a b k t => decide (d < 32) && decide (a < 32) && decide (b < 32) && decide (k < 8) && decide (t < 16)
  | .vcmp d a b k t c => decide (d < 8) && decide (a < 32) && decide (b < 32) && decide (k < 8) && decide (t < 16) && decide (c < 16)
  | .vcvt d a b k t s => decide (d < 32) && decide (a < 32) && decide (b < 32) && decide (k < 8) && decide (t < 16) && decide (s < 16)
  | .vlog2 d a k t => decide (d < 32) && decide (a < 32) && decide (k < 8) && decide (t < 16)
  | .vexp2 d a k t => decide (d < 32) && decide (a < 32) && decide (k < 8) && decide (t < 16)
  | .vrcp d a k t => decide (d < 32) && decide (a < 32) && decide (k < 8) && decide (t < 16)
  | .vrsq d a k t => decide (d < 32) && decide (a < 32) && decide (k < 8) && decide (t < 16)
  | .vsqrt d a k t => decide (d < 32) && decide (a < 32) && decide (k < 8) && decide (t < 16)
  | .vredSum d a k t => decide (d < 32) && decide (a < 32) && decide (k < 8) && decide (t < 16)
  | .vredMax d a k t => decide (d < 32) && decide (a < 32) && decide (k < 8) && decide (t < 16)
  | .vredMin d a k t => decide (d < 32) && decide (a < 32) && decide (k < 8) && decide (t < 16)
  | .vredMaxi d a k t => decide (d < 32) && decide (a < 32) && decide (k < 8) && decide (t < 16)
  | .vredMini d a k t => decide (d < 32) && decide (a < 32) && decide (k < 8) && decide (t < 16)
  | .vscanSum d a k t => decide (d < 32) && decide (a < 32) && decide (k < 8) && decide (t < 16)
  | .vscanMax d a k t => decide (d < 32) && decide (a < 32) && decide (k < 8) && decide (t < 16)
  | .vscanMin d a k t => decide (d < 32) && decide (a < 32) && decide (k < 8) && decide (t < 16)
  | .vperm d a b k t => decide (d < 32) && decide (a < 32) && decide (b < 32) && decide (k < 8) && decide (t < 16)
  | .vpermX2 d a b k t => decide (d < 32) && decide (a < 32) && decide (b < 32) && decide (k < 8) && decide (t < 16)
  | .vshuf d a b k t => decide (d < 32) && decide (a < 32) && decide (b < 32) && decide (k < 8) && decide (t < 16)
  | .vbcast d a k t => decide (d < 32) && decide (a < 16) && decide (k < 8) && decide (t < 16)
  | .vmov d a k t => decide (d < 32) && decide (a < 32) && decide (k < 8) && decide (t < 16)
  | .vmovX2 d a k t => decide (d < 32) && decide (a < 32) && decide (k < 8) && decide (t < 16)
  | .vmovX4 d a k t => decide (d < 32) && decide (a < 32) && decide (k < 8) && decide (t < 16)
  | .vins d a b t => decide (d < 32) && decide (a < 16) && decide (b < 16) && decide (t < 16)
  | .vext d a b t => decide (d < 16) && decide (a < 32) && decide (b < 16) && decide (t < 16)
  | .vld d a k t s => decide (d < 32) && decide (a < 16) && decide (k < 8) && decide (t < 16) && decide (s < 4)
  | .vst d a k t s => decide (d < 32) && decide (a < 16) && decide (k < 8) && decide (t < 16) && decide (s < 4)
  | .vstBnd d a b k t s => decide (d < 32) && decide (a < 16) && decide (b < 16) && decide (k < 8) && decide (t < 16) && decide (s < 4)
  | .vlds d a b k t s => decide (d < 32) && decide (a < 16) && decide (b < 16) && decide (k < 8) && decide (t < 16) && decide (s < 4)
  | .vsts d a b k t s => decide (d < 32) && decide (a < 16) && decide (b < 16) && decide (k < 8) && decide (t < 16) && decide (s < 4)
  | .vgath d a b k t s => decide (d < 32) && decide (a < 16) && decide (b < 32) && decide (k < 8) && decide (t < 16) && decide (s < 4)
  | .vscat d a b k t s => decide (d < 32) && decide (a < 16) && decide (b < 32) && decide (k < 8) && decide (t < 16) && decide (s < 4)
  | .kand d a b => decide (d < 8) && decide (a < 8) && decide (b < 8)
  | .kor d a b => decide (d < 8) && decide (a < 8) && decide (b < 8)
  | .kxor d a b => decide (d < 8) && decide (a < 8) && decide (b < 8)
  | .knot d a => decide (d < 8) && decide (a < 8)
  | .kmov d a => decide (d < 8) && decide (a < 8)
  | .kmovG d a b => decide (d < 8) && decide (a < 16) && decide (b < 16)
  | .kmovLo d a => decide (d < 16) && decide (a < 8)
  | .kmovHi d a => decide (d < 16) && decide (a < 8)
  | .kpop d a => decide (d < 16) && decide (a < 8)
  | .mma s t c a b p => decide (s < 32) && decide (t < 16) && decide (c < 16) && decide (a < 16) && decide (b < 16) && decide (p < 2)
  | .mmas s t c a b p => decide (s < 32) && decide (t < 16) && decide (c < 16) && decide (a < 16) && decide (b < 16) && decide (p < 2)
  | .mmag s t c a b p v => decide (s < 32) && decide (t < 16) && decide (c < 16) && decide (a < 16) && decide (b < 16) && decide (p < 2) && decide (v < 16)
  | .mxs c a b p => decide (c < 16) && decide (a < 16) && decide (b < 16) && decide (p < 16)
  | .mzero c => decide (c < 16)
  | .mrd r c a v => decide (r < 4) && decide (c < 16) && decide (a < 16) && decide (v < 32)
  | .mwr r c a v => decide (r < 4) && decide (c < 16) && decide (a < 16) && decide (v < 32)
  | .ldt t a b w => decide (t < 16) && decide (a < 16) && decide (b < 16) && decide (w < 2)
  | .mslot a => decide (a < 16)
  | .copy x r d a b c => decide (x < 2) && decide (r < 8) && decide (d < 16) && decide (a < 16) && decide (b < 16) && decide (c < 16)
  | .copyT x r d a b c => decide (x < 2) && decide (r < 8) && decide (d < 16) && decide (a < 16) && decide (b < 16) && decide (c < 16)
  | .copyTag x r d a b c q => decide (x < 2) && decide (r < 8) && decide (d < 16) && decide (a < 16) && decide (b < 16) && decide (c < 16) && decide (q < 16)
  | .selp x r a => decide (x < 2) && decide (r < 8) && decide (a < 16)
  | .selk x r a => decide (x < 2) && decide (r < 8) && decide (a < 16)
  | .selr x r a => decide (x < 2) && decide (r < 8) && decide (a < 16)
  | .nop => true
  | .trap n => decide (n < 64)
  | .bkpt n => decide (n < 64)
  | .time d => decide (d < 16)
  | .ctlr d n => decide (d < 16) && decide (n < 64)
  | .ctlw a n => decide (a < 16) && decide (n < 64)
  | .snap => true
  | .bndset a b m r => decide (a < 16) && decide (b < 16) && decide (m < 4) && decide (r < 16)
  | .gangEnter a => decide (a < 16)
  | .gangExit => true
  | .atVcc a => decide (a < 16)
  | .klaunch d a b => decide (d < 16) && decide (a < 16) && decide (b < 16)
  | .pair i j => decide (i < 1024) && decide (j < 1024)
  | .hintImm x => decide (x < 16777216)
  | .hintLat l => decide (l < 65536)
  | .hintMod s p r => decide (s < 2) && decide (p < 2) && decide (r < 8)
  | .loadDataReturn _ => true
  | .remoteScratchpadRequest _ => true
  | .bankRetentionEntry _ _ => true
  | .bankRetentionExit _ _ => true
  | .retentionTransitionDone _ _ => true
  | .regionSaveDone _ => true
  | .regionRestoreDone _ => true
  | .recordPop _ _ => true
  | .recordSteal _ _ => true
  | .strandSetupDone _ => true
  | .migrationDepart _ => true
  | .migrationArrival _ => true
  | .arrivalQueueTake _ _ => true
  | .strandRetire _ => true
  | .messageArrival _ => true
  | .sendAckReturn _ => true
  | .eagerCountExpiry _ => true
  | .shareReturn _ => true
  | .borrowRequest _ => true
  | .borrowGrant _ => true
  | .cancelArrival _ => true
  | .childLinkArrival _ => true
  | .barrierHomeOperation _ => true
  | .bwaitReply _ => true
  | .lockGrant _ => true
  | .engineBarrierProbe _ => true
  | .engineArrival _ => true
  | .donationEvent _ _ => true
  | .waitaPoll _ => true
  | .crossDieWriteApply _ => true
  | .d2dFlitRetry _ => true
  | .packageFault _ => true
  | .fenceDrainComplete _ => true
  | .gangLoadDue _ => true
  | .atTargetReached _ => true
  | .gangPauseTimeout _ => true
  | .gangRendezvousTimeout _ => true
  | .mvuDispatchOpportunity _ => true
  | .mvuOperationDone _ => true
  | .mmagGroupStepDone _ => true
  | .copyOperationStart _ => true
  | .copyProgress _ => true
  | .copyComplete _ => true
  | .copyFail _ => true
  | .copyStop _ _ => true
  | .afterPredecessorsEnded _ => true
  | .engineFaultPark _ => true
  | .faultReplay _ => true
  | .atomicAtHome _ => true
  | .atomicResultReturn _ => true
  | .claimStageArrival _ => true
  | .claimCombineTimeout _ => true
  | .claimReplySplit _ => true
  | .selectionRequestStart _ => true
  | .selectionPieceScan _ _ => true
  | .selectionPartialArrival _ _ => true
  | .selectionOutputWrite _ => true
  | .selectionFail _ => true
  | .selectionStop _ => true
  | .rowRemap _ _ _ => true
  | .rowRemapDone _ _ => true
  | .hbmScrubPass _ => true
  | .sramScrubPass _ => true
  | .pageWalk _ => true
  | .pageFaultRequest _ => true
  | .pageRepairDone _ _ _ => true
  | .repairWake _ => true
  | .pageMigrationStart _ _ _ => true
  | .pageMigrationCopyEnd _ _ => true
  | .pageSpill _ _ => true
  | .pageAdviceEvent _ _ => true
  | .shootdown _ _ _ => true
  | .shootdownComplete _ _ => true
  | .meshInterrupt _ => true
  | .preemptRelease _ => true
  | .imageResume _ _ _ => true
  | .quantumExpiry _ => true
  | .segmentInterrupt _ => true
  | .define _ _ => true
  | .setseg _ _ _ => true
  | .setprio _ _ _ _ => true
  | .suspend _ _ => true
  | .resume _ _ => true
  | .teardown _ _ => true
  | .mendroot _ _ => true
  | .keyset _ _ _ => true
  | .load _ _ _ => true
  | .kernelPinningDone _ _ => true
  | .unload _ _ _ => true
  | .kernelRootClose _ _ => true
  | .create _ _ => true
  | .destroy _ _ => true
  | .resumeq _ _ _ => true
  | .queueWakeWrite _ _ => true
  | .queueMapDone _ => true
  | .queuePageInDone _ => true
  | .queueWaitEvictTimeout _ => true
  | .queuePageOut _ => true
  | .queueLaunch _ => true
  | .queueCopy _ => true
  | .queueSignal _ => true
  | .queueWait _ => true
  | .queueTimestamp _ => true
  | .queueWaitSatisfied _ _ => true
  | .queueCommandComplete _ _ => true
  | .map _ _ _ _ => true
  | .leaf _ _ _ => true
  | .logread _ _ => true
  | .quiesce _ _ => true
  | .unquiesce _ _ => true
  | .retrain _ _ => true
  | .route _ _ _ => true
  | .step _ _ => true
  | .powerStepSettled => true
  | .arm _ _ => true
  | .release _ => true
  | .mailboxUnknownCode _ _ _ => true
  | .registerWrite _ _ _ => true
  | .snapPin => true
  | .mgmtSnapshotTrigger => true
  | .reset => true
  | .bootStepDone _ _ => true
  | .journalCommit => true
  | .powerFail => true
  | .powerFailDrainDone => true
  | .flitReceive _ _ => true
  | .laneRemoval _ => true
  | .portRetryLimit _ => true
  | .portSilenceTimeout _ => true
  | .portTrainingDone _ _ => true
  | .pathReopen _ => true
  | .frayNotice _ => true
  | .proxyCancel _ => true
  | .hostLinkDown => true
  | .illegalInstruction => true
  | .poisonedInstructionFetch _ => true
  | .targetFetchSegmentTrap => true
  | .imageGiven _ _ => true

/-- An instruction word that issues without an illegal-instruction trap (R80), or a step of the device. -/
def Instr.wellFormed (i : Instr) : Bool := fits i && legalWith none i

end Sys2Proof
end

