-- ==== Sys2Proof/Machine/Operands.lean ====
section
/-! DEFINITION. How an instruction issues (R80, R83, R96, R97) and every operand form: general registers in operand and
pointer roles (R95, R98), vector and mask registers (R241 to R244), and the memory operand of a load or store (R108 to
R111). -/

namespace Sys2Proof.Machine

/-! ### General registers -/

/-- The code of the first frayed register of a list (R95, R98). -/
def firstFray (k : Strand) : List Nat → Option Code
  | [] => none
  | r :: rs => if (k.g r).fray then some (k.g r).code else firstFray k rs

/-- A result computed from source registers: frayed, with the issuer tainted, when one of them is (R98). -/
def Strand.result (k : Strand) (d : Nat) (v : Word) (srcs : List Nat) : Strand :=
  match firstFray k srcs with
  | some c => (k.taint c).setG d (.frayed v c)
  | none => k.writeG d v

/-- The `HINT.MOD` payload, extended immediate and declared latency of the unit. -/
def Strand.mod (k : Strand) : Option Nat := match k.run with
  | some r => r.mod
  | none => none
def Strand.imm (k : Strand) : Option Nat := match k.run with
  | some r => r.imm
  | none => none
def Strand.lat (k : Strand) : Option Nat := match k.run with
  | some r => r.lat
  | none => none

/-- An immediate of `n` bits, or the extended one of n + 24 bits (R64, R84). -/
def Strand.immediate (k : Strand) (n x : Nat) : Int := match k.imm with
  | some e => signed (n + 24) (e * 2 ^ n + x)
  | none => signed n x

/-! ### Issue -/

/-- The unit is legal (R80, R83). -/
def unitLegal (k : Strand) (i : Instr) : Bool :=
  fits i && legalWith k.mod i && hintsOk k.imm k.lat k.mod i

/-- The first register of a list that is not full, and the first that awaits a return. -/
def firstEmpty (k : Strand) (rs : List Nat) : Option Nat := rs.find? fun r => !(k.g r).full
def firstPending (k : Strand) (rs : List Nat) : Option Nat := rs.find? fun r => (k.g r).pend

/-- The registers an instruction reads and writes are ready, or the strand parks (R96, R97). `point`: the cancellation
point of the parked read is already taken, and there is none between the entries of a pair (R169). -/
def issueReady (reads dests : List Nat) (point : Bool) (s : State) (sid : Nat)
    (body : State → Nat → Strand → Out) : Out :=
  match Tab.find s.strands sid with
  | none => .fault .noStrand
  | some k =>
    match firstEmpty k reads with
    | some r =>
      let p := if point || k.pair.length == 1 then (s, true) else cancelPoint s sid
      if p.2 then .next (p.1.modStrand sid fun k => k.park (.reg r)) else .next p.1
    | none =>
      match firstPending k dests with
      | some r => .next (s.putStrand sid (k.park (.ret r)))
      | none =>
        if k.errs.isEmpty then body s sid k
        else match Tab.find (noteWords s sid reads).strands sid with
          | some k1 => body (noteWords s sid reads) sid k1
          | none => .fault .noStrand

/-- The issue of an instruction word by the strand that is issuing: what it traps on by its word and hints (R80, R83),
the cancellation point of a wake (R169), the registers it waits for (R96, R97), then its own flow. -/
def issue (i : Instr) (reads dests : List Nat) (s : State) (body : State → Nat → Strand → Out) : Out :=
  match s.cur with
  | none => .fault .noStrand
  | some sid =>
    match Tab.find s.strands sid with
    | none => .fault .noStrand
    | some k =>
      if unitLegal k i = false then .next (trap s sid causeIllegal)
      else if k.recheck && k.pair.length != 1 then
        let p := cancelPoint (s.putStrand sid { k with recheck := false }) sid
        if p.2 then issueReady reads dests true p.1 sid body else .next p.1
      else issueReady reads dests false s sid body

/-- The instruction's own cancellation point, taken before any effect (Table 07-5), unless its wait has ended. -/
def atPoint (s : State) (sid : Nat) (body : State → Strand → Out) : Out :=
  match Tab.find s.strands sid with
  | none => .fault .noStrand
  | some k =>
    if k.again then body s k
    else
      let p := cancelPoint s sid
      if p.2 then
        match Tab.find p.1.strands sid with
        | none => .fault .noStrand
        | some k' => body p.1 k'
      else .next p.1

/-- Registers in a pointer-like role (R95): a frayed one is observed and the instruction has no effect. -/
def withClean (s : State) (sid : Nat) (k : Strand) (rs : List Nat) (body : Out) : Out :=
  match firstFray k rs with
  | some c => .next (observeFray s sid c)
  | none => body

/-- The state with the strand moved on to its next word. -/
def retire (s : State) (sid : Nat) (k : Strand) : Out := .next (s.putStrand sid k.advance)

/-- An instruction that computes one general register from others in operand roles (R98). -/
def alu (i : Instr) (d : Nat) (srcs : List Nat) (f : Strand → Word) (s : State) : Out :=
  issue i srcs [d] s fun s sid k => retire s sid (k.result d (f k) srcs)

/-- The same for an instruction that raises floating-point flags (R48, R98, R105). -/
def fpu (i : Instr) (d : Nat) (srcs : List Nat) (f : Strand → Nat × Fp.Flags) (s : State) : Out :=
  issue i srcs [d] s fun s sid k =>
    let r := f k
    let k1 := k.result d (BitVec.ofNat 64 r.1) srcs
    retire s sid (match firstFray k srcs with
      | some _ => k1
      | none => k1.mergeFlags r.2)

/-! ### Vector and mask registers (R241 to R244) -/

/-- A mask operand: k0 reads as all ones, clean (R243). -/
def Strand.m (k : Strand) (r : Nat) : KReg :=
  if r % 8 = 0 then ⟨BitVec.allOnes 128, false, 0⟩
  else k.masks[(r % 8 : Nat)]'(Nat.mod_lt _ (by decide))

/-- A mask result: a write to k0 is discarded (R243). -/
def Strand.setM (k : Strand) (r : Nat) (x : KReg) : Strand :=
  if r % 8 = 0 then k
  else { k with
    masks := k.masks.set (r % 8) x (Nat.mod_lt _ (by decide))
    errs := k.errs.filter fun p => p.1 != 16 + 2 * (r % 8) && p.1 != 17 + 2 * (r % 8) }

/-- The vector fields of an instruction name registers the strand has (R244). -/
def vregsOk (k : Strand) (vs : List Nat) : Bool := vs.all fun v => decide (v < k.vcount)

/-- A vector register that a load has still to write: an instruction that names it stalls (R264, R293). -/
def vecPending (s : State) (sid : Nat) (vs : List Nat) : Bool :=
  s.flights.any fun p => match p.2 with
    | .vecRet x _ d _ _ => x == sid && vs.contains d
    | .vecLoad x _ d _ _ _ _ _ => x == sid && vs.contains d
    | _ => false

/-- A V-format instruction: as `issue`, with the vector-register trap of R244. -/
def issueV (i : Instr) (vs reads dests : List Nat) (s : State) (body : State → Nat → Strand → Out) : Out :=
  match s.cur with
  | none => .fault .noStrand
  | some sid =>
    match Tab.find s.strands sid with
    | none => .fault .noStrand
    | some k =>
      if unitLegal k i = false then .next (trap s sid causeIllegal)
      else if k.vcount = 0 ∨ vregsOk k vs = false then .next (trap s sid causeVector)
      else if vecPending s sid vs then .next (s.putStrand sid (k.wait .request))
      else if k.errs.isEmpty then issue i reads dests s body
      else issue i reads dests (noteWords s sid (vectorWords vs)) body

def lanes (t : Nat) : Nat := 1024 / typeWidth t
def lane (x : VReg) (t i : Nat) : Nat := field x.data.toNat (typeWidth t * i) (typeWidth t)
def chunkOf (t i : Nat) : Nat := typeWidth t * i / 64
def chunkFrayed (x : VReg) (c : Nat) : Bool := x.fray.getLsbD c
def laneFrayed (x : VReg) (t i : Nat) : Bool := chunkFrayed x (chunkOf t i)

/-- Lane i is active under a governing mask (R243). -/
def active (k : Strand) (m t i : Nat) : Bool :=
  if m = 0 then true else (k.m m).data.getLsbD (typeWidth t / 8 * i)

def maskFrayed (k : Strand) (m : Nat) : Bool := if m = 0 then false else (k.m m).fray

/-- Data from lanes: lane i of `n` taken from a function. -/
def packLanes (w n : Nat) (f : Nat → Nat) : Nat :=
  (List.range n).foldr (fun i acc => f i % 2 ^ w + 2 ^ w * acc) 0

/-- The fray bits of sixteen chunks. -/
def packFrays (f : Nat → Bool) : BitVec 16 :=
  BitVec.ofNat 16 ((List.range 16).foldr (fun c acc => (f c).toNat + 2 * acc) 0)

/-- The sources of a vector result's code in order: whether each is frayed where it matters, and its code. -/
def firstCodeOf : List (Bool × Code) → Option Code
  | [] => none
  | (b, c) :: t => if b then some c else firstCodeOf t

/-! ### The memory operand of a scalar access (R110) -/

/-- The address of an access, and the register's value after it. -/
def accessAddr (k : Strand) (a m o : Nat) : Nat × Option Nat :=
  let x := k.nat a
  match m with
  | 0 => (addp x (k.immediate 14 o), none)
  | 1 => (x, some (addp x (k.immediate 14 o)))
  | 2 => (x, some (coreStep x (signed 14 o)))
  | _ => (addp x (signed 11 o), none)

/-- The pointer register after the access has completed (R18). -/
def Strand.bump (k : Strand) (a : Nat) : Option Nat → Strand
  | some p => k.writeG a (BitVec.ofNat 64 p)
  | none => k

/-- An `LDT` of the strand is queued or in progress: it reads its source in the strand's program order (R237, log 21). -/
def ldtQueued (s : State) (sid : Nat) : Bool :=
  (s.cores.any fun p => p.2.dispatch.any fun o => o.sid == sid && o.kind == .ldt) ||
    s.quads.any fun p => match p.2.busy with
      | some (_, o) => o.sid == sid && o.kind == .ldt
      | none => false

/-- An unperformed memory request of the strand is on its way within the package: a later access waits for it (R211, R213,
log 2). Its writes to another package it leaves behind (R229). -/
def memBusy (s : State) (sid : Nat) : Bool :=
  ldtQueued s sid || s.flights.any fun p => match p.2 with
    | .remoteLoad x _ _ _ _ _ => x == sid
    | .vecLoad x _ _ _ _ _ _ _ => x == sid
    | .remoteStore x _ w _ => x == sid && keyPackage s w.key == s.pkg
    | .atomic a _ => a.sid == sid
    | .claim c => c.parts.isEmpty && c.claim.sid == sid
    | .barrier x _ _ _ => x == sid
    | _ => false

/-- No MVU operation of the strand is queued or in progress (R237). -/
def mvuClear (s : State) (sid : Nat) (k : Strand) : Bool :=
  (match Tab.find s.cores k.core with
    | some c => c.dispatch.all fun o => o.sid != sid
    | none => true) &&
  (match Tab.find s.quads (quadOf k.core) with
    | some q => match q.busy with
      | some (_, o) => o.sid != sid
      | none => true
    | none => true)

/-- The strand's earlier writes are performed as far as a reach asks. The agents of its own die see a stamped write from its
issue on (R224), those of other dies when it is applied everywhere, and every agent sees a write to another package when it
has arrived there (R212, R216, R217, R227). -/
def reachDrained (s : State) (sid die reach : Nat) : Bool :=
  (decide (reach < 3) || drained s die) && !farPending s sid

/-- What a release waits for: the earlier writes as far as its reach asks, and at `.quad` or wider the strand's earlier MVU
operations (R227, R237). -/
def releaseReady (s : State) (sid : Nat) (k : Strand) (reach : Nat) : Bool :=
  reachDrained s sid (dieOf k.core) reach && (reach == 0 || mvuClear s sid k)

/-- A scratchpad access can be performed now. -/
def scratchReady (s : State) (k : Strand) (ptr n : Nat) (own : Bool) : Bool :=
  ptrPkg ptr != s.pkg || padReady s k.ctx (ptrCore ptr) (ptrOff ptr) n own

/-- The number of the storage region of a quad's buffer: W's 64, then A's 32, then C's 16 (R33, Table 02-4). -/
def bufferRegion (quad buf off : Nat) : Nat :=
  2 ^ 16 + quad * 128 + (if buf = 1 then 0 else if buf = 2 then 64 else 96) + off / 4096

/-- A region of a quad's buffers can serve a context: neither is its claimed content being saved nor being restored (R33). -/
def bufferFree (ctx : Nat) (r : Region) : Bool := r.saving != some ctx && r.restoring != some ctx

/-- The bytes of a buffer that a context accesses can be accessed now (R33). -/
def bufferReady (s : State) (ctx quad buf off n : Nat) : Bool :=
  (List.range ((off + n - 1) / 4096 - off / 4096 + 1)).all fun i =>
    match Tab.find s.prot.regions (bufferRegion quad buf (off + i * 4096)) with
    | some r => bufferFree ctx r
    | none => true

/-- All of a quad's buffers can be accessed by a context now. -/
def buffersReady (s : State) (ctx quad : Nat) : Bool :=
  (s.prot.regions.filter fun p => decide (2 ^ 16 + quad * 128 ≤ p.1 ∧ p.1 < 2 ^ 16 + quad * 128 + 128)).all fun p =>
    bufferFree ctx p.2

/-- A gang member of the core has a write to the core's own scratchpad, an atomic or a claim there, still to be performed: another
strand's access keeps the order of issue (R213). -/
def padDeferred (s : State) (k : Strand) (ptr : Nat) : Bool :=
  let mine := fun (key : Nat) (v : Option VIssue) => match v with
    | some v => v.core == k.core && decide (scratchBase ≤ key ∧ key < bufferBase) && keyCore key == ptrCore ptr &&
        gangOf k != some v.gang
    | none => false
  s.flights.any fun p => match p.2 with
    | .remoteStore _ _ w v => mine w.key v
    | .atomic a _ => mine a.loc.key a.at_
    | .claim c => c.parts.isEmpty && mine c.claim.loc.key c.claim.at_
    | _ => false

/-- A read of another package's byte follows the strand's own earlier writes there (R210, R229). -/
def farClear (s : State) (sid : Nat) (l : Loc) (need : Nat) : Bool :=
  l.pkg == s.pkg || !bitOf need 0 || !farStores s sid l.pkg

/-- How an access of a strand is to be made once its checks have passed. -/
inductive Way where
  /-- performed now -/
  | here (l : Loc)
  /-- an anchored strand's request to another core's scratchpad, or one to another package (R19) -/
  | request (l : Loc)
  deriving DecidableEq, Repr

/-- The writes that a scalar store of `n` bytes makes: two for a pair of doublewords (R109). -/
def writesOf (n : Nat) : Nat := if n = 16 then 2 else 1

/-- An access of `n` bytes at a place finds the clocks, the stamps and the row it needs (R223, R224, R229, R364): a read, or
a write of the die's own, needs what its clock covers applied; a write to another die, or one that may be cached, needs room for its
stamps. -/
def placeReady (s : State) (sid : Nat) (k : Strand) (l : Loc) (n need : Nat) : Bool :=
  !rowBusy s l &&
    (if l.pkg ≠ s.pkg then farClear s sid l need
      else if bitOf need 0 ∨ l.die = dieOf k.core then
        landed s (dieOf k.core) l && (!bitOf need 1 || !lineHeld s (fun _ => true) l.key n || stampRoom s (dieOf k.core) (writesOf n))
      else stampRoom s (dieOf k.core) (writesOf n))

/-- The checks and translation of one access of `n` bytes through a pointer (R108, R111): segment, alignment, then a
migration, a translation fault, or the way it is made.  `moves`: a roaming strand migrates for it (R138). -/
def withAccess (s : State) (sid : Nat) (k : Strand) (ptr n align need : Nat) (moves : Bool) (body : Way → Out) : Out :=
  if strandCheck s k ptr n need = false then .next (trap s sid causeSegment)
  else if ptr % align ≠ 0 then .next (trap s sid causeAlignment)
  else if memBusy s sid then .next (s.putStrand sid (k.wait .request))
  else if isSpread ptr then
    let l := scratchLoc k.ctx ptr
    if l.pkg = s.pkg ∧ ptrCore ptr = homeCore s k.ctx k.core then
      if scratchReady s k ptr n true && landed s (dieOf k.core) l && !padDeferred s k ptr then body (.here l)
      else .next (s.putStrand sid (k.wait .request))
    else if moves && k.vcount == 0 && l.pkg == s.pkg then
      .next (s.putStrand sid (k.wait (.leave (ptrCore ptr))))
    else if farClear s sid l need &&
        (bitOf need 0 || l.pkg != s.pkg || l.die == dieOf k.core || stampRoom s (dieOf k.core) (writesOf n)) then
      body (.request l)
    else .next (s.putStrand sid (k.wait .request))
  else
    match translate s k ptr need with
    | .miss va => .next (s.putStrand sid { k with stall := .walk va need })
    | .at l =>
      if placeReady s sid k l n need then body (if l.pkg = s.pkg then .here l else .request l)
      else .next (s.putStrand sid (k.wait .request))

end Sys2Proof.Machine
end

