-- ==== Sys2Proof/Machine/Flags.lean ====
section
/-! DEFINITION. Conditions and comparisons (Table 04-2, R106), and the arithmetic results of the scalar instructions
(Table 05-2, Table 05-4, R101, R103). -/

namespace Sys2Proof.Machine

/-- A condition between two integers of `w` bits (Table 04-2). -/
def condInt (w c x y : Nat) : Bool :=
  let sx := signed w x
  let sy := signed w y
  match c with
  | 0 => x == y
  | 1 => x != y
  | 2 => decide (sx < sy)
  | 3 => decide (sx ≥ sy)
  | 4 => decide (sx ≤ sy)
  | 5 => decide (sx > sy)
  | 6 => decide (x < y)
  | 7 => decide (x ≥ y)
  | 8 => decide (x ≤ y)
  | 9 => decide (x > y)
  | _ => false

/-- A floating comparison and its flag (R106). -/
def condFp (f : Fp.Fmt) (c x y : Nat) : Bool × Fp.Flags :=
  let a := Fp.value f x
  let b := Fp.value f y
  if Fp.isNaN a || Fp.isNaN b then
    (c == 1, if c ≤ 1 then Fp.nvOf a ||| Fp.nvOf b else Fp.flagNV)
  else
    let o := Fp.compareVal a b
    (match c with
      | 0 => o == 0
      | 1 => o != 0
      | 2 => decide (o < 0)
      | 3 => decide (o ≥ 0)
      | 4 => decide (o ≤ 0)
      | 5 => decide (o > 0)
      | _ => false, 0)

/-- The lesser or greater of two floating values, as `FMIN` and `FMAX` (R105). -/
def minMaxFp (f : Fp.Fmt) (max : Bool) (x y : Nat) : Nat × Fp.Flags :=
  let a := Fp.value f x
  let b := Fp.value f y
  let nv := Fp.nvOf a ||| Fp.nvOf b
  if Fp.isNaN a && Fp.isNaN b then (Fp.canonNaN f, nv)
  else if Fp.isNaN a then (y, nv)
  else if Fp.isNaN b then (x, nv)
  else if max then (if Fp.compareZ a b < 0 then y else x, nv)
  else (if Fp.compareZ a b > 0 then y else x, nv)

def boolWord (b : Bool) : Word := if b then 1 else 0

/-! ### Integer results (Table 05-2) -/

def mulHighSigned (x y : Word) : Word := ofInt (x.toInt * y.toInt / 2 ^ 64)
def mulHighUnsigned (x y : Word) : Word := BitVec.ofNat 64 (x.toNat * y.toNat / 2 ^ 64)

/-- Signed quotient truncated toward zero, and remainder, with the corners of R101. -/
def divSigned (x y : Word) : Word := if y = 0 then BitVec.allOnes 64 else ofInt (x.toInt.tdiv y.toInt)
def remSigned (x y : Word) : Word := if y = 0 then x else ofInt (x.toInt.tmod y.toInt)
def divUnsigned (x y : Word) : Word := if y = 0 then BitVec.allOnes 64 else BitVec.ofNat 64 (x.toNat / y.toNat)
def remUnsigned (x y : Word) : Word := if y = 0 then x else BitVec.ofNat 64 (x.toNat % y.toNat)

def amount (y : Word) : Nat := y.toNat % 64
def shiftLeft (x : Word) (n : Nat) : Word := x <<< n
def shiftRight (x : Word) (n : Nat) : Word := x >>> n
def shiftArith (x : Word) (n : Nat) : Word := x.sshiftRight n
def rotateLeft (x : Word) (n : Nat) : Word := x <<< n ||| x >>> (64 - n)

def minSigned (x y : Word) : Word := if x.toInt ≤ y.toInt then x else y
def maxSigned (x y : Word) : Word := if x.toInt ≥ y.toInt then x else y
def minUnsigned (x y : Word) : Word := if x.toNat ≤ y.toNat then x else y
def maxUnsigned (x y : Word) : Word := if x.toNat ≥ y.toNat then x else y

def leadingZeros (x : Word) : Word := BitVec.ofNat 64 (64 - bitLength x.toNat)
def trailingZerosW (x : Word) : Word := BitVec.ofNat 64 (trailingZeros 64 x.toNat)
def onesOf (x : Word) : Word := BitVec.ofNat 64 (popCount 64 x.toNat)
def reverseW (x : Word) : Word := BitVec.ofNat 64 (bitReverse 64 x.toNat)

/-! ### Bit fields (R103): `l` is len - 1 -/

def extract (x : Word) (l p : Nat) : Nat := field x.toNat p (l + 1)
def extractSigned (x : Word) (l p : Nat) : Word := ofInt (signed (l + 1) (extract x l p))
def insertField (old x : Word) (l p : Nat) : Word :=
  BitVec.ofNat 64 (old.toNat - extract old l p * 2 ^ p + x.toNat % 2 ^ (l + 1) * 2 ^ p)

end Sys2Proof.Machine
end

