-- ==== Sys2Proof/Machine/Control.lean ====
section
/-! DEFINITION. Branches, calls and returns (R118 to R120). -/

namespace Sys2Proof.Machine

/-- The target of a word offset from this word, or its P word (R64). -/
def Strand.target (k : Strand) (n o : Nat) : Nat := unsigned 64 ((k.pc : Int) + 4 * signed n o)

/-- `BR.cc` (R118). -/
def execBr (c a o : Nat) (s : State) : Out :=
  issue (.br c a o) [a] [] s fun s sid k =>
    withClean s sid k [a] <|
      if condInt 64 c (k.nat a) 0 then .next (s.putStrand sid (k.jump (k.target 18 o))) else retire s sid k

/-- `JR` (R120, R61): a misaligned target traps, and then the `JR` has no effect. -/
def execJr (a o : Nat) (s : State) : Out :=
  issue (.jr a o) [a] [] s fun s sid k =>
    withClean s sid k [a] <|
      let t := unsigned 64 ((k.nat a : Int) + 4 * signed 18 o)
      if t % 4 ≠ 0 then .next (trap s sid causeAlignment) else .next (returnFrom s sid t)

/-- `BRC.cc` (R119). -/
def execBrc (c a o : Nat) (s : State) : Out :=
  issue (.brc c a o) [a] [a] s fun s sid k =>
    withClean s sid k [a] <|
      let t := k.val a - 1
      let k1 := k.writeG a t
      if condInt 64 c t.toNat 0 then .next (s.putStrand sid (k1.jump (k.target 18 o))) else retire s sid k1

/-- `JMP` (R120). -/
def execJmp (o : Nat) (s : State) : Out :=
  issue (.jmp o) [] [] s fun s sid k => .next (s.putStrand sid (k.jump (k.target 26 o)))

/-- `CALL` (R72, R120). -/
def execCall (o : Nat) (s : State) : Out :=
  issue (.call o) [] [15] s fun s sid k =>
    .next (s.putStrand sid ((k.writeG 15 (BitVec.ofNat 64 (k.pc + 4))).jump (k.target 26 o)))

end Sys2Proof.Machine
end

