-- ==== Sys2Proof/Decode.lean ====
section
/-! DEFINITION. The decoder, total on any bytes, and the encoder, both from the opcode map of 04_encoding.md.

A word that no row of the map matches is rejected by name: `reservedMajor` (Table 04-3) or `reserved` (a reserved
function, operation, kind or shape, or a bit that the row requires to be zero, R80).  Values of a used field that
an instruction does not accept (a type, a rounding code, a condition, a width) are checked by `Instr.wellFormed`;
a word that fails that check decodes to its row and traps when it is executed. -/

namespace Sys2Proof

/-- Why a word is no instruction (R80). -/
inductive DecodeError where
  /-- The major opcode is one that Table 04-3 reserves (0x00 among them). -/
  | reservedMajor (major : Nat)
  /-- A reserved function, operation, kind or shape of the major, or a non-zero bit in a field it does not use. -/
  | reserved (major : Nat)
  /-- Fewer than the four bytes of a word. -/
  | tooShort
  deriving DecidableEq, Repr

/-- A row of a major's table, or the rejection by name. -/
def orReserved (major : Nat) : Option Instr → Except DecodeError Instr
  | some i => .ok i
  | none => .error (.reserved major)

/-- Major 0x01 (R67). -/
def decodeMajor01 (w : Nat) : Option Instr :=
  match field w 6 8 with
  | 0 => if field w 0 6 = 0 then some (.add (field w 22 4) (field w 18 4) (field w 14 4)) else none
  | 1 => if field w 0 6 = 0 then some (.sub (field w 22 4) (field w 18 4) (field w 14 4)) else none
  | 2 => if field w 0 6 = 0 then some (.mul (field w 22 4) (field w 18 4) (field w 14 4)) else none
  | 3 => if field w 0 6 = 0 then some (.mulh (field w 22 4) (field w 18 4) (field w 14 4)) else none
  | 4 => if field w 0 6 = 0 then some (.mulhn (field w 22 4) (field w 18 4) (field w 14 4)) else none
  | 5 => if field w 0 6 = 0 then some (.div (field w 22 4) (field w 18 4) (field w 14 4)) else none
  | 6 => if field w 0 6 = 0 then some (.divn (field w 22 4) (field w 18 4) (field w 14 4)) else none
  | 7 => if field w 0 6 = 0 then some (.rem (field w 22 4) (field w 18 4) (field w 14 4)) else none
  | 8 => if field w 0 6 = 0 then some (.remn (field w 22 4) (field w 18 4) (field w 14 4)) else none
  | 16 => if field w 0 6 = 0 then some (.and (field w 22 4) (field w 18 4) (field w 14 4)) else none
  | 17 => if field w 0 6 = 0 then some (.or (field w 22 4) (field w 18 4) (field w 14 4)) else none
  | 18 => if field w 0 6 = 0 then some (.xor (field w 22 4) (field w 18 4) (field w 14 4)) else none
  | 19 => if field w 0 6 = 0 then some (.andn (field w 22 4) (field w 18 4) (field w 14 4)) else none
  | 20 => if field w 0 6 = 0 then some (.orn (field w 22 4) (field w 18 4) (field w 14 4)) else none
  | 24 => if field w 0 6 = 0 then some (.shl (field w 22 4) (field w 18 4) (field w 14 4)) else none
  | 25 => if field w 0 6 = 0 then some (.shr (field w 22 4) (field w 18 4) (field w 14 4)) else none
  | 26 => if field w 0 6 = 0 then some (.sha (field w 22 4) (field w 18 4) (field w 14 4)) else none
  | 27 => if field w 0 6 = 0 then some (.rot (field w 22 4) (field w 18 4) (field w 14 4)) else none
  | 32 => if field w 0 6 = 0 then some (.min (field w 22 4) (field w 18 4) (field w 14 4)) else none
  | 33 => if field w 0 6 = 0 then some (.max (field w 22 4) (field w 18 4) (field w 14 4)) else none
  | 34 => if field w 0 6 = 0 then some (.minn (field w 22 4) (field w 18 4) (field w 14 4)) else none
  | 35 => if field w 0 6 = 0 then some (.maxn (field w 22 4) (field w 18 4) (field w 14 4)) else none
  | 40 => if field w 14 4 = 0 ∧ field w 0 6 = 0 then some (.clz (field w 22 4) (field w 18 4)) else none
  | 41 => if field w 14 4 = 0 ∧ field w 0 6 = 0 then some (.ctz (field w 22 4) (field w 18 4)) else none
  | 42 => if field w 14 4 = 0 ∧ field w 0 6 = 0 then some (.popc (field w 22 4) (field w 18 4)) else none
  | 43 => if field w 14 4 = 0 ∧ field w 0 6 = 0 then some (.brev (field w 22 4) (field w 18 4)) else none
  | 48 => if field w 4 2 = 0 then some (.sel (field w 22 4) (field w 18 4) (field w 14 4) (field w 0 4)) else none
  | 49 => if field w 14 4 = 0 ∧ field w 0 6 = 0 then some (.mov (field w 22 4) (field w 18 4)) else none
  | 50 => if field w 0 6 = 0 then some (.addp (field w 22 4) (field w 18 4) (field w 14 4)) else none
  | 56 => if field w 4 2 = 0 then some (.cmp (field w 22 4) (field w 18 4) (field w 14 4) (field w 0 4)) else none
  | _ => none

/-- Major 0x02 (R68). -/
def decodeMajor02 (w : Nat) : Option Instr :=
  match field w 16 2 with
  | 0 => if field w 12 4 = 0 then some (.ext (field w 22 4) (field w 18 4) (field w 6 6) (field w 0 6)) else none
  | 1 => if field w 12 4 = 0 then some (.extn (field w 22 4) (field w 18 4) (field w 6 6) (field w 0 6)) else none
  | 2 => if field w 12 4 = 0 then some (.ins (field w 22 4) (field w 18 4) (field w 6 6) (field w 0 6)) else none
  | _ => none

/-- Major 0x04 (R68). -/
def decodeMajor04 (w : Nat) : Option Instr :=
  some (.addi (field w 22 4) (field w 18 4) (field w 0 18))

/-- Major 0x05 (R68). -/
def decodeMajor05 (w : Nat) : Option Instr :=
  some (.andi (field w 22 4) (field w 18 4) (field w 0 18))

/-- Major 0x06 (R68). -/
def decodeMajor06 (w : Nat) : Option Instr :=
  some (.ori (field w 22 4) (field w 18 4) (field w 0 18))

/-- Major 0x07 (R68). -/
def decodeMajor07 (w : Nat) : Option Instr :=
  some (.xori (field w 22 4) (field w 18 4) (field w 0 18))

/-- Major 0x08 (R68). -/
def decodeMajor08 (w : Nat) : Option Instr :=
  match field w 16 2 with
  | 0 => if field w 6 10 = 0 then some (.shli (field w 22 4) (field w 18 4) (field w 0 6)) else none
  | 1 => if field w 6 10 = 0 then some (.shri (field w 22 4) (field w 18 4) (field w 0 6)) else none
  | 2 => if field w 6 10 = 0 then some (.shai (field w 22 4) (field w 18 4) (field w 0 6)) else none
  | _ => none

/-- Major 0x09 (R68). -/
def decodeMajor09 (w : Nat) : Option Instr :=
  some (.lih (field w 22 4) (field w 0 22))

/-- Major 0x0A (R68). -/
def decodeMajor0A (w : Nat) : Option Instr :=
  some (.cmpi (field w 22 4) (field w 18 4) (field w 14 4) (field w 0 14))

/-- Major 0x0B (R69). -/
def decodeMajor0B (w : Nat) : Option Instr :=
  if field w 10 4 = 0 then
    match field w 6 4 with
    | 0 => if field w 3 3 = 0 then some (.fadd (field w 22 4) (field w 18 4) (field w 14 4) (field w 0 3)) else none
    | 1 => if field w 3 3 = 0 then some (.fsub (field w 22 4) (field w 18 4) (field w 14 4) (field w 0 3)) else none
    | 2 => if field w 3 3 = 0 then some (.fmul (field w 22 4) (field w 18 4) (field w 14 4) (field w 0 3)) else none
    | 3 => if field w 3 3 = 0 then some (.ffma (field w 22 4) (field w 18 4) (field w 14 4) (field w 0 3)) else none
    | 4 => if field w 0 6 = 0 then some (.fmin (field w 22 4) (field w 18 4) (field w 14 4)) else none
    | 5 => if field w 0 6 = 0 then some (.fmax (field w 22 4) (field w 18 4) (field w 14 4)) else none
    | 6 => if field w 4 2 = 0 then some (.fcmp (field w 22 4) (field w 18 4) (field w 14 4) (field w 0 4)) else none
    | _ => none
  else if field w 3 3 = 0 then some (.fcvt (field w 22 4) (field w 18 4) (field w 14 4) (field w 10 4) (field w 6 4) (field w 0 3)) else none

/-- Major 0x10 (R70). -/
def decodeMajor10 (w : Nat) : Option Instr :=
  some (.ld (field w 22 4) (field w 18 4) (field w 16 2) (field w 14 2) (field w 0 14))

/-- Major 0x11 (R70). -/
def decodeMajor11 (w : Nat) : Option Instr :=
  some (.ldN (field w 22 4) (field w 18 4) (field w 16 2) (field w 14 2) (field w 0 14))

/-- Major 0x12 (R70). -/
def decodeMajor12 (w : Nat) : Option Instr :=
  some (.st (field w 22 4) (field w 18 4) (field w 16 2) (field w 14 2) (field w 0 14))

/-- Major 0x13 (R70). -/
def decodeMajor13 (w : Nat) : Option Instr :=
  some (.ldp (field w 22 4) (field w 18 4) (field w 16 2) (field w 14 2) (field w 0 14))

/-- Major 0x14 (R70). -/
def decodeMajor14 (w : Nat) : Option Instr :=
  some (.stp (field w 22 4) (field w 18 4) (field w 16 2) (field w 14 2) (field w 0 14))

/-- Major 0x15 (R71). -/
def decodeMajor15 (w : Nat) : Option Instr :=
  match field w 20 4 with
  | 0 => if field w 4 4 = 0 then some (.amoAdd (field w 24 2) (field w 16 4) (field w 12 4) (field w 8 4) (field w 3 1) (field w 0 3)) else none
  | 1 => if field w 4 4 = 0 then some (.amoMin (field w 24 2) (field w 16 4) (field w 12 4) (field w 8 4) (field w 3 1) (field w 0 3)) else none
  | 2 => if field w 4 4 = 0 then some (.amoMax (field w 24 2) (field w 16 4) (field w 12 4) (field w 8 4) (field w 3 1) (field w 0 3)) else none
  | 3 => if field w 4 4 = 0 then some (.amoMinn (field w 24 2) (field w 16 4) (field w 12 4) (field w 8 4) (field w 3 1) (field w 0 3)) else none
  | 4 => if field w 4 4 = 0 then some (.amoMaxn (field w 24 2) (field w 16 4) (field w 12 4) (field w 8 4) (field w 3 1) (field w 0 3)) else none
  | 5 => if field w 4 4 = 0 then some (.amoAnd (field w 24 2) (field w 16 4) (field w 12 4) (field w 8 4) (field w 3 1) (field w 0 3)) else none
  | 6 => if field w 4 4 = 0 then some (.amoOr (field w 24 2) (field w 16 4) (field w 12 4) (field w 8 4) (field w 3 1) (field w 0 3)) else none
  | 7 => if field w 4 4 = 0 then some (.amoXor (field w 24 2) (field w 16 4) (field w 12 4) (field w 8 4) (field w 3 1) (field w 0 3)) else none
  | 8 => if field w 4 4 = 0 then some (.amoSwap (field w 24 2) (field w 16 4) (field w 12 4) (field w 8 4) (field w 3 1) (field w 0 3)) else none
  | 9 => some (.amoc (field w 24 2) (field w 16 4) (field w 12 4) (field w 8 4) (field w 4 4) (field w 3 1) (field w 0 3))
  | 10 => if field w 3 5 = 0 then some (.amof (field w 24 2) (field w 16 4) (field w 12 4) (field w 8 4) (field w 0 3)) else none
  | 11 => if field w 3 5 = 1 then some (.claim (field w 24 2) (field w 16 4) (field w 12 4) (field w 8 4) (field w 0 3)) else none
  | 15 =>
    match field w 4 4 with
    | 0 => if field w 24 2 = 0 ∧ field w 8 12 = 0 ∧ field w 3 1 = 0 then some (.fence (field w 0 3)) else none
    | 1 => if field w 24 2 = 0 ∧ field w 16 4 = 0 ∧ field w 8 4 = 0 ∧ field w 0 4 = 0 then some (.pref (field w 12 4)) else none
    | 2 => if field w 24 2 = 0 ∧ field w 16 4 = 0 then some (.pgadv (field w 12 4) (field w 8 4) (field w 0 4)) else none
    | _ => none
  | _ => none

/-- Major 0x18 (R72). -/
def decodeMajor18 (w : Nat) : Option Instr :=
  if field w 22 4 = 14 then some (.jr (field w 18 4) (field w 0 18)) else some (.br (field w 22 4) (field w 18 4) (field w 0 18))

/-- Major 0x19 (R72). -/
def decodeMajor19 (w : Nat) : Option Instr :=
  some (.brc (field w 22 4) (field w 18 4) (field w 0 18))

/-- Major 0x1A (R72). -/
def decodeMajor1A (w : Nat) : Option Instr :=
  some (.jmp (field w 0 26))

/-- Major 0x1B (R72). -/
def decodeMajor1B (w : Nat) : Option Instr :=
  some (.call (field w 0 26))

/-- Major 0x1C (R73). -/
def decodeMajor1C (w : Nat) : Option Instr :=
  match field w 18 4 with
  | 0 => some (.fork (field w 22 4) (field w 0 18))
  | 1 => if field w 0 14 = 0 then some (.forkr (field w 22 4) (field w 14 4)) else none
  | 2 => if field w 22 4 = 0 ∧ field w 0 18 = 0 then some (.exit) else none
  | 3 => if field w 22 4 = 0 ∧ field w 0 18 = 0 then some (.yield) else none
  | 4 => if field w 0 5 = 0 then some (.send (field w 22 4) (field w 14 4) (field w 10 4) (field w 6 4) (field w 5 1)) else none
  | 5 => if field w 0 18 = 0 then some (.self (field w 22 4)) else none
  | 6 => if field w 16 2 = 0 then some (.mode (field w 22 4) (field w 0 16)) else none
  | 7 => if field w 22 4 = 0 ∧ field w 16 2 = 0 then some (.empty (field w 0 16)) else none
  | _ => none

/-- Major 0x1D (R73). -/
def decodeMajor1D (w : Nat) : Option Instr :=
  match field w 18 4 with
  | 0 => some (.sopen (field w 22 4) (field w 17 1) (field w 16 1) (field w 0 16))
  | 1 => if field w 0 18 = 0 then some (.sclose (field w 22 4)) else none
  | 2 => if field w 22 4 = 0 ∧ field w 0 14 = 0 then some (.scancel (field w 14 4)) else none
  | 3 => if field w 22 4 = 0 ∧ field w 0 18 = 0 then some (.succeed) else none
  | 4 => if field w 22 4 = 0 ∧ field w 0 18 = 0 then some (.shield) else none
  | 5 => if field w 22 4 = 0 ∧ field w 0 18 = 0 then some (.unshield) else none
  | 6 => if field w 22 4 = 0 ∧ field w 0 18 = 0 then some (.cpt) else none
  | 7 => if field w 8 6 = 0 then some (.sinfo (field w 22 4) (field w 14 4) (field w 0 8)) else none
  | _ => none

/-- Major 0x1E (R73). -/
def decodeMajor1E (w : Nat) : Option Instr :=
  match field w 6 8 with
  | 0 => if field w 22 4 = 0 ∧ field w 14 4 = 0 ∧ field w 0 6 = 0 then some (.binitCount (field w 18 4)) else none
  | 1 => if field w 22 4 = 0 ∧ field w 14 4 = 0 ∧ field w 0 6 = 0 then some (.binitBytes (field w 18 4)) else none
  | 2 => if field w 22 4 = 0 ∧ field w 14 4 = 0 ∧ field w 0 6 = 0 then some (.binitLock (field w 18 4)) else none
  | 8 => if field w 22 4 = 0 ∧ field w 0 6 = 0 then some (.bexpect (field w 18 4) (field w 14 4)) else none
  | 9 => if field w 22 4 = 0 ∧ field w 0 6 = 0 then some (.barrive (field w 18 4) (field w 14 4)) else none
  | 16 => if field w 14 4 = 0 ∧ field w 0 6 = 0 then some (.bwait (field w 22 4) (field w 18 4)) else none
  | 17 => if field w 14 4 = 0 ∧ field w 0 6 = 0 then some (.btest (field w 22 4) (field w 18 4)) else none
  | 24 => if field w 14 4 = 0 ∧ field w 0 6 = 0 then some (.lock (field w 22 4) (field w 18 4)) else none
  | 25 => if field w 22 4 = 0 ∧ field w 14 4 = 0 ∧ field w 0 6 = 0 then some (.unlock (field w 18 4)) else none
  | 32 => if field w 0 6 = 0 then some (.waita (field w 22 4) (field w 18 4) (field w 14 4)) else none
  | 33 => if field w 22 4 = 0 ∧ field w 0 6 = 0 then some (.wakea (field w 18 4) (field w 14 4)) else none
  | _ => none

/-- Major 0x1F (R73). -/
def decodeMajor1F (w : Nat) : Option Instr :=
  match field w 18 4 with
  | 0 => if field w 22 4 = 0 ∧ field w 16 2 = 0 then some (.mend (field w 0 16)) else none
  | 1 => if field w 22 4 = 0 ∧ field w 0 14 = 0 then some (.mendb (field w 14 4)) else none
  | 2 => if field w 22 4 = 0 ∧ field w 0 14 = 0 then some (.mendm (field w 14 4)) else none
  | 3 => if field w 22 4 = 0 ∧ field w 0 12 = 0 then some (.fray (field w 14 4) (field w 12 2)) else none
  | _ => none

/-- Major 0x20 (R74). -/
def decodeMajor20 (w : Nat) : Option Instr :=
  match field w 0 4 with
  | 0 => some (.vadd (field w 21 5) (field w 16 5) (field w 11 5) (field w 8 3) (field w 4 4))
  | 1 => some (.vsub (field w 21 5) (field w 16 5) (field w 11 5) (field w 8 3) (field w 4 4))
  | 2 => some (.vmul (field w 21 5) (field w 16 5) (field w 11 5) (field w 8 3) (field w 4 4))
  | 3 => some (.vmin (field w 21 5) (field w 16 5) (field w 11 5) (field w 8 3) (field w 4 4))
  | 4 => some (.vmax (field w 21 5) (field w 16 5) (field w 11 5) (field w 8 3) (field w 4 4))
  | 5 => if field w 11 5 = 0 then some (.vabs (field w 21 5) (field w 16 5) (field w 8 3) (field w 4 4)) else none
  | 6 => if field w 11 5 = 0 then some (.vneg (field w 21 5) (field w 16 5) (field w 8 3) (field w 4 4)) else none
  | _ => none

/-- Major 0x21 (R74). -/
def decodeMajor21 (w : Nat) : Option Instr :=
  match field w 0 4 with
  | 0 => some (.vfma (field w 21 5) (field w 16 5) (field w 11 5) (field w 8 3) (field w 4 4))
  | 1 => some (.vfms (field w 21 5) (field w 16 5) (field w 11 5) (field w 8 3) (field w 4 4))
  | _ => none

/-- Major 0x22 (R74). -/
def decodeMajor22 (w : Nat) : Option Instr :=
  match field w 0 4 with
  | 0 => some (.vand (field w 21 5) (field w 16 5) (field w 11 5) (field w 8 3) (field w 4 4))
  | 1 => some (.vor (field w 21 5) (field w 16 5) (field w 11 5) (field w 8 3) (field w 4 4))
  | 2 => some (.vxor (field w 21 5) (field w 16 5) (field w 11 5) (field w 8 3) (field w 4 4))
  | 3 => some (.vshl (field w 21 5) (field w 16 5) (field w 11 5) (field w 8 3) (field w 4 4))
  | 4 => some (.vshr (field w 21 5) (field w 16 5) (field w 11 5) (field w 8 3) (field w 4 4))
  | 5 => some (.vsha (field w 21 5) (field w 16 5) (field w 11 5) (field w 8 3) (field w 4 4))
  | 6 => some (.vsel (field w 21 5) (field w 16 5) (field w 11 5) (field w 8 3) (field w 4 4))
  | _ => none

/-- Major 0x23 (R74). -/
def decodeMajor23 (w : Nat) : Option Instr :=
  if field w 24 2 = 0 then some (.vcmp (field w 21 3) (field w 16 5) (field w 11 5) (field w 8 3) (field w 4 4) (field w 0 4)) else none

/-- Major 0x24 (R74). -/
def decodeMajor24 (w : Nat) : Option Instr :=
  some (.vcvt (field w 21 5) (field w 16 5) (field w 11 5) (field w 8 3) (field w 4 4) (field w 0 4))

/-- Major 0x25 (R74). -/
def decodeMajor25 (w : Nat) : Option Instr :=
  match field w 0 4 with
  | 0 => if field w 11 5 = 0 then some (.vlog2 (field w 21 5) (field w 16 5) (field w 8 3) (field w 4 4)) else none
  | 1 => if field w 11 5 = 0 then some (.vexp2 (field w 21 5) (field w 16 5) (field w 8 3) (field w 4 4)) else none
  | 2 => if field w 11 5 = 0 then some (.vrcp (field w 21 5) (field w 16 5) (field w 8 3) (field w 4 4)) else none
  | 3 => if field w 11 5 = 0 then some (.vrsq (field w 21 5) (field w 16 5) (field w 8 3) (field w 4 4)) else none
  | 4 => if field w 11 5 = 0 then some (.vsqrt (field w 21 5) (field w 16 5) (field w 8 3) (field w 4 4)) else none
  | _ => none

/-- Major 0x26 (R74). -/
def decodeMajor26 (w : Nat) : Option Instr :=
  match field w 0 4 with
  | 0 => if field w 11 5 = 0 then some (.vredSum (field w 21 5) (field w 16 5) (field w 8 3) (field w 4 4)) else none
  | 1 => if field w 11 5 = 0 then some (.vredMax (field w 21 5) (field w 16 5) (field w 8 3) (field w 4 4)) else none
  | 2 => if field w 11 5 = 0 then some (.vredMin (field w 21 5) (field w 16 5) (field w 8 3) (field w 4 4)) else none
  | 3 => if field w 11 5 = 0 then some (.vredMaxi (field w 21 5) (field w 16 5) (field w 8 3) (field w 4 4)) else none
  | 4 => if field w 11 5 = 0 then some (.vredMini (field w 21 5) (field w 16 5) (field w 8 3) (field w 4 4)) else none
  | 8 => if field w 11 5 = 0 then some (.vscanSum (field w 21 5) (field w 16 5) (field w 8 3) (field w 4 4)) else none
  | 9 => if field w 11 5 = 0 then some (.vscanMax (field w 21 5) (field w 16 5) (field w 8 3) (field w 4 4)) else none
  | 10 => if field w 11 5 = 0 then some (.vscanMin (field w 21 5) (field w 16 5) (field w 8 3) (field w 4 4)) else none
  | _ => none

/-- Major 0x27 (R74). -/
def decodeMajor27 (w : Nat) : Option Instr :=
  match field w 0 4 with
  | 0 => some (.vperm (field w 21 5) (field w 16 5) (field w 11 5) (field w 8 3) (field w 4 4))
  | 1 => some (.vpermX2 (field w 21 5) (field w 16 5) (field w 11 5) (field w 8 3) (field w 4 4))
  | 2 => some (.vshuf (field w 21 5) (field w 16 5) (field w 11 5) (field w 8 3) (field w 4 4))
  | 3 => if field w 20 1 = 0 ∧ field w 11 5 = 0 then some (.vbcast (field w 21 5) (field w 16 4) (field w 8 3) (field w 4 4)) else none
  | 4 => if field w 11 5 = 0 then some (.vmov (field w 21 5) (field w 16 5) (field w 8 3) (field w 4 4)) else none
  | 5 => if field w 11 5 = 0 then some (.vmovX2 (field w 21 5) (field w 16 5) (field w 8 3) (field w 4 4)) else none
  | 6 => if field w 11 5 = 0 then some (.vmovX4 (field w 21 5) (field w 16 5) (field w 8 3) (field w 4 4)) else none
  | 7 => if field w 20 1 = 0 ∧ field w 15 1 = 0 ∧ field w 8 3 = 0 then some (.vins (field w 21 5) (field w 16 4) (field w 11 4) (field w 4 4)) else none
  | 8 => if field w 25 1 = 0 ∧ field w 15 1 = 0 ∧ field w 8 3 = 0 then some (.vext (field w 21 4) (field w 16 5) (field w 11 4) (field w 4 4)) else none
  | _ => none

/-- Major 0x28 (R75). -/
def decodeMajor28 (w : Nat) : Option Instr :=
  match field w 3 1, field w 0 1 with
  | 0, 0 => if field w 20 1 = 0 ∧ field w 11 5 = 0 then some (.vld (field w 21 5) (field w 16 4) (field w 8 3) (field w 4 4) (field w 1 2)) else none
  | 0, 1 => if field w 20 1 = 0 ∧ field w 11 5 = 0 then some (.vst (field w 21 5) (field w 16 4) (field w 8 3) (field w 4 4) (field w 1 2)) else none
  | 1, 1 => if field w 20 1 = 0 ∧ field w 15 1 = 0 then some (.vstBnd (field w 21 5) (field w 16 4) (field w 11 4) (field w 8 3) (field w 4 4) (field w 1 2)) else none
  | _, _ => none

/-- Major 0x29 (R75). -/
def decodeMajor29 (w : Nat) : Option Instr :=
  match field w 0 1 with
  | 0 => if field w 20 1 = 0 ∧ field w 15 1 = 0 ∧ field w 3 1 = 0 then some (.vlds (field w 21 5) (field w 16 4) (field w 11 4) (field w 8 3) (field w 4 4) (field w 1 2)) else none
  | 1 => if field w 20 1 = 0 ∧ field w 15 1 = 0 ∧ field w 3 1 = 0 then some (.vsts (field w 21 5) (field w 16 4) (field w 11 4) (field w 8 3) (field w 4 4) (field w 1 2)) else none
  | _ => none

/-- Major 0x2A (R75). -/
def decodeMajor2A (w : Nat) : Option Instr :=
  match field w 0 1 with
  | 0 => if field w 20 1 = 0 ∧ field w 3 1 = 0 then some (.vgath (field w 21 5) (field w 16 4) (field w 11 5) (field w 8 3) (field w 4 4) (field w 1 2)) else none
  | 1 => if field w 20 1 = 0 ∧ field w 3 1 = 0 then some (.vscat (field w 21 5) (field w 16 4) (field w 11 5) (field w 8 3) (field w 4 4) (field w 1 2)) else none
  | _ => none

/-- Major 0x2B (R76). -/
def decodeMajor2B (w : Nat) : Option Instr :=
  match field w 0 8 with
  | 0 => if field w 24 2 = 0 ∧ field w 19 2 = 0 ∧ field w 14 2 = 0 ∧ field w 8 3 = 0 then some (.kand (field w 21 3) (field w 16 3) (field w 11 3)) else none
  | 1 => if field w 24 2 = 0 ∧ field w 19 2 = 0 ∧ field w 14 2 = 0 ∧ field w 8 3 = 0 then some (.kor (field w 21 3) (field w 16 3) (field w 11 3)) else none
  | 2 => if field w 24 2 = 0 ∧ field w 19 2 = 0 ∧ field w 14 2 = 0 ∧ field w 8 3 = 0 then some (.kxor (field w 21 3) (field w 16 3) (field w 11 3)) else none
  | 3 => if field w 24 2 = 0 ∧ field w 19 2 = 0 ∧ field w 8 8 = 0 then some (.knot (field w 21 3) (field w 16 3)) else none
  | 4 => if field w 24 2 = 0 ∧ field w 19 2 = 0 ∧ field w 8 8 = 0 then some (.kmov (field w 21 3) (field w 16 3)) else none
  | 5 => if field w 24 2 = 0 ∧ field w 20 1 = 0 ∧ field w 15 1 = 0 ∧ field w 8 3 = 0 then some (.kmovG (field w 21 3) (field w 16 4) (field w 11 4)) else none
  | 6 => if field w 25 1 = 0 ∧ field w 19 2 = 0 ∧ field w 8 8 = 0 then some (.kmovLo (field w 21 4) (field w 16 3)) else none
  | 7 => if field w 25 1 = 0 ∧ field w 19 2 = 0 ∧ field w 8 8 = 0 then some (.kmovHi (field w 21 4) (field w 16 3)) else none
  | 8 => if field w 25 1 = 0 ∧ field w 19 2 = 0 ∧ field w 8 8 = 0 then some (.kpop (field w 21 4) (field w 16 3)) else none
  | _ => none

/-- Major 0x2C (R77). -/
def decodeMajor2C (w : Nat) : Option Instr :=
  if field w 0 4 = 0 then some (.mma (field w 21 5) (field w 17 4) (field w 13 4) (field w 9 4) (field w 5 4) (field w 4 1)) else none

/-- Major 0x2D (R77). -/
def decodeMajor2D (w : Nat) : Option Instr :=
  if field w 0 4 = 0 then some (.mmas (field w 21 5) (field w 17 4) (field w 13 4) (field w 9 4) (field w 5 4) (field w 4 1)) else none

/-- Major 0x2E (R77). -/
def decodeMajor2E (w : Nat) : Option Instr :=
  some (.mmag (field w 21 5) (field w 17 4) (field w 13 4) (field w 9 4) (field w 5 4) (field w 4 1) (field w 0 4))

/-- Major 0x2F (R77). -/
def decodeMajor2F (w : Nat) : Option Instr :=
  if field w 17 9 = 0 ∧ field w 4 1 = 0 then some (.mxs (field w 13 4) (field w 9 4) (field w 5 4) (field w 0 4)) else none

/-- Major 0x30 (R77). -/
def decodeMajor30 (w : Nat) : Option Instr :=
  match field w 21 5 with
  | 0 => if field w 17 4 = 0 ∧ field w 0 13 = 0 then some (.mzero (field w 13 4)) else none
  | 1 => if field w 19 2 = 0 ∧ field w 5 4 = 0 then some (.mrd (field w 17 2) (field w 13 4) (field w 9 4) (field w 0 5)) else none
  | 2 => if field w 19 2 = 0 ∧ field w 5 4 = 0 then some (.mwr (field w 17 2) (field w 13 4) (field w 9 4) (field w 0 5)) else none
  | 3 => if field w 13 4 = 0 ∧ field w 1 4 = 0 then some (.ldt (field w 17 4) (field w 9 4) (field w 5 4) (field w 0 1)) else none
  | 4 => if field w 13 8 = 0 ∧ field w 0 9 = 0 then some (.mslot (field w 9 4)) else none
  | _ => none

/-- Major 0x32 (R78). -/
def decodeMajor32 (w : Nat) : Option Instr :=
  match field w 20 2 with
  | 0 => if field w 0 4 = 0 then some (.copy (field w 25 1) (field w 22 3) (field w 16 4) (field w 12 4) (field w 8 4) (field w 4 4)) else none
  | 1 => if field w 0 4 = 0 then some (.copyT (field w 25 1) (field w 22 3) (field w 16 4) (field w 12 4) (field w 8 4) (field w 4 4)) else none
  | 2 => some (.copyTag (field w 25 1) (field w 22 3) (field w 16 4) (field w 12 4) (field w 8 4) (field w 4 4) (field w 0 4))
  | _ => none

/-- Major 0x33 (R78). -/
def decodeMajor33 (w : Nat) : Option Instr :=
  match field w 20 2 with
  | 0 => if field w 16 4 = 0 ∧ field w 0 12 = 0 then some (.selp (field w 25 1) (field w 22 3) (field w 12 4)) else none
  | 1 => if field w 16 4 = 0 ∧ field w 0 12 = 0 then some (.selk (field w 25 1) (field w 22 3) (field w 12 4)) else none
  | 2 => if field w 16 4 = 0 ∧ field w 0 12 = 0 then some (.selr (field w 25 1) (field w 22 3) (field w 12 4)) else none
  | _ => none

/-- Major 0x3A (R79). -/
def decodeMajor3A (w : Nat) : Option Instr :=
  match field w 6 8 with
  | 0 => if field w 14 12 = 0 ∧ field w 0 6 = 0 then some (.nop) else none
  | 1 => if field w 14 12 = 0 then some (.trap (field w 0 6)) else none
  | 2 => if field w 14 12 = 0 then some (.bkpt (field w 0 6)) else none
  | 8 => if field w 14 8 = 0 ∧ field w 0 6 = 0 then some (.time (field w 22 4)) else none
  | 9 => if field w 14 8 = 0 then some (.ctlr (field w 22 4) (field w 0 6)) else none
  | 10 => if field w 22 4 = 0 ∧ field w 14 4 = 0 then some (.ctlw (field w 18 4) (field w 0 6)) else none
  | 11 => if field w 14 12 = 0 ∧ field w 0 6 = 0 then some (.snap) else none
  | 16 => if field w 22 4 = 0 then some (.bndset (field w 18 4) (field w 14 4) (field w 4 2) (field w 0 4)) else none
  | 24 => if field w 22 4 = 0 ∧ field w 14 4 = 0 ∧ field w 0 6 = 0 then some (.gangEnter (field w 18 4)) else none
  | 25 => if field w 14 12 = 0 ∧ field w 0 6 = 0 then some (.gangExit) else none
  | 26 => if field w 22 4 = 0 ∧ field w 14 4 = 0 ∧ field w 0 6 = 0 then some (.atVcc (field w 18 4)) else none
  | 32 => if field w 0 6 = 0 then some (.klaunch (field w 22 4) (field w 18 4) (field w 14 4)) else none
  | _ => none

/-- Major 0x3E (R88). -/
def decodeMajor3E (w : Nat) : Option Instr :=
  if field w 0 6 = 0 then some (.pair (field w 16 10) (field w 6 10)) else none

/-- Major 0x3F (R82). -/
def decodeMajor3F (w : Nat) : Option Instr :=
  match field w 22 4 with
  | 0 => some (.hintImm (field w 0 24))
  | 1 => some (.hintImm (field w 0 24))
  | 2 => some (.hintImm (field w 0 24))
  | 3 => some (.hintImm (field w 0 24))
  | 4 => if field w 16 6 = 0 then some (.hintLat (field w 0 16)) else none
  | 5 => if field w 9 13 = 0 ∧ field w 4 4 = 0 then some (.hintMod (field w 8 1) (field w 3 1) (field w 0 3)) else none
  | _ => none

/-- The instruction a 32-bit word encodes (R61, R66): the major opcode selects the table. -/
def decodeWord (w : Nat) : Except DecodeError Instr :=
  match field w 26 6 with
  | 1 => orReserved 1 (decodeMajor01 w)
  | 2 => orReserved 2 (decodeMajor02 w)
  | 4 => orReserved 4 (decodeMajor04 w)
  | 5 => orReserved 5 (decodeMajor05 w)
  | 6 => orReserved 6 (decodeMajor06 w)
  | 7 => orReserved 7 (decodeMajor07 w)
  | 8 => orReserved 8 (decodeMajor08 w)
  | 9 => orReserved 9 (decodeMajor09 w)
  | 10 => orReserved 10 (decodeMajor0A w)
  | 11 => orReserved 11 (decodeMajor0B w)
  | 16 => orReserved 16 (decodeMajor10 w)
  | 17 => orReserved 17 (decodeMajor11 w)
  | 18 => orReserved 18 (decodeMajor12 w)
  | 19 => orReserved 19 (decodeMajor13 w)
  | 20 => orReserved 20 (decodeMajor14 w)
  | 21 => orReserved 21 (decodeMajor15 w)
  | 24 => orReserved 24 (decodeMajor18 w)
  | 25 => orReserved 25 (decodeMajor19 w)
  | 26 => orReserved 26 (decodeMajor1A w)
  | 27 => orReserved 27 (decodeMajor1B w)
  | 28 => orReserved 28 (decodeMajor1C w)
  | 29 => orReserved 29 (decodeMajor1D w)
  | 30 => orReserved 30 (decodeMajor1E w)
  | 31 => orReserved 31 (decodeMajor1F w)
  | 32 => orReserved 32 (decodeMajor20 w)
  | 33 => orReserved 33 (decodeMajor21 w)
  | 34 => orReserved 34 (decodeMajor22 w)
  | 35 => orReserved 35 (decodeMajor23 w)
  | 36 => orReserved 36 (decodeMajor24 w)
  | 37 => orReserved 37 (decodeMajor25 w)
  | 38 => orReserved 38 (decodeMajor26 w)
  | 39 => orReserved 39 (decodeMajor27 w)
  | 40 => orReserved 40 (decodeMajor28 w)
  | 41 => orReserved 41 (decodeMajor29 w)
  | 42 => orReserved 42 (decodeMajor2A w)
  | 43 => orReserved 43 (decodeMajor2B w)
  | 44 => orReserved 44 (decodeMajor2C w)
  | 45 => orReserved 45 (decodeMajor2D w)
  | 46 => orReserved 46 (decodeMajor2E w)
  | 47 => orReserved 47 (decodeMajor2F w)
  | 48 => orReserved 48 (decodeMajor30 w)
  | 50 => orReserved 50 (decodeMajor32 w)
  | 51 => orReserved 51 (decodeMajor33 w)
  | 58 => orReserved 58 (decodeMajor3A w)
  | 62 => orReserved 62 (decodeMajor3E w)
  | 63 => orReserved 63 (decodeMajor3F w)
  | m => .error (.reservedMajor m)

/-- Decodes the first word of a list of bytes, little-endian (R61), and answers the rest. -/
def decode : List Byte → Except DecodeError (Instr × List Byte)
  | a :: b :: c :: d :: rest =>
    match decodeWord (leNat [a, b, c, d]) with
    | .ok i => .ok (i, rest)
    | .error e => .error e
  | _ => .error .tooShort

/-- The instruction the decoder reads from a word numbered as the opcode table numbers it. -/
def decodeTableWord (nbits w : Nat) : Option Instr :=
  match decode (leBytes 4 (w % 2 ^ nbits)) with
  | .ok (i, _) => some i
  | .error _ => none

/-- The 32-bit word of an instruction: the opcode map's fixed bits and its fields in their places (R62 to R79).
A step of the device has no word; it answers the all-zero word, which is no instruction (R66). -/
def encodeWord : Instr → Nat
  | .add d a b => 0x04000000 + d * 4194304 + a * 262144 + b * 16384
  | .sub d a b => 0x04000040 + d * 4194304 + a * 262144 + b * 16384
  | .mul d a b => 0x04000080 + d * 4194304 + a * 262144 + b * 16384
  | .mulh d a b => 0x040000C0 + d * 4194304 + a * 262144 + b * 16384
  | .mulhn d a b => 0x04000100 + d * 4194304 + a * 262144 + b * 16384
  | .div d a b => 0x04000140 + d * 4194304 + a * 262144 + b * 16384
  | .divn d a b => 0x04000180 + d * 4194304 + a * 262144 + b * 16384
  | .rem d a b => 0x040001C0 + d * 4194304 + a * 262144 + b * 16384
  | .remn d a b => 0x04000200 + d * 4194304 + a * 262144 + b * 16384
  | .and d a b => 0x04000400 + d * 4194304 + a * 262144 + b * 16384
  | .or d a b => 0x04000440 + d * 4194304 + a * 262144 + b * 16384
  | .xor d a b => 0x04000480 + d * 4194304 + a * 262144 + b * 16384
  | .andn d a b => 0x040004C0 + d * 4194304 + a * 262144 + b * 16384
  | .orn d a b => 0x04000500 + d * 4194304 + a * 262144 + b * 16384
  | .shl d a b => 0x04000600 + d * 4194304 + a * 262144 + b * 16384
  | .shr d a b => 0x04000640 + d * 4194304 + a * 262144 + b * 16384
  | .sha d a b => 0x04000680 + d * 4194304 + a * 262144 + b * 16384
  | .rot d a b => 0x040006C0 + d * 4194304 + a * 262144 + b * 16384
  | .min d a b => 0x04000800 + d * 4194304 + a * 262144 + b * 16384
  | .max d a b => 0x04000840 + d * 4194304 + a * 262144 + b * 16384
  | .minn d a b => 0x04000880 + d * 4194304 + a * 262144 + b * 16384
  | .maxn d a b => 0x040008C0 + d * 4194304 + a * 262144 + b * 16384
  | .clz d a => 0x04000A00 + d * 4194304 + a * 262144
  | .ctz d a => 0x04000A40 + d * 4194304 + a * 262144
  | .popc d a => 0x04000A80 + d * 4194304 + a * 262144
  | .brev d a => 0x04000AC0 + d * 4194304 + a * 262144
  | .sel d a b c => 0x04000C00 + d * 4194304 + a * 262144 + b * 16384 + c
  | .mov d a => 0x04000C40 + d * 4194304 + a * 262144
  | .addp d a b => 0x04000C80 + d * 4194304 + a * 262144 + b * 16384
  | .cmp d a b c => 0x04000E00 + d * 4194304 + a * 262144 + b * 16384 + c
  | .ext d a l p => 0x08000000 + d * 4194304 + a * 262144 + l * 64 + p
  | .extn d a l p => 0x08010000 + d * 4194304 + a * 262144 + l * 64 + p
  | .ins d a l p => 0x08020000 + d * 4194304 + a * 262144 + l * 64 + p
  | .addi d a i => 0x10000000 + d * 4194304 + a * 262144 + i
  | .andi d a i => 0x14000000 + d * 4194304 + a * 262144 + i
  | .ori d a i => 0x18000000 + d * 4194304 + a * 262144 + i
  | .xori d a i => 0x1C000000 + d * 4194304 + a * 262144 + i
  | .shli d a s => 0x20000000 + d * 4194304 + a * 262144 + s
  | .shri d a s => 0x20010000 + d * 4194304 + a * 262144 + s
  | .shai d a s => 0x20020000 + d * 4194304 + a * 262144 + s
  | .lih d i => 0x24000000 + d * 4194304 + i
  | .cmpi d a c i => 0x28000000 + d * 4194304 + a * 262144 + c * 16384 + i
  | .fadd d a b r => 0x2C000000 + d * 4194304 + a * 262144 + b * 16384 + r
  | .fsub d a b r => 0x2C000040 + d * 4194304 + a * 262144 + b * 16384 + r
  | .fmul d a b r => 0x2C000080 + d * 4194304 + a * 262144 + b * 16384 + r
  | .ffma d a b r => 0x2C0000C0 + d * 4194304 + a * 262144 + b * 16384 + r
  | .fmin d a b => 0x2C000100 + d * 4194304 + a * 262144 + b * 16384
  | .fmax d a b => 0x2C000140 + d * 4194304 + a * 262144 + b * 16384
  | .fcmp d a b c => 0x2C000180 + d * 4194304 + a * 262144 + b * 16384 + c
  | .fcvt d a b t s r => 0x2C000000 + d * 4194304 + a * 262144 + b * 16384 + t * 1024 + s * 64 + r
  | .ld d a w m o => 0x40000000 + d * 4194304 + a * 262144 + w * 65536 + m * 16384 + o
  | .ldN d a w m o => 0x44000000 + d * 4194304 + a * 262144 + w * 65536 + m * 16384 + o
  | .st d a w m o => 0x48000000 + d * 4194304 + a * 262144 + w * 65536 + m * 16384 + o
  | .ldp d a w m o => 0x4C000000 + d * 4194304 + a * 262144 + w * 65536 + m * 16384 + o
  | .stp d a w m o => 0x50000000 + d * 4194304 + a * 262144 + w * 65536 + m * 16384 + o
  | .amoAdd o d a b w r => 0x54000000 + o * 16777216 + d * 65536 + a * 4096 + b * 256 + w * 8 + r
  | .amoMin o d a b w r => 0x54100000 + o * 16777216 + d * 65536 + a * 4096 + b * 256 + w * 8 + r
  | .amoMax o d a b w r => 0x54200000 + o * 16777216 + d * 65536 + a * 4096 + b * 256 + w * 8 + r
  | .amoMinn o d a b w r => 0x54300000 + o * 16777216 + d * 65536 + a * 4096 + b * 256 + w * 8 + r
  | .amoMaxn o d a b w r => 0x54400000 + o * 16777216 + d * 65536 + a * 4096 + b * 256 + w * 8 + r
  | .amoAnd o d a b w r => 0x54500000 + o * 16777216 + d * 65536 + a * 4096 + b * 256 + w * 8 + r
  | .amoOr o d a b w r => 0x54600000 + o * 16777216 + d * 65536 + a * 4096 + b * 256 + w * 8 + r
  | .amoXor o d a b w r => 0x54700000 + o * 16777216 + d * 65536 + a * 4096 + b * 256 + w * 8 + r
  | .amoSwap o d a b w r => 0x54800000 + o * 16777216 + d * 65536 + a * 4096 + b * 256 + w * 8 + r
  | .amoc o d a b c w r => 0x54900000 + o * 16777216 + d * 65536 + a * 4096 + b * 256 + c * 16 + w * 8 + r
  | .amof o d a b r => 0x54A00000 + o * 16777216 + d * 65536 + a * 4096 + b * 256 + r
  | .claim o d a b r => 0x54B00008 + o * 16777216 + d * 65536 + a * 4096 + b * 256 + r
  | .fence r => 0x54F00000 + r
  | .pref a => 0x54F00010 + a * 4096
  | .pgadv a b v => 0x54F00020 + a * 4096 + b * 256 + v
  | .br c a o => 0x60000000 + c * 4194304 + a * 262144 + o
  | .jr a o => 0x63800000 + a * 262144 + o
  | .brc c a o => 0x64000000 + c * 4194304 + a * 262144 + o
  | .jmp o => 0x68000000 + o
  | .call o => 0x6C000000 + o
  | .fork d o => 0x70000000 + d * 4194304 + o
  | .forkr d b => 0x70040000 + d * 4194304 + b * 16384
  | .exit => 0x70080000
  | .yield => 0x700C0000
  | .send d h v t k => 0x70100000 + d * 4194304 + h * 16384 + v * 1024 + t * 64 + k * 32
  | .self d => 0x70140000 + d * 4194304
  | .mode d m => 0x70180000 + d * 4194304 + m
  | .empty m => 0x701C0000 + m
  | .sopen d s e o => 0x74000000 + d * 4194304 + s * 131072 + e * 65536 + o
  | .sclose d => 0x74040000 + d * 4194304
  | .scancel h => 0x74080000 + h * 16384
  | .succeed => 0x740C0000
  | .shield => 0x74100000
  | .unshield => 0x74140000
  | .cpt => 0x74180000
  | .sinfo d h i => 0x741C0000 + d * 4194304 + h * 16384 + i
  | .binitCount a => 0x78000000 + a * 262144
  | .binitBytes a => 0x78000040 + a * 262144
  | .binitLock a => 0x78000080 + a * 262144
  | .bexpect a b => 0x78000200 + a * 262144 + b * 16384
  | .barrive a b => 0x78000240 + a * 262144 + b * 16384
  | .bwait d a => 0x78000400 + d * 4194304 + a * 262144
  | .btest d a => 0x78000440 + d * 4194304 + a * 262144
  | .lock d a => 0x78000600 + d * 4194304 + a * 262144
  | .unlock a => 0x78000640 + a * 262144
  | .waita d a b => 0x78000800 + d * 4194304 + a * 262144 + b * 16384
  | .wakea a b => 0x78000840 + a * 262144 + b * 16384
  | .mend m => 0x7C000000 + m
  | .mendb a => 0x7C040000 + a * 16384
  | .mendm a => 0x7C080000 + a * 16384
  | .fray t k => 0x7C0C0000 + t * 16384 + k * 4096
  | .vadd d a b k t => 0x80000000 + d * 2097152 + a * 65536 + b * 2048 + k * 256 + t * 16
  | .vsub d a b k t => 0x80000001 + d * 2097152 + a * 65536 + b * 2048 + k * 256 + t * 16
  | .vmul d a b k t => 0x80000002 + d * 2097152 + a * 65536 + b * 2048 + k * 256 + t * 16
  | .vmin d a b k t => 0x80000003 + d * 2097152 + a * 65536 + b * 2048 + k * 256 + t * 16
  | .vmax d a b k t => 0x80000004 + d * 2097152 + a * 65536 + b * 2048 + k * 256 + t * 16
  | .vabs d a k t => 0x80000005 + d * 2097152 + a * 65536 + k * 256 + t * 16
  | .vneg d a k t => 0x80000006 + d * 2097152 + a * 65536 + k * 256 + t * 16
  | .vfma d a b k t => 0x84000000 + d * 2097152 + a * 65536 + b * 2048 + k * 256 + t * 16
  | .vfms d a b k t => 0x84000001 + d * 2097152 + a * 65536 + b * 2048 + k * 256 + t * 16
  | .vand d a b k t => 0x88000000 + d * 2097152 + a * 65536 + b * 2048 + k * 256 + t * 16
  | .vor d a b k t => 0x88000001 + d * 2097152 + a * 65536 + b * 2048 + k * 256 + t * 16
  | .vxor d a b k t => 0x88000002 + d * 2097152 + a * 65536 + b * 2048 + k * 256 + t * 16
  | .vshl d a b k t => 0x88000003 + d * 2097152 + a * 65536 + b * 2048 + k * 256 + t * 16
  | .vshr d a b k t => 0x88000004 + d * 2097152 + a * 65536 + b * 2048 + k * 256 + t * 16
  | .vsha d a b k t => 0x88000005 + d * 2097152 + a * 65536 + b * 2048 + k * 256 + t * 16
  | .vsel d a b k t => 0x88000006 + d * 2097152 + a * 65536 + b * 2048 + k * 256 + t * 16
  | .vcmp d a b k t c => 0x8C000000 + d * 2097152 + a * 65536 + b * 2048 + k * 256 + t * 16 + c
  | .vcvt d a b k t s => 0x90000000 + d * 2097152 + a * 65536 + b * 2048 + k * 256 + t * 16 + s
  | .vlog2 d a k t => 0x94000000 + d * 2097152 + a * 65536 + k * 256 + t * 16
  | .vexp2 d a k t => 0x94000001 + d * 2097152 + a * 65536 + k * 256 + t * 16
  | .vrcp d a k t => 0x94000002 + d * 2097152 + a * 65536 + k * 256 + t * 16
  | .vrsq d a k t => 0x94000003 + d * 2097152 + a * 65536 + k * 256 + t * 16
  | .vsqrt d a k t => 0x94000004 + d * 2097152 + a * 65536 + k * 256 + t * 16
  | .vredSum d a k t => 0x98000000 + d * 2097152 + a * 65536 + k * 256 + t * 16
  | .vredMax d a k t => 0x98000001 + d * 2097152 + a * 65536 + k * 256 + t * 16
  | .vredMin d a k t => 0x98000002 + d * 2097152 + a * 65536 + k * 256 + t * 16
  | .vredMaxi d a k t => 0x98000003 + d * 2097152 + a * 65536 + k * 256 + t * 16
  | .vredMini d a k t => 0x98000004 + d * 2097152 + a * 65536 + k * 256 + t * 16
  | .vscanSum d a k t => 0x98000008 + d * 2097152 + a * 65536 + k * 256 + t * 16
  | .vscanMax d a k t => 0x98000009 + d * 2097152 + a * 65536 + k * 256 + t * 16
  | .vscanMin d a k t => 0x9800000A + d * 2097152 + a * 65536 + k * 256 + t * 16
  | .vperm d a b k t => 0x9C000000 + d * 2097152 + a * 65536 + b * 2048 + k * 256 + t * 16
  | .vpermX2 d a b k t => 0x9C000001 + d * 2097152 + a * 65536 + b * 2048 + k * 256 + t * 16
  | .vshuf d a b k t => 0x9C000002 + d * 2097152 + a * 65536 + b * 2048 + k * 256 + t * 16
  | .vbcast d a k t => 0x9C000003 + d * 2097152 + a * 65536 + k * 256 + t * 16
  | .vmov d a k t => 0x9C000004 + d * 2097152 + a * 65536 + k * 256 + t * 16
  | .vmovX2 d a k t => 0x9C000005 + d * 2097152 + a * 65536 + k * 256 + t * 16
  | .vmovX4 d a k t => 0x9C000006 + d * 2097152 + a * 65536 + k * 256 + t * 16
  | .vins d a b t => 0x9C000007 + d * 2097152 + a * 65536 + b * 2048 + t * 16
  | .vext d a b t => 0x9C000008 + d * 2097152 + a * 65536 + b * 2048 + t * 16
  | .vld d a k t s => 0xA0000000 + d * 2097152 + a * 65536 + k * 256 + t * 16 + s * 2
  | .vst d a k t s => 0xA0000001 + d * 2097152 + a * 65536 + k * 256 + t * 16 + s * 2
  | .vstBnd d a b k t s => 0xA0000009 + d * 2097152 + a * 65536 + b * 2048 + k * 256 + t * 16 + s * 2
  | .vlds d a b k t s => 0xA4000000 + d * 2097152 + a * 65536 + b * 2048 + k * 256 + t * 16 + s * 2
  | .vsts d a b k t s => 0xA4000001 + d * 2097152 + a * 65536 + b * 2048 + k * 256 + t * 16 + s * 2
  | .vgath d a b k t s => 0xA8000000 + d * 2097152 + a * 65536 + b * 2048 + k * 256 + t * 16 + s * 2
  | .vscat d a b k t s => 0xA8000001 + d * 2097152 + a * 65536 + b * 2048 + k * 256 + t * 16 + s * 2
  | .kand d a b => 0xAC000000 + d * 2097152 + a * 65536 + b * 2048
  | .kor d a b => 0xAC000001 + d * 2097152 + a * 65536 + b * 2048
  | .kxor d a b => 0xAC000002 + d * 2097152 + a * 65536 + b * 2048
  | .knot d a => 0xAC000003 + d * 2097152 + a * 65536
  | .kmov d a => 0xAC000004 + d * 2097152 + a * 65536
  | .kmovG d a b => 0xAC000005 + d * 2097152 + a * 65536 + b * 2048
  | .kmovLo d a => 0xAC000006 + d * 2097152 + a * 65536
  | .kmovHi d a => 0xAC000007 + d * 2097152 + a * 65536
  | .kpop d a => 0xAC000008 + d * 2097152 + a * 65536
  | .mma s t c a b p => 0xB0000000 + s * 2097152 + t * 131072 + c * 8192 + a * 512 + b * 32 + p * 16
  | .mmas s t c a b p => 0xB4000000 + s * 2097152 + t * 131072 + c * 8192 + a * 512 + b * 32 + p * 16
  | .mmag s t c a b p v => 0xB8000000 + s * 2097152 + t * 131072 + c * 8192 + a * 512 + b * 32 + p * 16 + v
  | .mxs c a b p => 0xBC000000 + c * 8192 + a * 512 + b * 32 + p
  | .mzero c => 0xC0000000 + c * 8192
  | .mrd r c a v => 0xC0200000 + r * 131072 + c * 8192 + a * 512 + v
  | .mwr r c a v => 0xC0400000 + r * 131072 + c * 8192 + a * 512 + v
  | .ldt t a b w => 0xC0600000 + t * 131072 + a * 512 + b * 32 + w
  | .mslot a => 0xC0800000 + a * 512
  | .copy x r d a b c => 0xC8000000 + x * 33554432 + r * 4194304 + d * 65536 + a * 4096 + b * 256 + c * 16
  | .copyT x r d a b c => 0xC8100000 + x * 33554432 + r * 4194304 + d * 65536 + a * 4096 + b * 256 + c * 16
  | .copyTag x r d a b c q => 0xC8200000 + x * 33554432 + r * 4194304 + d * 65536 + a * 4096 + b * 256 + c * 16 + q
  | .selp x r a => 0xCC000000 + x * 33554432 + r * 4194304 + a * 4096
  | .selk x r a => 0xCC100000 + x * 33554432 + r * 4194304 + a * 4096
  | .selr x r a => 0xCC200000 + x * 33554432 + r * 4194304 + a * 4096
  | .nop => 0xE8000000
  | .trap n => 0xE8000040 + n
  | .bkpt n => 0xE8000080 + n
  | .time d => 0xE8000200 + d * 4194304
  | .ctlr d n => 0xE8000240 + d * 4194304 + n
  | .ctlw a n => 0xE8000280 + a * 262144 + n
  | .snap => 0xE80002C0
  | .bndset a b m r => 0xE8000400 + a * 262144 + b * 16384 + m * 16 + r
  | .gangEnter a => 0xE8000600 + a * 262144
  | .gangExit => 0xE8000640
  | .atVcc a => 0xE8000680 + a * 262144
  | .klaunch d a b => 0xE8000800 + d * 4194304 + a * 262144 + b * 16384
  | .pair i j => 0xF8000000 + i * 65536 + j * 64
  | .hintImm x => 0xFC000000 + x
  | .hintLat l => 0xFD000000 + l
  | .hintMod s p r => 0xFD400000 + s * 256 + p * 8 + r
  | .loadDataReturn _ => 0
  | .remoteScratchpadRequest _ => 0
  | .bankRetentionEntry _ _ => 0
  | .bankRetentionExit _ _ => 0
  | .retentionTransitionDone _ _ => 0
  | .regionSaveDone _ => 0
  | .regionRestoreDone _ => 0
  | .recordPop _ _ => 0
  | .recordSteal _ _ => 0
  | .strandSetupDone _ => 0
  | .migrationDepart _ => 0
  | .migrationArrival _ => 0
  | .arrivalQueueTake _ _ => 0
  | .strandRetire _ => 0
  | .messageArrival _ => 0
  | .sendAckReturn _ => 0
  | .eagerCountExpiry _ => 0
  | .shareReturn _ => 0
  | .borrowRequest _ => 0
  | .borrowGrant _ => 0
  | .cancelArrival _ => 0
  | .childLinkArrival _ => 0
  | .barrierHomeOperation _ => 0
  | .bwaitReply _ => 0
  | .lockGrant _ => 0
  | .engineBarrierProbe _ => 0
  | .engineArrival _ => 0
  | .donationEvent _ _ => 0
  | .waitaPoll _ => 0
  | .crossDieWriteApply _ => 0
  | .d2dFlitRetry _ => 0
  | .packageFault _ => 0
  | .fenceDrainComplete _ => 0
  | .gangLoadDue _ => 0
  | .atTargetReached _ => 0
  | .gangPauseTimeout _ => 0
  | .gangRendezvousTimeout _ => 0
  | .mvuDispatchOpportunity _ => 0
  | .mvuOperationDone _ => 0
  | .mmagGroupStepDone _ => 0
  | .copyOperationStart _ => 0
  | .copyProgress _ => 0
  | .copyComplete _ => 0
  | .copyFail _ => 0
  | .copyStop _ _ => 0
  | .afterPredecessorsEnded _ => 0
  | .engineFaultPark _ => 0
  | .faultReplay _ => 0
  | .atomicAtHome _ => 0
  | .atomicResultReturn _ => 0
  | .claimStageArrival _ => 0
  | .claimCombineTimeout _ => 0
  | .claimReplySplit _ => 0
  | .selectionRequestStart _ => 0
  | .selectionPieceScan _ _ => 0
  | .selectionPartialArrival _ _ => 0
  | .selectionOutputWrite _ => 0
  | .selectionFail _ => 0
  | .selectionStop _ => 0
  | .rowRemap _ _ _ => 0
  | .rowRemapDone _ _ => 0
  | .hbmScrubPass _ => 0
  | .sramScrubPass _ => 0
  | .pageWalk _ => 0
  | .pageFaultRequest _ => 0
  | .pageRepairDone _ _ _ => 0
  | .repairWake _ => 0
  | .pageMigrationStart _ _ _ => 0
  | .pageMigrationCopyEnd _ _ => 0
  | .pageSpill _ _ => 0
  | .pageAdviceEvent _ _ => 0
  | .shootdown _ _ _ => 0
  | .shootdownComplete _ _ => 0
  | .meshInterrupt _ => 0
  | .preemptRelease _ => 0
  | .imageResume _ _ _ => 0
  | .quantumExpiry _ => 0
  | .segmentInterrupt _ => 0
  | .define _ _ => 0
  | .setseg _ _ _ => 0
  | .setprio _ _ _ _ => 0
  | .suspend _ _ => 0
  | .resume _ _ => 0
  | .teardown _ _ => 0
  | .mendroot _ _ => 0
  | .keyset _ _ _ => 0
  | .load _ _ _ => 0
  | .kernelPinningDone _ _ => 0
  | .unload _ _ _ => 0
  | .kernelRootClose _ _ => 0
  | .create _ _ => 0
  | .destroy _ _ => 0
  | .resumeq _ _ _ => 0
  | .queueWakeWrite _ _ => 0
  | .queueMapDone _ => 0
  | .queuePageInDone _ => 0
  | .queueWaitEvictTimeout _ => 0
  | .queuePageOut _ => 0
  | .queueLaunch _ => 0
  | .queueCopy _ => 0
  | .queueSignal _ => 0
  | .queueWait _ => 0
  | .queueTimestamp _ => 0
  | .queueWaitSatisfied _ _ => 0
  | .queueCommandComplete _ _ => 0
  | .map _ _ _ _ => 0
  | .leaf _ _ _ => 0
  | .logread _ _ => 0
  | .quiesce _ _ => 0
  | .unquiesce _ _ => 0
  | .retrain _ _ => 0
  | .route _ _ _ => 0
  | .step _ _ => 0
  | .powerStepSettled => 0
  | .arm _ _ => 0
  | .release _ => 0
  | .mailboxUnknownCode _ _ _ => 0
  | .registerWrite _ _ _ => 0
  | .snapPin => 0
  | .mgmtSnapshotTrigger => 0
  | .reset => 0
  | .bootStepDone _ _ => 0
  | .journalCommit => 0
  | .powerFail => 0
  | .powerFailDrainDone => 0
  | .flitReceive _ _ => 0
  | .laneRemoval _ => 0
  | .portRetryLimit _ => 0
  | .portSilenceTimeout _ => 0
  | .portTrainingDone _ _ => 0
  | .pathReopen _ => 0
  | .frayNotice _ => 0
  | .proxyCancel _ => 0
  | .hostLinkDown => 0
  | .illegalInstruction => 0
  | .poisonedInstructionFetch _ => 0
  | .targetFetchSegmentTrap => 0
  | .imageGiven _ _ => 0

/-- Whether a constructor is an instruction word (a row of the opcode map, R66) or a step of the device. -/
def isWord : Instr → Bool
  | .add _ _ _ => true
  | .sub _ _ _ => true
  | .mul _ _ _ => true
  | .mulh _ _ _ => true
  | .mulhn _ _ _ => true
  | .div _ _ _ => true
  | .divn _ _ _ => true
  | .rem _ _ _ => true
  | .remn _ _ _ => true
  | .and _ _ _ => true
  | .or _ _ _ => true
  | .xor _ _ _ => true
  | .andn _ _ _ => true
  | .orn _ _ _ => true
  | .shl _ _ _ => true
  | .shr _ _ _ => true
  | .sha _ _ _ => true
  | .rot _ _ _ => true
  | .min _ _ _ => true
  | .max _ _ _ => true
  | .minn _ _ _ => true
  | .maxn _ _ _ => true
  | .clz _ _ => true
  | .ctz _ _ => true
  | .popc _ _ => true
  | .brev _ _ => true
  | .sel _ _ _ _ => true
  | .mov _ _ => true
  | .addp _ _ _ => true
  | .cmp _ _ _ _ => true
  | .ext _ _ _ _ => true
  | .extn _ _ _ _ => true
  | .ins _ _ _ _ => true
  | .addi _ _ _ => true
  | .andi _ _ _ => true
  | .ori _ _ _ => true
  | .xori _ _ _ => true
  | .shli _ _ _ => true
  | .shri _ _ _ => true
  | .shai _ _ _ => true
  | .lih _ _ => true
  | .cmpi _ _ _ _ => true
  | .fadd _ _ _ _ => true
  | .fsub _ _ _ _ => true
  | .fmul _ _ _ _ => true
  | .ffma _ _ _ _ => true
  | .fmin _ _ _ => true
  | .fmax _ _ _ => true
  | .fcmp _ _ _ _ => true
  | .fcvt _ _ _ _ _ _ => true
  | .ld _ _ _ _ _ => true
  | .ldN _ _ _ _ _ => true
  | .st _ _ _ _ _ => true
  | .ldp _ _ _ _ _ => true
  | .stp _ _ _ _ _ => true
  | .amoAdd _ _ _ _ _ _ => true
  | .amoMin _ _ _ _ _ _ => true
  | .amoMax _ _ _ _ _ _ => true
  | .amoMinn _ _ _ _ _ _ => true
  | .amoMaxn _ _ _ _ _ _ => true
  | .amoAnd _ _ _ _ _ _ => true
  | .amoOr _ _ _ _ _ _ => true
  | .amoXor _ _ _ _ _ _ => true
  | .amoSwap _ _ _ _ _ _ => true
  | .amoc _ _ _ _ _ _ _ => true
  | .amof _ _ _ _ _ => true
  | .claim _ _ _ _ _ => true
  | .fence _ => true
  | .pref _ => true
  | .pgadv _ _ _ => true
  | .br _ _ _ => true
  | .jr _ _ => true
  | .brc _ _ _ => true
  | .jmp _ => true
  | .call _ => true
  | .fork _ _ => true
  | .forkr _ _ => true
  | .exit => true
  | .yield => true
  | .send _ _ _ _ _ => true
  | .self _ => true
  | .mode _ _ => true
  | .empty _ => true
  | .sopen _ _ _ _ => true
  | .sclose _ => true
  | .scancel _ => true
  | .succeed => true
  | .shield => true
  | .unshield => true
  | .cpt => true
  | .sinfo _ _ _ => true
  | .binitCount _ => true
  | .binitBytes _ => true
  | .binitLock _ => true
  | .bexpect _ _ => true
  | .barrive _ _ => true
  | .bwait _ _ => true
  | .btest _ _ => true
  | .lock _ _ => true
  | .unlock _ => true
  | .waita _ _ _ => true
  | .wakea _ _ => true
  | .mend _ => true
  | .mendb _ => true
  | .mendm _ => true
  | .fray _ _ => true
  | .vadd _ _ _ _ _ => true
  | .vsub _ _ _ _ _ => true
  | .vmul _ _ _ _ _ => true
  | .vmin _ _ _ _ _ => true
  | .vmax _ _ _ _ _ => true
  | .vabs _ _ _ _ => true
  | .vneg _ _ _ _ => true
  | .vfma _ _ _ _ _ => true
  | .vfms _ _ _ _ _ => true
  | .vand _ _ _ _ _ => true
  | .vor _ _ _ _ _ => true
  | .vxor _ _ _ _ _ => true
  | .vshl _ _ _ _ _ => true
  | .vshr _ _ _ _ _ => true
  | .vsha _ _ _ _ _ => true
  | .vsel _ _ _ _ _ => true
  | .vcmp _ _ _ _ _ _ => true
  | .vcvt _ _ _ _ _ _ => true
  | .vlog2 _ _ _ _ => true
  | .vexp2 _ _ _ _ => true
  | .vrcp _ _ _ _ => true
  | .vrsq _ _ _ _ => true
  | .vsqrt _ _ _ _ => true
  | .vredSum _ _ _ _ => true
  | .vredMax _ _ _ _ => true
  | .vredMin _ _ _ _ => true
  | .vredMaxi _ _ _ _ => true
  | .vredMini _ _ _ _ => true
  | .vscanSum _ _ _ _ => true
  | .vscanMax _ _ _ _ => true
  | .vscanMin _ _ _ _ => true
  | .vperm _ _ _ _ _ => true
  | .vpermX2 _ _ _ _ _ => true
  | .vshuf _ _ _ _ _ => true
  | .vbcast _ _ _ _ => true
  | .vmov _ _ _ _ => true
  | .vmovX2 _ _ _ _ => true
  | .vmovX4 _ _ _ _ => true
  | .vins _ _ _ _ => true
  | .vext _ _ _ _ => true
  | .vld _ _ _ _ _ => true
  | .vst _ _ _ _ _ => true
  | .vstBnd _ _ _ _ _ _ => true
  | .vlds _ _ _ _ _ _ => true
  | .vsts _ _ _ _ _ _ => true
  | .vgath _ _ _ _ _ _ => true
  | .vscat _ _ _ _ _ _ => true
  | .kand _ _ _ => true
  | .kor _ _ _ => true
  | .kxor _ _ _ => true
  | .knot _ _ => true
  | .kmov _ _ => true
  | .kmovG _ _ _ => true
  | .kmovLo _ _ => true
  | .kmovHi _ _ => true
  | .kpop _ _ => true
  | .mma _ _ _ _ _ _ => true
  | .mmas _ _ _ _ _ _ => true
  | .mmag _ _ _ _ _ _ _ => true
  | .mxs _ _ _ _ => true
  | .mzero _ => true
  | .mrd _ _ _ _ => true
  | .mwr _ _ _ _ => true
  | .ldt _ _ _ _ => true
  | .mslot _ => true
  | .copy _ _ _ _ _ _ => true
  | .copyT _ _ _ _ _ _ => true
  | .copyTag _ _ _ _ _ _ _ => true
  | .selp _ _ _ => true
  | .selk _ _ _ => true
  | .selr _ _ _ => true
  | .nop => true
  | .trap _ => true
  | .bkpt _ => true
  | .time _ => true
  | .ctlr _ _ => true
  | .ctlw _ _ => true
  | .snap => true
  | .bndset _ _ _ _ => true
  | .gangEnter _ => true
  | .gangExit => true
  | .atVcc _ => true
  | .klaunch _ _ _ => true
  | .pair _ _ => true
  | .hintImm _ => true
  | .hintLat _ => true
  | .hintMod _ _ _ => true
  | .loadDataReturn _ => false
  | .remoteScratchpadRequest _ => false
  | .bankRetentionEntry _ _ => false
  | .bankRetentionExit _ _ => false
  | .retentionTransitionDone _ _ => false
  | .regionSaveDone _ => false
  | .regionRestoreDone _ => false
  | .recordPop _ _ => false
  | .recordSteal _ _ => false
  | .strandSetupDone _ => false
  | .migrationDepart _ => false
  | .migrationArrival _ => false
  | .arrivalQueueTake _ _ => false
  | .strandRetire _ => false
  | .messageArrival _ => false
  | .sendAckReturn _ => false
  | .eagerCountExpiry _ => false
  | .shareReturn _ => false
  | .borrowRequest _ => false
  | .borrowGrant _ => false
  | .cancelArrival _ => false
  | .childLinkArrival _ => false
  | .barrierHomeOperation _ => false
  | .bwaitReply _ => false
  | .lockGrant _ => false
  | .engineBarrierProbe _ => false
  | .engineArrival _ => false
  | .donationEvent _ _ => false
  | .waitaPoll _ => false
  | .crossDieWriteApply _ => false
  | .d2dFlitRetry _ => false
  | .packageFault _ => false
  | .fenceDrainComplete _ => false
  | .gangLoadDue _ => false
  | .atTargetReached _ => false
  | .gangPauseTimeout _ => false
  | .gangRendezvousTimeout _ => false
  | .mvuDispatchOpportunity _ => false
  | .mvuOperationDone _ => false
  | .mmagGroupStepDone _ => false
  | .copyOperationStart _ => false
  | .copyProgress _ => false
  | .copyComplete _ => false
  | .copyFail _ => false
  | .copyStop _ _ => false
  | .afterPredecessorsEnded _ => false
  | .engineFaultPark _ => false
  | .faultReplay _ => false
  | .atomicAtHome _ => false
  | .atomicResultReturn _ => false
  | .claimStageArrival _ => false
  | .claimCombineTimeout _ => false
  | .claimReplySplit _ => false
  | .selectionRequestStart _ => false
  | .selectionPieceScan _ _ => false
  | .selectionPartialArrival _ _ => false
  | .selectionOutputWrite _ => false
  | .selectionFail _ => false
  | .selectionStop _ => false
  | .rowRemap _ _ _ => false
  | .rowRemapDone _ _ => false
  | .hbmScrubPass _ => false
  | .sramScrubPass _ => false
  | .pageWalk _ => false
  | .pageFaultRequest _ => false
  | .pageRepairDone _ _ _ => false
  | .repairWake _ => false
  | .pageMigrationStart _ _ _ => false
  | .pageMigrationCopyEnd _ _ => false
  | .pageSpill _ _ => false
  | .pageAdviceEvent _ _ => false
  | .shootdown _ _ _ => false
  | .shootdownComplete _ _ => false
  | .meshInterrupt _ => false
  | .preemptRelease _ => false
  | .imageResume _ _ _ => false
  | .quantumExpiry _ => false
  | .segmentInterrupt _ => false
  | .define _ _ => false
  | .setseg _ _ _ => false
  | .setprio _ _ _ _ => false
  | .suspend _ _ => false
  | .resume _ _ => false
  | .teardown _ _ => false
  | .mendroot _ _ => false
  | .keyset _ _ _ => false
  | .load _ _ _ => false
  | .kernelPinningDone _ _ => false
  | .unload _ _ _ => false
  | .kernelRootClose _ _ => false
  | .create _ _ => false
  | .destroy _ _ => false
  | .resumeq _ _ _ => false
  | .queueWakeWrite _ _ => false
  | .queueMapDone _ => false
  | .queuePageInDone _ => false
  | .queueWaitEvictTimeout _ => false
  | .queuePageOut _ => false
  | .queueLaunch _ => false
  | .queueCopy _ => false
  | .queueSignal _ => false
  | .queueWait _ => false
  | .queueTimestamp _ => false
  | .queueWaitSatisfied _ _ => false
  | .queueCommandComplete _ _ => false
  | .map _ _ _ _ => false
  | .leaf _ _ _ => false
  | .logread _ _ => false
  | .quiesce _ _ => false
  | .unquiesce _ _ => false
  | .retrain _ _ => false
  | .route _ _ _ => false
  | .step _ _ => false
  | .powerStepSettled => false
  | .arm _ _ => false
  | .release _ => false
  | .mailboxUnknownCode _ _ _ => false
  | .registerWrite _ _ _ => false
  | .snapPin => false
  | .mgmtSnapshotTrigger => false
  | .reset => false
  | .bootStepDone _ _ => false
  | .journalCommit => false
  | .powerFail => false
  | .powerFailDrainDone => false
  | .flitReceive _ _ => false
  | .laneRemoval _ => false
  | .portRetryLimit _ => false
  | .portSilenceTimeout _ => false
  | .portTrainingDone _ _ => false
  | .pathReopen _ => false
  | .frayNotice _ => false
  | .proxyCancel _ => false
  | .hostLinkDown => false
  | .illegalInstruction => false
  | .poisonedInstructionFetch _ => false
  | .targetFetchSegmentTrap => false
  | .imageGiven _ _ => false

/-- The words of an instruction: one word, or none for a step of the device. -/
def encode (i : Instr) : List Nat := if isWord i then [encodeWord i] else []

/-- The bytes of an instruction in memory, little-endian (R61). -/
def encodeBytes (i : Instr) : List Byte := (encode i).flatMap (leBytes 4)

end Sys2Proof
end

