-- ==== Sys2Proof/Machine/Float.lean ====
section
/-! DEFINITION. Scalar floating point (R105 to R107). -/

namespace Sys2Proof.Machine

/-- The FP32 operand of a register: bits [31:0] (R105). -/
def Strand.f32 (k : Strand) (r : Nat) : Nat := k.nat r % 2 ^ 32

/-- `FADD` (R105). -/
def execFadd (d a b r : Nat) (s : State) : Out :=
  fpu (.fadd d a b r) d [a, b] (fun k => Fp.add Fp.fp32 r (k.f32 a) (k.f32 b)) s

/-- `FSUB` (R105). -/
def execFsub (d a b r : Nat) (s : State) : Out :=
  fpu (.fsub d a b r) d [a, b] (fun k => Fp.sub Fp.fp32 r (k.f32 a) (k.f32 b)) s

/-- `FMUL` (R105). -/
def execFmul (d a b r : Nat) (s : State) : Out :=
  fpu (.fmul d a b r) d [a, b] (fun k => Fp.mul Fp.fp32 r (k.f32 a) (k.f32 b)) s

/-- `FFMA` (R105): g[a] * g[b] + g[d]. -/
def execFfma (d a b r : Nat) (s : State) : Out :=
  fpu (.ffma d a b r) d [a, b, d] (fun k => Fp.fma Fp.fp32 r false (k.f32 a) (k.f32 b) (k.f32 d)) s

/-- `FMIN` (R105). -/
def execFmin (d a b : Nat) (s : State) : Out :=
  fpu (.fmin d a b) d [a, b] (fun k => minMaxFp Fp.fp32 false (k.f32 a) (k.f32 b)) s

/-- `FMAX` (R105). -/
def execFmax (d a b : Nat) (s : State) : Out :=
  fpu (.fmax d a b) d [a, b] (fun k => minMaxFp Fp.fp32 true (k.f32 a) (k.f32 b)) s

/-- `FCMP.cc` (R106). -/
def execFcmp (d a b c : Nat) (s : State) : Out :=
  fpu (.fcmp d a b c) d [a, b]
    (fun k => let r := condFp Fp.fp32 c (k.f32 a) (k.f32 b); (r.1.toNat, r.2)) s

/-- The format of a floating type code (Table 03-1). -/
def fmtOf (t : Nat) : Fp.Fmt := match t with
  | 9 => Fp.fp16
  | 10 => Fp.bf16
  | _ => Fp.fp32

/-- An integer operand read in a type (R107). -/
def intOf (t x : Nat) : Int :=
  if isSignedType t then signed (typeWidth t) x else (x % 2 ^ typeWidth t : Nat)

/-- A conversion between two element values (R44 to R46): bits of the destination type's width. -/
def convertElem (dst src mode rho x : Nat) : Nat × Fp.Flags :=
  if isFloatType src then
    let y := x % 2 ^ typeWidth src
    if isFloatType dst then Fp.convert (fmtOf src) (fmtOf dst) mode rho y
    else
      let r := Fp.toInt mode rho (typeWidth dst) (isSignedType dst) (Fp.value (fmtOf src) y)
      (unsigned (typeWidth dst) r.1, r.2)
  else Fp.ofInteger (fmtOf dst) mode rho (intOf src x)

/-- `FCVT` (R107): an I32 result is sign-extended, every other result zero-extended. -/
def execFcvt (d a b t ty r : Nat) (s : State) : Out :=
  fpu (.fcvt d a b t ty r) d (if r = 4 then [a, b] else [a])
    (fun k =>
      let x := convertElem t ty r (k.nat b % 2 ^ 16) (k.nat a)
      (if t = 2 then (unsigned 64 (signed 32 x.1), x.2) else x)) s

end Sys2Proof.Machine
end

