-- ==== Sys2Proof/Machine/Vector.lean ====
section
/-! DEFINITION. Vector arithmetic, conversions, reductions and moves (R246 to R261), and mask instructions (R268). -/

namespace Sys2Proof.Machine

/-! ### The common lane rule (R246) -/

/-- The lanes of chunk `c`. -/
def chunkLanes (t c : Nat) : List Nat :=
  let m := 64 / typeWidth t
  (List.range m).map (c * m + ·)

/-- A register whose active lanes take results and whose other lanes keep their data, with the chunk rule (R246). -/
def mergeLanes (z : VReg) (t : Nat) (act : Nat → Bool) (val : Nat → Nat) (fr : Nat → Bool) (code : Option Code) : VReg :=
  let n := lanes t
  let data := packLanes (typeWidth t) n fun i => if act i then val i else lane z t i
  let fray := packFrays fun c =>
    (chunkLanes t c).any fun i => if act i then fr i else chunkFrayed z c
  let some_ := (List.range n).any fun i => act i && fr i
  ⟨BitVec.ofNat 1024 data, fray, if some_ then code.getD 0 else if fray = 0 then 0 else z.code⟩

/-- The issuer tainted by the first frayed source, when one is (R246, R349). -/
def Strand.taintBy (k : Strand) : Option Code → Strand
  | some c => k.taint c
  | none => k

/-- Whether some active lane of a source is frayed. -/
def someLane (t : Nat) (act : Nat → Bool) (x : VReg) : Bool :=
  (List.range (lanes t)).any fun i => act i && laneFrayed x t i

/-- Whether some lane is active. -/
def someActive (t : Nat) (act : Nat → Bool) : Bool := (List.range (lanes t)).any act

/-- The flags of the active lanes that no frayed source reached (R48). -/
def laneFlags (t : Nat) (act fr : Nat → Bool) (fl : Nat → Fp.Flags) : Fp.Flags :=
  (List.range (lanes t)).foldl (fun acc i => if act i && !fr i then acc ||| fl i else acc) 0

/-- A lane-wise instruction over va, vb (when `hasB`) and vd (when `readsD`). -/
def lanewise (i : Instr) (d a b m t : Nat) (hasB readsD : Bool)
    (f : Option Nat → Nat → Nat → Nat → Nat × Fp.Flags) (s : State) : Out :=
  issueV i (if hasB then [d, a, b] else [d, a]) [] [] s fun s sid k =>
    let x := k.v a
    let y := k.v b
    let z := k.v d
    let act := active k m t
    let fr := fun i => laneFrayed x t i || (hasB && laneFrayed y t i) || maskFrayed k m || (readsD && laneFrayed z t i)
    let res := fun i => f k.mod (lane x t i) (lane y t i) (lane z t i)
    let code := firstCodeOf [(someLane t act x, x.code), (hasB && someLane t act y, y.code),
      (maskFrayed k m && someActive t act, (k.m m).code), (readsD && someLane t act z, z.code)]
    let k1 := (k.setV d (mergeLanes z t act (fun i => (res i).1) fr code)).taintBy code
    retire s sid (k1.mergeFlags (laneFlags t act fr fun i => (res i).2))

/-- An integer lane's exact result narrowed to its type (R248). -/
def narrow (t : Nat) (sat : Bool) (x : Int) : Nat :=
  let w := typeWidth t
  if sat then
    let lo := Fp.intMin w (isSignedType t)
    let hi := Fp.intMax w (isSignedType t)
    unsigned w (if x < lo then lo else if x > hi then hi else x)
  else unsigned w x

/-- An arithmetic lane: integers exactly, floats by an operation of their format. -/
def arith (t : Nat) (fi : Int → Int → Int → Int) (ff : Fp.Fmt → Nat → Nat → Nat → Nat → Nat × Fp.Flags)
    (mod : Option Nat) (x y z : Nat) : Nat × Fp.Flags :=
  if isFloatType t then ff (fmtOf t) (modRound mod) x y z
  else (narrow t (modSat mod) (fi (intOf t x) (intOf t y) (intOf t z)), 0)

/-- `VADD` (R248, R249). -/
def execVadd (d a b m t : Nat) (s : State) : Out :=
  lanewise (.vadd d a b m t) d a b m t true false
    (arith t (fun x y _ => x + y) fun f r x y _ => Fp.add f r x y) s

/-- `VSUB` (R248, R249). -/
def execVsub (d a b m t : Nat) (s : State) : Out :=
  lanewise (.vsub d a b m t) d a b m t true false
    (arith t (fun x y _ => x - y) fun f r x y _ => Fp.sub f r x y) s

/-- `VMUL` (R248, R249). -/
def execVmul (d a b m t : Nat) (s : State) : Out :=
  lanewise (.vmul d a b m t) d a b m t true false
    (arith t (fun x y _ => x * y) fun f r x y _ => Fp.mul f r x y) s

/-- `VMIN` (R248, R249). -/
def execVmin (d a b m t : Nat) (s : State) : Out :=
  lanewise (.vmin d a b m t) d a b m t true false
    (arith t (fun x y _ => if x ≤ y then x else y) fun f _ x y _ => minMaxFp f false x y) s

/-- `VMAX` (R248, R249). -/
def execVmax (d a b m t : Nat) (s : State) : Out :=
  lanewise (.vmax d a b m t) d a b m t true false
    (arith t (fun x y _ => if x ≥ y then x else y) fun f _ x y _ => minMaxFp f true x y) s

/-- A sign operation of a floating lane (R249): a NaN gives the canonical NaN, and NV when it is signalling. -/
def signOp (f : Fp.Fmt) (g : Nat → Nat) (x : Nat) : Nat × Fp.Flags :=
  if Fp.isNaN (Fp.value f x) then (Fp.canonNaN f, Fp.nvOf (Fp.value f x)) else (g x, 0)

/-- `VABS` (R248, R249). -/
def execVabs (d a m t : Nat) (s : State) : Out :=
  lanewise (.vabs d a m t) d a 0 m t false false
    (arith t (fun x _ _ => x.natAbs) fun f _ x _ _ => signOp f (fun x => x % Fp.signBit f) x) s

/-- `VNEG` (R248, R249). -/
def execVneg (d a m t : Nat) (s : State) : Out :=
  lanewise (.vneg d a m t) d a 0 m t false false
    (arith t (fun x _ _ => -x) fun f _ x _ _ =>
      signOp f (fun x => if bitOf x (f.frac + f.eb) then x - Fp.signBit f else x + Fp.signBit f) x) s

/-- `VFMA` (R248, R249). -/
def execVfma (d a b m t : Nat) (s : State) : Out :=
  lanewise (.vfma d a b m t) d a b m t true true
    (arith t (fun x y z => x * y + z) fun f r x y z => Fp.fma f r false x y z) s

/-- `VFMS` (R248, R249). -/
def execVfms (d a b m t : Nat) (s : State) : Out :=
  lanewise (.vfms d a b m t) d a b m t true true
    (arith t (fun x y z => x * y - z) fun f r x y z => Fp.fma f r true x y z) s

/-- A lane computed on its bits (R250). -/
def bitLane (f : Nat → Nat → Nat) (_ : Option Nat) (x y _ : Nat) : Nat × Fp.Flags := (f x y, 0)

/-- `VAND` (R250). -/
def execVand (d a b m t : Nat) (s : State) : Out :=
  lanewise (.vand d a b m t) d a b m t true false (bitLane fun x y => x &&& y) s

/-- `VOR` (R250). -/
def execVor (d a b m t : Nat) (s : State) : Out :=
  lanewise (.vor d a b m t) d a b m t true false (bitLane fun x y => x ||| y) s

/-- `VXOR` (R250). -/
def execVxor (d a b m t : Nat) (s : State) : Out :=
  lanewise (.vxor d a b m t) d a b m t true false (bitLane fun x y => x ^^^ y) s

/-- `VSHL` (R250). -/
def execVshl (d a b m t : Nat) (s : State) : Out :=
  lanewise (.vshl d a b m t) d a b m t true false (bitLane fun x y => x * 2 ^ (y % typeWidth t)) s

/-- `VSHR` (R250). -/
def execVshr (d a b m t : Nat) (s : State) : Out :=
  lanewise (.vshr d a b m t) d a b m t true false (bitLane fun x y => x / 2 ^ (y % typeWidth t)) s

/-- `VSHA` (R250). -/
def execVsha (d a b m t : Nat) (s : State) : Out :=
  lanewise (.vsha d a b m t) d a b m t true false
    (bitLane fun x y => unsigned (typeWidth t) (signed (typeWidth t) x / 2 ^ (y % typeWidth t))) s

/-- `VSEL` (R251): every lane is written. -/
def execVsel (d a b m t : Nat) (s : State) : Out :=
  issueV (.vsel d a b m t) [d, a, b] [] [] s fun s sid k =>
    let x := k.v a
    let y := k.v b
    let pick := active k m t
    let fr := fun i => (if pick i then laneFrayed x t i else laneFrayed y t i) || maskFrayed k m
    let code := firstCodeOf [(someLane t pick x, x.code), (someLane t (fun i => !pick i) y, y.code),
      (maskFrayed k m, (k.m m).code)]
    retire s sid ((k.setV d (mergeLanes (k.v d) t (fun _ => true)
      (fun i => if pick i then lane x t i else lane y t i) fr code)).taintBy code)

/-! ### Compare (R252) -/

/-- `VCMP.cc` (R252). -/
def execVcmp (d a b m t c : Nat) (s : State) : Out :=
  issueV (.vcmp d a b m t c) [a, b] [] [] s fun s sid k =>
    let x := k.v a
    let y := k.v b
    let act := active k m t
    let res := fun i =>
      if isFloatType t then condFp (fmtOf t) c (lane x t i) (lane y t i)
      else (condInt (typeWidth t) c (lane x t i) (lane y t i), 0)
    let fr := fun i => laneFrayed x t i || laneFrayed y t i || maskFrayed k m
    let bits := packLanes (typeWidth t / 8) (lanes t) fun i =>
      if act i && (res i).1 then 2 ^ (typeWidth t / 8) - 1 else 0
    let code := firstCodeOf [(someLane t act x, x.code), (someLane t act y, y.code), (maskFrayed k m, (k.m m).code)]
    let k1 := (k.setM d ⟨BitVec.ofNat 128 bits, code.isSome, code.getD 0⟩).taintBy code
    retire s sid (k1.mergeFlags (laneFlags t act fr fun i => (res i).2))

/-! ### Conversions (R253 to R255) -/

/-- The random field of source lane j, and whether its lane is frayed (R42, R253). -/
def rhoOf (y : VReg) (j : Nat) : Nat := field y.data.toNat (16 * j) 16
def rhoFrayed (y : VReg) (j : Nat) : Bool := chunkFrayed y (j / 4)

/-- A conversion between two lane types (R254). -/
def vcvtLanes (d a b m t ty : Nat) (s : State) (sid : Nat) (k : Strand) : Out :=
  let x := k.v a
  let y := k.v b
  let mode := modRound k.mod
  let rs := mode == 4
  let n := Nat.min (lanes t) (lanes ty)
  let act := fun j => decide (n ≤ j) || active k m t j
  let own := fun j => decide (j < n) && active k m t j
  let res := fun j =>
    if n ≤ j then (0, (0 : Fp.Flags))
    else if isIntType t && isIntType ty then (narrow t (modSat k.mod) (intOf ty (lane x ty j)), 0)
    else convertElem t ty mode (rhoOf y j) (lane x ty j)
  let fr := fun j => decide (j < n) &&
    (laneFrayed x ty j || (rs && rhoFrayed y j) || maskFrayed k m)
  let js := (List.range n).filter own
  let code := firstCodeOf [(js.any fun j => laneFrayed x ty j, x.code), (rs && js.any fun j => rhoFrayed y j, y.code),
    (maskFrayed k m && !js.isEmpty, (k.m m).code)]
  let k1 := (k.setV d (mergeLanes (k.v d) t act (fun j => (res j).1) fr code)).taintBy code
  retire s sid (k1.mergeFlags (laneFlags t own fr fun j => (res j).2))

/-- The chunks that hold an SX block in its 32-byte slot (R255). -/
def blockChunks (t b : Nat) : List Nat := (List.range (ceilDiv (Fp.sxBytes t) 8)).map (4 * b + ·)

/-- A conversion of lanes to SX blocks (R255): every slot is written whole. -/
def vcvtToSx (d a b t ty : Nat) (s : State) (sid : Nat) (k : Strand) : Out :=
  let x := k.v a
  let y := k.v b
  let mode := modRound k.mod
  let rs := mode == 4
  let blocks := lanes ty / 16
  let res := (List.range blocks).map fun bl =>
    Fp.toSx t mode ((List.range 16).map fun e => rhoOf y (16 * bl + e))
      ((List.range 16).map fun e => Fp.value (fmtOf ty) (lane x ty (16 * bl + e)))
  let frX := fun bl => (List.range 16).any fun e => laneFrayed x ty (16 * bl + e)
  let frY := fun bl => rs && (List.range 16).any fun e => rhoFrayed y (16 * bl + e)
  let fr := fun bl => frX bl || frY bl
  let code := firstCodeOf [((List.range blocks).any frX, x.code), ((List.range blocks).any frY, y.code)]
  let data := packLanes 256 4 fun bl => (res.getD bl (0, 0)).1
  let fray := packFrays fun c => (List.range blocks).any fun bl => fr bl && (blockChunks t bl).contains c
  let fl := (List.range blocks).foldl (fun acc bl =>
    if fr bl then acc else acc ||| (res.getD bl (0, 0)).2) (0 : Fp.Flags)
  let k1 := (k.setV d ⟨BitVec.ofNat 1024 data, fray, code.getD 0⟩).taintBy code
  retire s sid (k1.mergeFlags fl)

/-- A conversion of SX blocks to lanes (R250, R255). -/
def vcvtFromSx (d a m t ty : Nat) (s : State) (sid : Nat) (k : Strand) : Out :=
  let x := k.v a
  let act := active k m t
  let res := fun j => Fp.deliver (fmtOf t) (modRound k.mod) 0
    (Fp.sxElement ty (field x.data.toNat (256 * (j / 16)) 256) (j % 16))
  let frX := fun j => (blockChunks ty (j / 16)).any fun c => chunkFrayed x c
  let fr := fun j => frX j || maskFrayed k m
  let js := (List.range (lanes t)).filter act
  let code := firstCodeOf [(js.any frX, x.code), (maskFrayed k m && !js.isEmpty, (k.m m).code)]
  let k1 := (k.setV d (mergeLanes (k.v d) t act (fun j => (res j).1) fr code)).taintBy code
  retire s sid (k1.mergeFlags (laneFlags t act fr fun j => (res j).2))

/-- `VCVT` (R253). -/
def execVcvt (d a b m t ty : Nat) (s : State) : Out :=
  issueV (.vcvt d a b m t ty) [d, a, b] [] [] s fun s sid k =>
    if isSxType t then vcvtToSx d a b t ty s sid k
    else if isSxType ty then vcvtFromSx d a m t ty s sid k
    else vcvtLanes d a b m t ty s sid k

/-! ### Transcendental functions (R256) -/

/-- `VLOG2` (R54, R256). -/
def execVlog2 (d a m t : Nat) (s : State) : Out :=
  lanewise (.vlog2 d a m t) d a 0 m t false false (fun md x _ _ => Fp.log2 (fmtOf t) (modRound md) x) s

/-- `VEXP2` (R54, R256). -/
def execVexp2 (d a m t : Nat) (s : State) : Out :=
  lanewise (.vexp2 d a m t) d a 0 m t false false (fun md x _ _ => Fp.exp2 (fmtOf t) (modRound md) x) s

/-- `VRCP` (R54, R256). -/
def execVrcp (d a m t : Nat) (s : State) : Out :=
  lanewise (.vrcp d a m t) d a 0 m t false false (fun md x _ _ => Fp.rcp (fmtOf t) (modRound md) x) s

/-- `VRSQ` (R54, R256). -/
def execVrsq (d a m t : Nat) (s : State) : Out :=
  lanewise (.vrsq d a m t) d a 0 m t false false (fun md x _ _ => Fp.rsqrt (fmtOf t) (modRound md) x) s

/-- `VSQRT` (R54, R256). -/
def execVsqrt (d a m t : Nat) (s : State) : Out :=
  lanewise (.vsqrt d a m t) d a 0 m t false false (fun md x _ _ => Fp.sqrt (fmtOf t) (modRound md) x) s

/-! ### Reductions and scans (R57 to R59, R257, R258) -/

/-- A value on its way through a reduction: its bits and its index. -/
abbrev RedLane := Option (Nat × Nat)

inductive RedKind where
  | sum | max | min | maxi | mini
  deriving DecidableEq, Repr

/-- The winner of two values under R59: its bits and its index. -/
def redIndexed (t : Nat) (max : Bool) (x y : Nat × Nat) : Nat × Nat :=
  let low := if x.2 ≤ y.2 then x else y
  if isFloatType t then
    let a := Fp.value (fmtOf t) x.1
    let b := Fp.value (fmtOf t) y.1
    if Fp.isNaN a && Fp.isNaN b then low
    else if Fp.isNaN a then y
    else if Fp.isNaN b then x
    else
      let c := Fp.compareVal a b
      if c = 0 then low else if (c > 0) = max then x else y
  else
    let a := intOf t x.1
    let b := intOf t y.1
    if a = b then low else if (a > b) = max then x else y

/-- One combine of two present values (R57 to R59), with its flags. -/
def redCombine (kind : RedKind) (t : Nat) (sat : Bool) (x y : Nat × Nat) : (Nat × Nat) × Fp.Flags :=
  match kind with
  | .maxi => (redIndexed t true x y, 0)
  | .mini => (redIndexed t false x y, 0)
  | .sum =>
    if isFloatType t then let r := Fp.add (fmtOf t) 0 x.1 y.1; ((r.1, x.2), r.2)
    else ((narrow t sat (intOf t x.1 + intOf t y.1), x.2), 0)
  | .max =>
    if isFloatType t then (((minMaxFp (fmtOf t) true x.1 y.1).1, x.2), 0)
    else ((if intOf t x.1 ≥ intOf t y.1 then x.1 else y.1, x.2), 0)
  | .min =>
    if isFloatType t then (((minMaxFp (fmtOf t) false x.1 y.1).1, x.2), 0)
    else ((if intOf t x.1 ≤ intOf t y.1 then x.1 else y.1, x.2), 0)

/-- A combine of lanes that may be absent (R58). -/
def redOpt (kind : RedKind) (t : Nat) (sat : Bool) (x y : RedLane) : RedLane × Fp.Flags :=
  match x, y with
  | some a, some b => let r := redCombine kind t sat a b; (some r.1, r.2)
  | some a, none => (some a, 0)
  | none, y => (y, 0)

/-- One level of the tree: lane i with lane i + d (R57). -/
def redLevel (kind : RedKind) (t : Nat) (sat : Bool) (d : Nat) (ls : List RedLane) : List RedLane × Fp.Flags :=
  let rs := (List.range d).map fun i => redOpt kind t sat (ls.getD i none) (ls.getD (i + d) none)
  (rs.map (·.1), rs.foldl (fun acc r => acc ||| r.2) 0)

/-- The levels from d = n / 2 down to 1 (R57). -/
def redTree (kind : RedKind) (t : Nat) (sat : Bool) : Nat → Nat → List RedLane → RedLane × Fp.Flags
  | 0, _, ls => (ls.getD 0 none, 0)
  | fuel + 1, d, ls =>
    if d = 0 then (ls.getD 0 none, 0)
    else
      let r := redLevel kind t sat d ls
      let q := redTree kind t sat fuel (d / 2) r.1
      (q.1, r.2 ||| q.2)

/-- The result of a reduction without an active lane (R58, R59). -/
def redEmpty (kind : RedKind) (t : Nat) : Nat :=
  let w := typeWidth t
  match kind with
  | .sum => 0
  | .max => if isFloatType t then Fp.canonNaN (fmtOf t) else unsigned w (Fp.intMin w (isSignedType t))
  | .maxi => if isFloatType t then Fp.canonNaN (fmtOf t) else unsigned w (Fp.intMin w (isSignedType t))
  | .min => if isFloatType t then Fp.canonNaN (fmtOf t) else unsigned w (Fp.intMax w (isSignedType t))
  | .mini => if isFloatType t then Fp.canonNaN (fmtOf t) else unsigned w (Fp.intMax w (isSignedType t))

/-- A delivered value: every NaN is canonical (R58). -/
def redCanon (t x : Nat) : Nat :=
  if isFloatType t && Fp.isNaN (Fp.value (fmtOf t) x) then Fp.canonNaN (fmtOf t) else x

/-- NV for a signalling NaN among lanes (R39). -/
def redNv (t : Nat) (xs : List Nat) : Fp.Flags :=
  if isFloatType t && xs.any (fun x => Fp.isSignalling (Fp.value (fmtOf t) x)) then Fp.flagNV else 0

/-- `VRED` of any operation (R257). -/
def vred (i : Instr) (kind : RedKind) (d a m t : Nat) (s : State) : Out :=
  issueV i [d, a] [] [] s fun s sid k =>
    let x := k.v a
    let n := lanes t
    let w := typeWidth t
    let act := active k m t
    let ls : List RedLane := (List.range n).map fun i => if act i then some (lane x t i, i) else none
    let r := redTree kind t (modSat k.mod) 10 (n / 2) ls
    let indexed := kind == .maxi || kind == .mini
    let value := match r.1 with
      | some v => redCanon t v.1
      | none => redEmpty kind t
    let index := match r.1 with
      | some v => if isFloatType t && Fp.isNaN (Fp.value (fmtOf t) v.1) then n else v.2
      | none => n
    let data := value + (if indexed then index * 2 ^ (if w = 64 then 64 else 32) else 0)
    let frayed := someLane t act x || maskFrayed k m
    let code := firstCodeOf [(someLane t act x, x.code), (maskFrayed k m, (k.m m).code)]
    let fray : BitVec 16 := if frayed then (if indexed && w == 64 then 3 else 1) else 0
    let k1 := (k.setV d ⟨BitVec.ofNat 1024 data, fray, code.getD 0⟩).taintBy code
    let flags := r.2 ||| redNv t (((List.range n).filter act).map (lane x t))
    retire s sid (if frayed then k1 else k1.mergeFlags flags)

/-- `VRED.sum` (R257). -/
def execVredSum (d a m t : Nat) (s : State) : Out := vred (.vredSum d a m t) .sum d a m t s

/-- `VRED.max` (R257). -/
def execVredMax (d a m t : Nat) (s : State) : Out := vred (.vredMax d a m t) .max d a m t s

/-- `VRED.min` (R257). -/
def execVredMin (d a m t : Nat) (s : State) : Out := vred (.vredMin d a m t) .min d a m t s

/-- `VRED.maxi` (R59, R257). -/
def execVredMaxi (d a m t : Nat) (s : State) : Out := vred (.vredMaxi d a m t) .maxi d a m t s

/-- `VRED.mini` (R59, R257). -/
def execVredMini (d a m t : Nat) (s : State) : Out := vred (.vredMini d a m t) .mini d a m t s

/-- The running combines over lanes in ascending order: for each lane, its value and its flags so far (R258). -/
def scanLanes (kind : RedKind) (t : Nat) (sat : Bool) : List RedLane → RedLane → Fp.Flags → List (Nat × Fp.Flags)
  | [], _, _ => []
  | l :: ls, acc, fl =>
    let r := redOpt kind t sat acc l
    let fl' := fl ||| r.2
    ((match r.1 with
      | some v => redCanon t v.1
      | none => 0), fl') :: scanLanes kind t sat ls r.1 fl'

/-- `VSCAN` of any operation (R258). -/
def vscan (i : Instr) (kind : RedKind) (d a m t : Nat) (s : State) : Out :=
  issueV i [d, a] [] [] s fun s sid k =>
    let x := k.v a
    let n := lanes t
    let act := active k m t
    let ls : List RedLane := (List.range n).map fun i => if act i then some (lane x t i, i) else none
    let rs := scanLanes kind t (modSat k.mod) ls none 0
    let frX := fun i => (List.range (i + 1)).any fun j => act j && laneFrayed x t j
    let fr := fun i => frX i || maskFrayed k m
    let code := firstCodeOf [(someLane t act x, x.code), (maskFrayed k m && someActive t act, (k.m m).code)]
    let k1 := (k.setV d (mergeLanes (k.v d) t act (fun i => (rs.getD i (0, 0)).1) fr code)).taintBy code
    let nv := redNv t (((List.range n).filter fun i => act i && !fr i).map (lane x t))
    retire s sid (k1.mergeFlags (nv ||| laneFlags t act fr fun i => (rs.getD i (0, 0)).2))

/-- `VSCAN.sum` (R258). -/
def execVscanSum (d a m t : Nat) (s : State) : Out := vscan (.vscanSum d a m t) .sum d a m t s

/-- `VSCAN.max` (R258). -/
def execVscanMax (d a m t : Nat) (s : State) : Out := vscan (.vscanMax d a m t) .max d a m t s

/-- `VSCAN.min` (R258). -/
def execVscanMin (d a m t : Nat) (s : State) : Out := vscan (.vscanMin d a m t) .min d a m t s

/-! ### Moving lanes (R259 to R261) -/

/-- A permutation over a table of one or two registers (R259). A lane with an index out of range is zero, and frayed where its index lane
or the mask is; the code is the first frayed source's in the order a, a + 1, b, mask (DESIGN CHOICE: R259 leaves both open, log 90). -/
def vperm (i : Instr) (two : Bool) (d a b m t : Nat) (s : State) : Out :=
  issueV i (if two then [d, a, a + 1, b] else [d, a, b]) [] [] s fun s sid k =>
    let x0 := k.v a
    let x1 := k.v (a + 1)
    let y := k.v b
    let n := lanes t
    let act := active k m t
    let idx := fun i => lane y t i
    let inTable := fun i => decide (idx i < (if two then 2 * n else n))
    let val := fun i =>
      if !inTable i then 0 else if idx i < n then lane x0 t (idx i) else lane x1 t (idx i - n)
    let frT := fun i => inTable i && (if idx i < n then laneFrayed x0 t (idx i) else laneFrayed x1 t (idx i - n))
    let fr := fun i => laneFrayed y t i || frT i || maskFrayed k m
    let js := (List.range n).filter act
    let code := firstCodeOf [
      (js.any fun i => decide (idx i < n) && frT i, x0.code), (js.any fun i => decide (n ≤ idx i) && frT i, x1.code),
      (js.any fun i => laneFrayed y t i, y.code), (maskFrayed k m && !js.isEmpty, (k.m m).code)]
    retire s sid ((k.setV d (mergeLanes (k.v d) t act val fr code)).taintBy code)

/-- `VPERM` (R259). -/
def execVperm (d a b m t : Nat) (s : State) : Out := vperm (.vperm d a b m t) false d a b m t s

/-- `VPERM.x2` (R259). -/
def execVpermX2 (d a b m t : Nat) (s : State) : Out := vperm (.vpermX2 d a b m t) true d a b m t s

/-- `VSHUF` (R260). A frayed mask frays every lane it writes, as R246's rule has it (DESIGN CHOICE: R260 names no mask; log 86). -/
def execVshuf (d a b m t : Nat) (s : State) : Out :=
  issueV (.vshuf d a b m t) [d, a, b] [] [] s fun s sid k =>
    let x := k.v a
    let y := k.v b
    let act := active k m t
    let src := fun i => if i % 2 = 0 then x else y
    let frS := fun i => laneFrayed (src i) t (i / 2)
    let js := (List.range (lanes t)).filter act
    let code := firstCodeOf [(js.any fun i => i % 2 == 0 && frS i, x.code),
      (js.any fun i => i % 2 == 1 && frS i, y.code), (maskFrayed k m && !js.isEmpty, (k.m m).code)]
    retire s sid ((k.setV d (mergeLanes (k.v d) t act (fun i => lane (src i) t (i / 2))
      (fun i => frS i || maskFrayed k m) code)).taintBy code)

/-- `VBCAST` (R261). A frayed mask frays every lane it writes (DESIGN CHOICE: R261 names no mask, log 86). -/
def execVbcast (d a m t : Nat) (s : State) : Out :=
  issueV (.vbcast d a m t) [d] [a] [] s fun s sid k =>
    let act := active k m t
    let code := firstCodeOf [((k.g a).fray, (k.g a).code), (maskFrayed k m && someActive t act, (k.m m).code)]
    retire s sid ((k.setV d (mergeLanes (k.v d) t act (fun _ => k.nat a % 2 ^ typeWidth t)
      (fun _ => (k.g a).fray || maskFrayed k m) code)).taintBy code)

/-- A copy of `n` consecutive registers under one mask, every source read first (R90, R261). A frayed mask frays every lane it writes
(DESIGN CHOICE: R261 names no mask, log 86). -/
def vmove (i : Instr) (n d a m t : Nat) (s : State) : Out :=
  issueV i ((List.range n).flatMap fun j => [d + j, a + j]) [] [] s fun s sid k =>
    let act := active k m t
    let one := fun (acc : Strand) j =>
      let x := k.v (a + j)
      let code := firstCodeOf [(someLane t act x, x.code), (maskFrayed k m && someActive t act, (k.m m).code)]
      (acc.setV (d + j) (mergeLanes (k.v (d + j)) t act (lane x t)
        (fun i => laneFrayed x t i || maskFrayed k m) code))
    let code := firstCodeOf ((List.range n).map (fun j => (someLane t act (k.v (a + j)), (k.v (a + j)).code)) ++
      [(maskFrayed k m && someActive t act, (k.m m).code)])
    retire s sid (((List.range n).foldl one k).taintBy code)

/-- `VMOV` (R261). -/
def execVmov (d a m t : Nat) (s : State) : Out := vmove (.vmov d a m t) 1 d a m t s

/-- `VMOV.x2` (R261). -/
def execVmovX2 (d a m t : Nat) (s : State) : Out := vmove (.vmovX2 d a m t) 2 d a m t s

/-- `VMOV.x4` (R261). -/
def execVmovX4 (d a m t : Nat) (s : State) : Out := vmove (.vmovX4 d a m t) 4 d a m t s

/-- `VINS` (R261): only the written chunk's fray changes. -/
def execVins (d a b t : Nat) (s : State) : Out :=
  issueV (.vins d a b t) [d] [a, b] [] s fun s sid k =>
    withClean s sid k [b] <|
      let i := k.nat b
      let g := k.g a
      let k0 := if g.fray then k.taint g.code else k
      if lanes t ≤ i then retire s sid k0
      else
        let z := k.v d
        let c := chunkOf t i
        let frC := g.fray || (typeWidth t != 64 && chunkFrayed z c)
        let data := packLanes (typeWidth t) (lanes t) fun j => if j = i then k.nat a else lane z t j
        let fray := packFrays fun j => if j = c then frC else chunkFrayed z j
        let code := if fray = 0 then 0 else if z.fray = 0 then g.code else z.code
        retire s sid (k0.setV d ⟨BitVec.ofNat 1024 data, fray, code⟩)

/-- A lane's value as a general register takes it (R261). -/
def laneWord (t x : Nat) : Word :=
  if isFloatType t then BitVec.ofNat 64 x else ofInt (intOf t x)

/-- `VEXT` (R261). -/
def execVext (d a b t : Nat) (s : State) : Out :=
  issueV (.vext d a b t) [a] [b] [d] s fun s sid k =>
    withClean s sid k [b] <|
      let i := k.nat b
      let x := k.v a
      if lanes t ≤ i then retire s sid (k.writeG d 0)
      else if laneFrayed x t i then
        retire s sid ((k.taint x.code).setG d (.frayed (laneWord t (lane x t i)) x.code))
      else retire s sid (k.writeG d (laneWord t (lane x t i)))

/-! ### Mask instructions (R268) -/

/-- A mask computed from masks: frayed with the code of the first frayed source. -/
def maskOp (i : Instr) (d : Nat) (srcs : List Nat) (f : Strand → BitVec 128) (s : State) : Out :=
  issueV i [] [] [] s fun s sid k =>
    let code := firstCodeOf (srcs.map fun r => ((k.m r).fray, (k.m r).code))
    retire s sid ((k.setM d ⟨f k, code.isSome, code.getD 0⟩).taintBy code)

/-- `KAND` (R268). -/
def execKand (d a b : Nat) (s : State) : Out := maskOp (.kand d a b) d [a, b] (fun k => (k.m a).data &&& (k.m b).data) s

/-- `KOR` (R268). -/
def execKor (d a b : Nat) (s : State) : Out := maskOp (.kor d a b) d [a, b] (fun k => (k.m a).data ||| (k.m b).data) s

/-- `KXOR` (R268). -/
def execKxor (d a b : Nat) (s : State) : Out := maskOp (.kxor d a b) d [a, b] (fun k => (k.m a).data ^^^ (k.m b).data) s

/-- `KNOT` (R268). -/
def execKnot (d a : Nat) (s : State) : Out := maskOp (.knot d a) d [a] (fun k => ~~~(k.m a).data) s

/-- `KMOV` between masks (R268). -/
def execKmov (d a : Nat) (s : State) : Out := maskOp (.kmov d a) d [a] (fun k => (k.m a).data) s

/-- `KMOV` from two general registers (R268). -/
def execKmovG (d a b : Nat) (s : State) : Out :=
  issueV (.kmovG d a b) [] [a, b] [] s fun s sid k =>
    let code := firstFray k [a, b]
    retire s sid ((k.setM d ⟨BitVec.ofNat 128 (k.nat a + k.nat b * 2 ^ 64), code.isSome, code.getD 0⟩).taintBy code)

/-- A general register computed from a mask. -/
def fromMask (i : Instr) (d a : Nat) (f : Nat → Nat) (s : State) : Out :=
  issueV i [] [] [d] s fun s sid k =>
    let x := k.m a
    let v := BitVec.ofNat 64 (f x.data.toNat)
    retire s sid (if x.fray then (k.taint x.code).setG d (.frayed v x.code) else k.writeG d v)

/-- `KMOV.lo` (R268). -/
def execKmovLo (d a : Nat) (s : State) : Out := fromMask (.kmovLo d a) d a (fun x => x % 2 ^ 64) s

/-- `KMOV.hi` (R268). -/
def execKmovHi (d a : Nat) (s : State) : Out := fromMask (.kmovHi d a) d a (fun x => x / 2 ^ 64) s

/-- `KPOP` (R268). -/
def execKpop (d a : Nat) (s : State) : Out := fromMask (.kpop d a) d a (popCount 128) s

end Sys2Proof.Machine
end

