-- ==== Sys2Proof/Machine/LoadStore.lean ====
section
/-! DEFINITION. Loads, stores, prefetch, page advice and fences (R108 to R117, R378, R379), and the steps that end them:
returned data, remote scratchpad requests, drained fences. -/

namespace Sys2Proof.Machine

/-- A loaded value of `n` bytes as a register takes it. -/
def loadValue (sgn : Bool) (n x : Nat) : Word := if sgn then ofInt (signed (8 * n) x) else BitVec.ofNat 64 x

/-- The virtual cycle of an issue by a gang member (R291), with its gang and core. -/
def vccOf (s : State) (k : Strand) : Option Nat :=
  match k.gang with
  | none => none
  | some m => (Tab.find s.gangs m.gang).bind (·.vcc)
def virtualIssue (s : State) (k : Strand) : Option VIssue :=
  match k.gang with
  | none => none
  | some m => (vccOf s k).map fun v => ⟨m.gang, v, k.core⟩

/-- The declared latency of a gang member's load gives it a due cycle (R293). -/
def dueOf (s : State) (k : Strand) : Option Nat := (vccOf s k).map fun v => v + k.lat.getD 64

/-- The fills of a load whose bytes stand at `key`: (register, bytes, signed) one after another (R108, R109, R112). -/
def loadFills (rd : Nat → Nat → Rd) : Nat → List (Nat × Nat × Bool) → List Fill
  | _, [] => []
  | off, (r, n, sgn) :: ps =>
    let x := rd off n
    ⟨r, loadValue sgn n (leNat x.bytes), x.code.isSome, x.code.getD 0⟩ :: loadFills rd (off + n) ps

/-- The bytes a place's read delivers, part by part. -/
def readParts (s : State) (l : Loc) (ps : List (Nat × Nat × Bool)) : List Fill :=
  loadFills (fun off n => readLoc s { l with key := l.key + off } n) 0 ps

def partBytes (ps : List (Nat × Nat × Bool)) : Nat := ps.foldl (fun acc p => acc + p.2.1) 0

/-- The place of a way, and whether it lies in a page shared between contexts. -/
def Way.loc : Way → Loc
  | .here l => l
  | .request l => l

/-- A load: its destinations await the data, whose value is fixed when the read is performed (R97, R208): from a line of the cluster's
cache, or at the home. An acquire at `.sys` reads at the home and invalidates (R228). -/
def load (i : Instr) (a m o align : Nat) (parts : List (Nat × Nat × Bool)) (s : State) : Out :=
  let ds := parts.map (·.1)
  issue i [a] (if m = 1 ∨ m = 2 then ds ++ [a] else ds) s fun s sid k =>
    withClean s sid k [a] <|
      let (ptr, bump) := accessAddr k a m o
      if m = 2 ∧ isSpread ptr = false then .next (trap s sid causeSegment)
      else
        withAccess s sid k ptr (partBytes parts) align needRd true fun way =>
          let k1 := ((ds.foldl Strand.await k).bump a bump).advance
          let cluster := clusterOf k.core
          let sys := m == 3 && o / 2 ^ 11 == 4
          match (if sys then none else cacheHit s cluster way.loc (partBytes parts)) with
          | some x =>
            let fills := loadFills (fun off n => x.read (way.loc.key + off) n) 0 parts
            .next ((s.nextFree.putStrand sid k1).send (.loadRet sid k.gen fills (dueOf s k)))
          | none => match way with
            | .here l =>
              let fills := readParts s l parts
              let s1 := afterRead (learn (noteLoc s k.ctx l (partBytes parts)) (dieOf k.core) l) cluster k.ctx l
              let s2 := if sys then acquireSys s1 cluster else s1
              .next ((s2.nextFree.putStrand sid k1).send (.loadRet sid k.gen fills (dueOf s k)))
            | .request l =>
              .next ((s.nextFree.putStrand sid { k1 with acq := sys }).send
                (.remoteLoad sid k.gen l.key parts (virtualIssue s k) (dueOf s k)))

/-- `LD` (R108). -/
def execLd (d a w m o : Nat) (s : State) : Out :=
  load (.ld d a w m o) a m o (2 ^ w) [(d, 2 ^ w, true)] s

/-- `LD.n` (R108). -/
def execLdN (d a w m o : Nat) (s : State) : Out :=
  load (.ldN d a w m o) a m o (2 ^ w) [(d, 2 ^ w, false)] s

/-- `LDP` (R109): words are zero-extended. -/
def execLdp (d a w m o : Nat) (s : State) : Out :=
  load (.ldp d a w m o) a m o (2 ^ (w + 1)) [(d, 2 ^ w, false), (d + 1, 2 ^ w, false)] s

/-- The codes that a store's data registers write as poison (R113): a register's own fray, and for a clean one the taint of a
release. The parts of one single-copy atomic access are one write, whose code its first frayed register gives (R109, log 64). -/
def storePoison (k : Strand) (taint : Option Code) (d : Nat) : Option Code :=
  if (k.g d).fray then some (k.g d).code else taint

/-- A tainted release store toward a page shared between contexts writes clean and is counted as withheld (R354). -/
def countWithheld (s : State) (ctx selv addr : Nat) (code : Code) : State :=
  match findScope s ctx selv with
  | none => s
  | some r =>
    logFray (s.putScope (scopeKey ctx selv) { r with withheld := Nat.min 65535 (r.withheld + 1) }) 3 code ctx selv addr 0

/-- The writes of a store of registers `ds` of `n` bytes each: a doubleword or less is one write (R109); of two doublewords the
clean ones come first and the poisoned ones in descending order, so that poison covers every unit that its bytes touch
(R113, R347, log 64). -/
def storeWrites (k : Strand) (taint : Option Code) (key n : Nat) (ds : List Nat) : List MemWrite :=
  if n * ds.length ≤ 8 then
    [⟨key, ds.flatMap fun d => leBytes n (k.nat d), match firstFray k ds with
      | some c => some c
      | none => taint⟩]
  else
    let ws : List MemWrite := ds.mapIdx fun i d => ⟨key + n * i, leBytes n (k.nat d), storePoison k taint d⟩
    ws.filter (fun w => w.poison.isNone) ++ (ws.filter fun w => w.poison.isSome).reverse

/-- A write of the data alone (R354). -/
def MemWrite.cleaned (w : MemWrite) : MemWrite := { w with poison := none }

/-- Plain writes of the strand were lost over a link that died (R231). -/
def lostAny (k : Strand) : Bool := !k.lost.isEmpty

/-- A gang member's write to a scratchpad travels: it is performed after its virtual cycle (R221). -/
def memberWay (s : State) (k : Strand) (way : Way) : Way := match way with
  | .here l => if (vccOf s k).isSome && decide (scratchBase ≤ l.key) then .request l else .here l
  | w => w

/-- One write of a strand sets out: to another core's scratchpad on its own die as a request that is performed there (R34);
every other way as `issueWrite` says. -/
def sendWrite (sid : Nat) (k : Strand) (way : Way) (s : State) (w : MemWrite) : State :=
  match memberWay s k way with
  | .here l => issueWrite s sid (dieOf k.core) { l with key := w.key } w
  | .request l =>
    if l.pkg = s.pkg ∧ l.die = dieOf k.core then s.send (.remoteStore sid k.gen w (virtualIssue s k))
    else issueWrite s sid (dieOf k.core) { l with key := w.key } w

/-- A store of registers `ds`, each of `n` bytes (R108, R109, R113, R114). -/
def store (i : Instr) (ds : List Nat) (a w m o align : Nat) (s : State) : Out :=
  let n := 2 ^ w
  let rel := m == 3
  let reach := o / 2 ^ 11
  issue i (a :: ds) (if m = 1 ∨ m = 2 then [a] else []) s fun s sid k =>
    withClean s sid k [a] <|
      let (ptr, bump) := accessAddr k a m o
      if m = 2 ∧ isSpread ptr = false then .next (trap s sid causeSegment)
      else
        withAccess s sid k ptr (n * ds.length) align needWr true fun way =>
          if rel && !releaseReady s sid k reach then .next (s.putStrand sid (k.wait .request))
          else if rel && reach == 4 && lostAny k then
            .next (observeFray (s.putStrand sid { k with lost := [] }) sid 3)
          else
            let k1 := match firstFray k ds with
              | some c => k.taint c
              | none => k
            -- R354: the data goes out clean, a frayed register's too
            let withheld := rel && k.st.t && way.loc.shared
            let taint := if rel && k.st.t then some 9 else none
            let s1 := s.putStrand sid (k1.bump a bump).advance
            let s2 := if withheld then countWithheld s1 k.ctx (selvedgeOf s k.ctx k.sc) ptr 9 else s1
            let ws := storeWrites k taint way.loc.key n ds
            .next ((if withheld then ws.map MemWrite.cleaned else ws).foldl (sendWrite sid k way) s2)

/-- `ST` (R108). -/
def execSt (d a w m o : Nat) (s : State) : Out := store (.st d a w m o) [d] a w m o (2 ^ w) s

/-- `STP` (R109). -/
def execStp (d a w m o : Nat) (s : State) : Out :=
  store (.stp d a w m o) [d, d + 1] a w m o (2 ^ (w + 1)) s

/-- No earlier request of the same strand to the same package is still on its way: they are served in their order (R213,
R229). -/
def requestFirst (s : State) (id sid pkg : Nat) : Bool :=
  s.flights.all fun p => decide (id ≤ p.1) || (match p.2 with
    | .remoteLoad x _ key _ _ _ => x != sid || keyPackage s key != pkg
    | .remoteStore x _ w _ => x != sid || keyPackage s w.key != pkg
    | _ => true)

/-- The rank of a gang member's write among the members' writes: its virtual cycle, then its core (R221 rule 3). -/
def VIssue.rank (v : VIssue) : Nat := v.cycle * 4096 + v.core

/-- An access of a gang stands before a write of rank `v`: an earlier write, or a read that may not return it (R221). -/
def writeBefore (v : VIssue) : Option VIssue → Bool
  | some u => u.gang == v.gang && decide (u.rank < v.rank)
  | none => false
def readBefore (v : VIssue) : Option VIssue → Bool
  | some u => u.gang == v.gang && decide (u.cycle ≤ v.cycle)
  | none => false

/-- An operation of the matrix unit of a quad reads where a write goes: the quad's buffers, or an `LDT`'s source. -/
def mvuReads (quad : Nat) (o : MvuOp) (key : Nat) : Bool :=
  if bufferBase ≤ key then (key - bufferBase) / 2 ^ 20 == o.sid / 32768 * 4096 + quad
  else o.kind == .ldt && decide (scratchBase ≤ key) && keyCore key == ptrCore o.a

/-- Operations of the matrix units, queued and in progress, with their quads. -/
def mvuOps (s : State) : List (Nat × MvuOp) :=
  (s.cores.flatMap fun p => p.2.dispatch.map fun o => (quadOf p.1, o)) ++
    s.quads.filterMap fun p => p.2.busy.map fun b => (p.1, b.2)

/-- The buffer that a key names, with its context and quad. -/
def keyBuffer (key : Nat) : Nat := (key - bufferBase) / 2 ^ 18 % 4
def keyQuad (key : Nat) : Nat := (key - bufferBase) / 2 ^ 20 % 4096
def keyBufferCtx (key : Nat) : Nat := (key - bufferBase) / 2 ^ 32

/-- The tile of C that a key lies in. -/
def keyTile (key : Nat) : Nat := (key - bufferBase) % 2 ^ 18 / 4096

/-- What an operation reads and writes of buffer C, as tiles; it reads A, and W but for `MXS`, or writes A (R278 to R284). -/
def MvuOp.readsC (o : MvuOp) : List Nat := match o.kind with
  | .mma => [o.tile]
  | .mmag => [o.tile]
  | .mrd => [o.tile]
  | .mxs => [o.tile, o.p]
  | _ => []
def MvuOp.writesC (o : MvuOp) : List Nat := match o.kind with
  | .mrd => []
  | .ldt => []
  | _ => [o.tile]
def MvuOp.readsA (o : MvuOp) : Bool := o.kind == .mma || o.kind == .mmas || o.kind == .mmag || o.kind == .mxs

/-- An access stands before one of rank `v`: at an earlier virtual cycle; in the same one, as `same` has it. -/
def standsBefore (v : VIssue) (same : VIssue → Bool) : Option VIssue → Bool
  | some u => u.gang == v.gang && (decide (u.cycle < v.cycle) || (u.cycle == v.cycle && u.core != v.core && same u))
  | none => false

/-- An operation of a quad's matrix unit stands before a member's write there: an earlier one, one of the same virtual cycle that only
reads what is written, or one that writes it from a lower core (R221). -/
def mvuBefore (quad : Nat) (o : MvuOp) (key : Nat) (v : VIssue) : Bool :=
  mvuReads quad o key && standsBefore v (fun u =>
    if keyBuffer key = 3 ∧ bufferBase ≤ key then
      if o.writesC.contains (keyTile key) then decide (u.core < v.core) else o.readsC.contains (keyTile key)
    else if o.kind = .ldt ∧ bufferBase ≤ key then decide (u.core < v.core) else o.kind == .ldt || o.readsA) o.at_

/-- The words of C at `keys` as they stand are kept for the operations that read them in the virtual cycle `v` of another core's write,
which is performed before them (R221 rule 3). -/
def keepPrior (s : State) (v : VIssue) (keys : List Nat) : State :=
  let keep := fun (o : MvuOp) =>
    if o.at_.any (fun u => u.gang == v.gang && u.cycle == v.cycle && u.core != v.core) then
      { o with kept := (keys.filter fun key => o.readsC.contains (keyTile key) && !Tab.has o.kept key).foldl (fun t key =>
          let r := readAt s key 8
          Tab.put t key (leNat r.bytes, r.code)) o.kept }
    else o
  { s with cores := s.cores.map fun p => (p.1, { p.2 with dispatch := p.2.dispatch.map keep }) }

/-- A gang member's write may be performed: the VCC has passed its virtual cycle, and no access of the gang stands before it
(R221). -/
def memberTurn (s : State) (id : Nat) (key : Nat) : Option VIssue → Bool
  | none => true
  | some v =>
    (match (Tab.find s.gangs v.gang).bind (·.vcc) with
      | some now => decide (v.cycle < now)
      | none => true) &&
    (s.flights.all fun p => p.1 == id || (match p.2 with
      | .remoteStore _ _ _ u => !writeBefore v u
      | .atomic a _ => !writeBefore v a.at_
      | .claim c => !writeBefore v c.claim.at_
      | .remoteLoad _ _ _ _ u _ => !readBefore v u
      | .vecLoad _ _ _ _ _ _ u _ => !readBefore v u
      | _ => true)) &&
    (mvuOps s).all fun p => !mvuBefore p.1 p.2 key v

/-- The die a strand issues on. -/
def issuerDie (s : State) (sid : Nat) : Nat := match Tab.find s.strands sid with
  | some k => dieOf k.core
  | none => 0

/-- Writes into buffer A untag the slots of the context that they touch (R24). -/
def untag (s : State) (ctx quad off n : Nat) : State :=
  match Tab.find s.quads quad with
  | none => s
  | some q =>
    let slots := (List.range ((off + n - 1) / 2048 - off / 2048 + 1)).map (ctx * 64 + off / 2048 + ·)
    s.putQuad quad { q with tags := slots.foldl Tab.del q.tags }

/-- A write performed at its home; one into buffer A untags the slots it touches (R24, R265). -/
def writeHome (s : State) (w : MemWrite) : State :=
  let s1 := writeAt s w
  if bufferBase ≤ w.key ∧ w.key < storageBase ∧ keyBuffer w.key = 2 then
    untag s1 (keyBufferCtx w.key) (keyQuad w.key) (w.key % 2 ^ 18) w.bytes.length
  else s1

/-- The place that a request names by its key: a scratchpad, or another package's memory, with the page it stands in (Table 21-4). -/
def keyLoc (s : State) (key : Nat) : Loc :=
  ⟨key, keyPackage s key, if scratchBase ≤ key then dieOf (keyCore key) else 0,
    decide (key < scratchBase) && (leafState (leafAt s key) == 4), false, 0⟩

/-- A request finds at its home what its die's clock covers (R224). -/
def requestLanded (s : State) (sid key : Nat) : Bool :=
  decide (bufferBase ≤ key) || landed s (issuerDie s sid) (keyLoc s key)

/-- A load at another home has been performed: the line comes with its return, or, where it acquires at `.sys`, those of other packages
go from the cluster (R228). -/
def endRemoteLoad (s : State) (sid gen : Nat) (l : Loc) : State :=
  match Tab.find s.strands sid with
  | none => s
  | some k =>
    if k.gen ≠ gen then s
    else if k.acq then acquireSys (s.putStrand sid { k with acq := false }) (clusterOf k.core)
    else if l.pkg = s.pkg then s else carryLine s (clusterOf k.core) l

/-- Lanes of a vector register: of those read, with their codes; the others keep their data (R262, R265). -/
def vecResult (z : VReg) (t : Nat) (got : Tab (Nat × Option Code)) : VReg :=
  let at_ := fun i => Tab.find got i
  mergeLanes z t (fun i => Tab.has got i) (fun i => ((at_ i).map (·.1)).getD 0) (fun i => ((at_ i).bind (·.2)).isSome)
    (if z.fray ≠ 0 then some z.code else (List.range (lanes t)).findSome? fun i => (at_ i).bind (·.2))

/-- A vector load goes on: what is left to read travels, and when nothing is, its data returns. -/
def sendVector (s : State) (sid gen d t : Nat) (got : Tab (Nat × Option Code)) (left : List (Nat × Nat)) (at_ : Option VIssue)
    (due : Option Nat) : State :=
  match left, Tab.find s.strands sid with
  | [], some k => s.send (.vecRet sid gen d (vecResult (k.v d) t got) due)
  | [], none => s
  | _, _ => s.send (.vecLoad sid gen d t got left at_ due)

/-- An element of a vector load read at its home. -/
def readRemote (s : State) (sid t key : Nat) : State × (Nat × Option Code) :=
  let l := keyLoc s key
  let n := typeWidth t / 8
  let r := readLoc s l n
  let s1 := learn (noteLoc s (sid / 32768) l n) (issuerDie s sid) l
  let s2 := match Tab.find s1.strands sid with
    | some k => bringLine s1 (clusterOf k.core) l
    | none => s1
  (s2.nextFree, (leNat r.bytes, r.code))

/-- REMOTE_SCRATCHPAD_REQUEST (R34, R229): a request is performed at its home; over a dead path it is lost (R231, R424). -/
def execRemoteScratchpadRequest (id : Nat) (s : State) : Out :=
  match Tab.find s.flights id with
  | some (.remoteLoad sid gen key parts _ due) =>
    let l := keyLoc s key
    if requestFirst s id sid l.pkg && requestReady s key (partBytes parts) && requestLanded s sid key then
      let s1 := learn (noteLoc (s.delFlight id) (sid / 32768) l (partBytes parts)) (issuerDie s sid) l
      .next ((endRemoteLoad s1 sid gen l).nextFree.send (.loadRet sid gen (readParts s l parts) due))
    else .next s
  | some (.vecLoad sid gen d t got ((i, key) :: left) at_ due) =>
    if requestFirst s id sid (keyPackage s key) && requestReady s key (typeWidth t / 8) && requestLanded s sid key then
      let r := readRemote (s.delFlight id) sid t key
      .next (sendVector r.1 sid gen d t (Tab.put got i r.2) left at_ due)
    else .next s
  -- the acknowledgment of a write comes (R423)
  | some (.wrote _ _ _) => .next (s.delFlight id)
  | some (.remoteStore sid gen w at_) =>
    let l := keyLoc s w.key
    if requestFirst s id sid l.pkg && requestReady s w.key w.bytes.length && requestLanded s sid w.key &&
        memberTurn s id w.key at_ then
      let s := match at_ with
        | some v => if bufferBase ≤ w.key ∧ keyBuffer w.key = 3 then keepPrior s v (unitsOf w.key w.bytes.length) else s
        | none => s
      if l.pkg = s.pkg then .next (writeHome (s.delFlight id) w) else .next (farWrite (s.delFlight id) sid gen l.pkg w)
    else .next s
  | _ => .next s

/-- A vector load's data enters its register. -/
def fillVector (s : State) (sid gen d : Nat) (x : VReg) : State := s.modStrand sid fun k => if k.gen = gen then k.setV d x else k

/-- LOAD_DATA_RETURN (R97, R265): the destination is filled; a gang load's data that is early is held to its due cycle (R293). -/
def execLoadDataReturn (id : Nat) (s : State) : Out :=
  match Tab.find s.flights id with
  | some (.loadRet sid gen fills none) => .next (fillStrand (takeFill (s.delFlight id) id) sid gen fills)
  | some (.vecRet sid gen d x none) => .next (fillVector (s.delFlight id) sid gen d x)
  | _ => .next s

/-- GANG_LOAD_DUE (R293): the VCC reaches the due cycle and the destination is filled. -/
def execGangLoadDue (id : Nat) (s : State) : Out :=
  let reached := fun (sid due : Nat) => match (Tab.find s.strands sid).bind fun k => vccOf s k with
    | some v => decide (due ≤ v)
    | none => true
  match Tab.find s.flights id with
  | some (.loadRet sid gen fills (some due)) =>
    if reached sid due then .next (fillStrand (takeFill (s.delFlight id) id) sid gen fills) else .next s
  | some (.vecRet sid gen d x (some due)) =>
    if reached sid due then .next (fillVector (s.delFlight id) sid gen d x) else .next s
  | _ => .next s

/-- `PREF` (R115, R379): the checks of a segment pointer, of the one byte at g[a] (DESIGN CHOICE, log 70), and a TLB fill from
a resident or pinned leaf; no other effect. -/
def execPref (a : Nat) (s : State) : Out :=
  issue (.pref a) [a] [] s fun s sid k =>
    withClean s sid k [a] <|
      let ptr := k.nat a
      if isSpread ptr then retire s sid k
      else if strandCheck s k ptr 1 needRd = false then .next (trap s sid causeSegment)
      else
        let va := virtAddr (segsOf s k.ctx k.core) ptr
        match findPage s k.ctx va with
        | some (key, p) =>
          if leafRights p.leaf needRd && (leafState p.leaf == 1 || leafState p.leaf == 5) &&
              ((tlbFind s (clusterOf k.core) k.ctx va).all fun e => !leafRights e.leaf needRd) then
            retire (fillFrom s (clusterOf k.core) key p) sid k
          else retire s sid k
        | none => retire s sid k

/-- The pages with a valid leaf that overlap a byte range of a context (R378), which runs on modulo 2^61 (R20). -/
def pagesIn (s : State) (ctx va n : Nat) : List Nat :=
  (s.xlat.pages.filter fun p =>
    p.1 / 2 ^ 48 == ctx && leafValid p.2.leaf &&
      decide ((pageVa p.1 + 2 ^ 61 - va % 2 ^ 61) % 2 ^ 61 < n ∨
        (0 < n ∧ (va % 2 ^ 61 + 2 ^ 61 - pageVa p.1) % 2 ^ 61 < leafSize p.2.leaf))).map (·.1)

/-- `PGADV` (R116, R378): one event for each named page goes to the memory-manager core. -/
def execPgadv (a b v : Nat) (s : State) : Out :=
  issue (.pgadv a b v) [a, b] [] s fun s sid k =>
    withClean s sid k [a, b] <|
      if strandCheck s k (k.nat a) (k.nat b) needRd = false then .next (trap s sid causeSegment)
      else
        let va := virtAddr (segsOf s k.ctx k.core) (k.nat a)
        let ps := if isSpread (k.nat a) ∨ k.nat b = 0 then [] else pagesIn s k.ctx va (k.nat b)
        retire (ps.foldl (fun s p => s.send (.advice k.ctx p v)) s) sid k

/-- What a fence waits for: the strand's requests on their way, its writes as far as the reach asks, its queued MVU operations
(R217, R230, R237). -/
def fenceClear (s : State) (sid : Nat) (k : Strand) (reach : Nat) : Bool :=
  !memBusy s sid && reachDrained s sid (dieOf k.core) reach && mvuClear s sid k

/-- A fence that its accesses have drained for completes; a `FENCE.sys` after a loss observes it instead (R231). The reads after a
`FENCE.sys` find no older copy of another package's line (R230). -/
def endFence (s : State) (sid : Nat) (k : Strand) (reach : Nat) : State :=
  if reach = 4 ∧ lostAny k then observeFray (s.putStrand sid { k with lost := [], stall := .none }) sid 3
  else if reach = 4 then acquireSys (s.putStrand sid k.advance) (clusterOf k.core)
  else s.putStrand sid k.advance

/-- `FENCE` (R117, R217, R231): it issues, and later instructions wait until what precedes it has drained. -/
def execFence (r : Nat) (s : State) : Out :=
  issue (.fence r) [] [] s fun s sid k =>
    if fenceClear s sid k r then .next (endFence s sid k r)
    else .next (s.putStrand sid { k with stall := .fence r })

/-- FENCE_DRAIN_COMPLETE (R217). -/
def execFenceDrainComplete (sid : Nat) (s : State) : Out :=
  match Tab.find s.strands sid with
  | some k => match k.stall with
    | .fence r => if fenceClear s sid k r then .next (endFence s sid k r) else .next s
    | _ => .next s
  | none => .next s

end Sys2Proof.Machine
end

