-- ==== Sys2Proof/Machine/Strands.lean ====
section
/-! DEFINITION. Creating, ending and addressing strands (R141, R146 to R155): `FORK` to `EMPTY`, and the delivery of messages. -/

namespace Sys2Proof.Machine

/-! ### Readiness (R134) and shares (R162) -/

/-- The gang of some strand on a core is paused in this cycle: no slot of the core issues (R292). -/
def corePaused (s : State) (core : Nat) : Bool :=
  s.gangs.any fun p => decide (0 < p.2.paused) && p.2.members.any fun sid =>
    match Tab.find s.strands sid with
    | some k => k.core == core
    | none => false

/-- A strand is in rotation with nothing against it that an event ends; a slot that waits for a request tries again (R134, log
22). -/
def strandAwake (k : Strand) : Bool := k.phase == .running && !k.out && (k.stall == .none || k.stall == .request)

/-- Every slot that a `YIELD` waits for has issued, or is ready no longer (R151). -/
def yieldOver (s : State) (k : Strand) : Bool := match Tab.find s.cores k.core with
  | some c => k.yieldTo.all fun slot => !c.able.contains slot
  | none => true

/-- The strand of a slot can issue (R134). -/
def strandReady (s : State) (k : Strand) : Bool :=
  strandAwake k && (yieldOver s k || decide (k.yieldBy ≤ s.cycle)) &&
    (match k.vccTarget with
      | none => true
      | some t => match vccOf s k with
        | some v => decide (t ≤ v)
        | none => true) &&
    -- a member's opportunities begin with the VCC (R291)
    (match gangOf k with
      | none => true
      | some g => ((Tab.find s.gangs g).bind (·.vcc)).isSome) &&
    -- a core that is being pre-empted still issues the rest of a unit (R83, R89, R385)
    (match Tab.find s.cores k.core with
      | some c => c.mode == .running || (c.mode == .preempting && (k.pair.length == 1 || k.run.isSome))
      | none => false) && !corePaused s k.core

/-- The slots of a core other than one that are ready: what stood at the end of the last cycle lets them issue too (R137). -/
def otherReady (s : State) (core slot : Nat) : List Nat :=
  match Tab.find s.cores core with
  | none => []
  | some c => (c.slots.filter fun p =>
      p.1 != slot && c.able.contains p.1 && (match Tab.find s.strands p.2 with
        | some k => strandReady s k
        | none => false)).map (·.1)

/-- A split of the issuer's share (R162): with exponent e > 0 the body gets the new member's; at e = 0 the member borrows and
the instruction goes on once the grant has come. -/
def withShare (s : State) (sid : Nat) (k : Strand) (body : Strand → Nat → Out) : Out :=
  if k.share = 0 then
    .next ((s.putStrand sid { k.park .borrow with again := true }).send (.borrowReq sid k.ctx k.sc))
  else body { k with share := k.share - 1 } (k.share - 1)

/-- The units that a borrower was granted reach it (R162). -/
def Strand.granted (k : Strand) (j : Nat) : Strand :=
  if k.phase = .parked .borrow then { k with share := j, phase := .running } else k

/-! ### Tickets and spools (R141, R146) -/

/-- The first number at or after `start`, modulo `n`, that a test accepts, among `fuel` of them. -/
def firstFrom (n : Nat) (ok : Nat → Bool) : Nat → Nat → Option Nat
  | 0, _ => none
  | fuel + 1, i => if ok (i % n) then some (i % n) else firstFrom n ok fuel (i + 1)

/-- A free ticket index of a die: which one is not specified, so the turn's choice starts the search (R146, log 16). -/
def freeTicket (s : State) (ctx die : Nat) : Option Nat :=
  let base := ctx * 2 ^ 22 + die * 2 ^ 19
  firstFrom (2 ^ 19) (fun i => !Tab.has s.groups.tickets (base + i)) (Nat.min (2 ^ 19) (s.groups.tickets.length + 1)) s.pick

/-- The ticket of an entry. -/
def ticketValue (s : State) (key : Nat) : Nat :=
  s.pkg * 2 ^ 51 + key / 2 ^ 19 % 8 * 2 ^ 48 + 2 ^ 35 + key % 2 ^ 19 * 2 ^ 16 + Tab.get s.groups.ticketGen key 0

/-- The key of the entry that a ticket names in a context. -/
def ticketKey (ctx t : Nat) : Nat := ctx * 2 ^ 22 + field t 48 3 * 2 ^ 19 + field t 16 19

def spoolKey (ctx core : Nat) : Nat := ctx * 4096 + core

/-- A push onto a core's spool finds room: 64 on chip, then the context's area of the die (R141; the shared pool is taken as
empty of places, log 28). -/
def spoolRoom (s : State) (ctx core : Nat) : Bool :=
  let spilled := s.groups.spools.foldl (fun acc p =>
    if p.1 / 4096 = ctx ∧ dieOf (p.1 % 4096) = dieOf core then acc + (p.2.length - 64) else acc) 0
  decide ((Tab.get s.groups.spools (spoolKey ctx core) []).length < 64) || decide (spilled < 65536)

/-- The word of the spools that an error in a record is found in (R28; log 66). -/
def recordWord (ctx : Nat) (r : Spawn) : Nat := arrayKey (field r.ticket 48 3) 0 (ticketKey ctx r.ticket)

/-- Pushes a record at the young end, which is the end of the list. -/
def pushSpool (s : State) (ctx core : Nat) (r : Spawn) : State :=
  renewArray (s.setGroups { s.groups with
    spools := Tab.put s.groups.spools (spoolKey ctx core) (Tab.get s.groups.spools (spoolKey ctx core) [] ++ [r]) }) (recordWord ctx r)

/-- `fork` (R149). -/
def fork (i : Instr) (d : Nat) (entryReg : Option Nat) (entry : Strand → Nat) (s : State) : Out :=
  let extra := match entryReg with
    | some b => [b]
    | none => []
  issue i ([0, 1, 2, 3] ++ extra) [d] s fun s sid _ =>
    atPoint s sid fun s k =>
      withClean s sid k extra <|
        let e := entry k
        if e % 4 ≠ 0 then .next (trap s sid causeAlignment)
        else
          match freeTicket s k.ctx (dieOf k.core) with
          | none => .next (s.putStrand sid { k.park .space with again := true })
          | some ix =>
            if spoolRoom s k.ctx (homeCore s k.ctx k.core) = false then .next (s.putStrand sid { k.park .space with again := true })
            else
              withShare s sid k fun k1 share =>
                let key := k.ctx * 2 ^ 22 + dieOf k.core * 2 ^ 19 + ix
                let t := ticketValue s key
                let r : Spawn := {
                  entry := e
                  args := [0, 1, 2, 3].map fun j => k.val j
                  frays := [0, 1, 2, 3].map fun j => if (k.g j).fray then some (k.g j).code else none
                  ticket := t
                  scope := k.sc
                  share := share
                  kernel := k.kernel }
                let k2 := match firstFray k [0, 1, 2, 3] with
                  | some c => k1.taint c
                  | none => k1
                let s1 := s.setGroups { s.groups with tickets := Tab.put s.groups.tickets key ⟨none, []⟩ }
                retire (pushSpool s1 k.ctx (homeCore s k.ctx k.core) r) sid (k2.writeG d (BitVec.ofNat 64 t))

/-- `FORK` (R149). -/
def execFork (d o : Nat) (s : State) : Out :=
  fork (.fork d o) d none (fun k => unsigned 64 ((k.pc : Int) + 4 * signed 18 o)) s

/-- `FORKR` (R149). -/
def execForkr (d b : Nat) (s : State) : Out := fork (.forkr d b) d (some b) (fun k => k.nat b) s

/-- `EXIT` (R150). -/
def execExit (s : State) : Out :=
  issue .exit [] [] s fun s sid k =>
    if 0 < k.opened then .next (trap s sid causeIllegal) else .next (enterCancelling s sid k)

/-- The core has already issued in this cycle. -/
def issuedNow (s : State) (c : Core) : Bool := c.last.any fun p => p.2 == s.cycle

/-- `YIELD` (R151). -/
def execYield (s : State) : Out :=
  issue .yield [] [] s fun s sid _ =>
    atPoint s sid fun s k =>
      let fixed := match Tab.find s.cores k.core with
        | some c => c.phase.isSome
        | none => false
      let others := if fixed then [] else otherReady s k.core k.slot
      .next (s.putStrand sid { k.advance with yieldTo := others, yieldBy := s.cycle + 8 })

/-! ### Messages (R147, R152) -/

/-- A handle or ticket that names nothing a `SEND` may name (R152). -/
def sendMalformed (s : State) (k : Strand) (h : Nat) : Bool :=
  (if bitOf h 35 then field h 36 12 != 0 else field h 16 19 != 0) ||
    decide (field ((segsOf s k.ctx k.core).getD 7 0) 61 61 ≤ field h 51 13)

/-- The bytes of a remote list with an entry for each of the 4,608 packages (R167, R422). -/
def listSize : Nat := 36864

/-- A place in a context's memory for a remote list: the lowest that no live scope's list has; 0 where no place within context memory
is left: the list then stands in the record alone (R167, R382; DESIGN CHOICE, log 71). -/
def listPlace (s : State) (ctx : Nat) : Nat :=
  let base := ((Tab.find s.ctxs ctx).map (·.cmem)).getD 0
  let top := base + ((Tab.find s.ctxs ctx).map (·.csize)).getD 0 * 2 ^ 20
  let used := s.groups.scopes.filterMap fun p => if p.1 / 2 ^ 17 = ctx ∧ p.2.remote ≠ 0 then some p.2.remote else none
  (((List.range (used.length + 1)).map fun j => base + listSize * (j + 1)).find? fun a =>
    !used.contains a && decide (a + listSize ≤ top)).getD 0

/-- A scope's record with its remote list as it stands in context memory: an entry of 8 bytes for each package (R167). -/
def State.putList (s : State) (key : Nat) (r : Scope) : State :=
  if r.remote = 0 then s.putScope key r
  else putBytes (s.putScope key r) r.remote (r.remotes.flatMap fun p => leBytes 8 (p.1 * 2 ^ 51 + p.2))

/-- Units of a scope that leave for another package are entered in its remote list, and in the proxy there (R167, R426). -/
def addRemote (s : State) (ctx scope pkg units : Nat) : State :=
  match findScope s ctx scope with
  | none => s
  | some r => (raiseProxy s ctx scope pkg units).putList (scopeKey ctx scope) { r with
      remote := if r.remote = 0 then listPlace s ctx else r.remote
      remotes := Tab.put r.remotes pkg (Tab.get r.remotes pkg 0 + units) }

/-- The records of 32 bytes that a context's queues-and-lists region of a die holds, or may come to hold: spilled items, messages for
tickets, those beyond a strand's sixteen and those on their way; five for a strand in an arrival queue, and one for a `WAITA` in
overflow (R138, R147, R204, R389, Table 22-2). -/
def messageRecords (s : State) (ctx die : Nat) : Nat :=
  let here := fun k : Strand => k.ctx == ctx && dieOf (k.entry / 8) == die
  (Tab.get s.groups.spill (ctx * 8 + die) []).length +
    s.groups.tickets.foldl (fun n p => if p.1 / 2 ^ 19 = ctx * 8 + die then n + p.2.mail.length else n) 0 +
    s.strands.foldl (fun n p => if here p.2 then n + (p.2.mail.length - 16) else n) 0 +
    (s.flights.filter fun p => match p.2 with
      | .msg m => m.ctx == ctx && field m.target 51 13 == s.pkg && field m.target 48 3 == die
      | _ => false).length +
    5 * ((s.cores.flatMap fun p => if dieOf p.1 = die then p.2.arrivals else []).filter fun sid => sid / 32768 == ctx).length +
    (s.sync.monitors.filter fun m => m.poll && ((Tab.find s.strands m.sid).map here).getD false).length

/-- The region has room for one more record of 32 bytes in its 2 MiB (R389, log 71). -/
def messageRoom (s : State) (ctx die : Nat) : Bool := decide (messageRecords s ctx die < 65536)

/-- The die whose region a message for a target needs: a placed strand's directory die, or that of the ticket (R147, Table 22-2). -/
def targetDie (s : State) (ctx target : Nat) : Nat :=
  match if bitOf target 35 then (Tab.find s.groups.tickets (ticketKey ctx target)).bind (·.strand) else none with
  | some sid => sid % 32768 / 4096
  | none => field target 48 3

/-- `SEND` (R152): a release at `.pkg`, or at `.sys` when the target lies in another package (R148); one that finds no room for
a message at its target parks (R389). -/
def execSend (d h v t a : Nat) (s : State) : Out :=
  issue (.send d h v t a) [h, v] (if a = 1 then [d] else []) s fun s sid _ =>
    atPoint s sid fun s k =>
      withClean s sid k [h] <|
        let pkg := field (k.nat h) 51 13
        if sendMalformed s k (k.nat h) then .next (trap s sid causeStale)
        else if memBusy s sid || !releaseReady s sid k (if pkg = s.pkg then 3 else 4) then
          .next (s.putStrand sid { k.wait .request with again := true })
        else if pkg ≠ s.pkg ∧ lostAny k then .next (observeFray (s.putStrand sid { k with lost := [] }) sid 3)
        else if pkg = s.pkg ∧ messageRoom s k.ctx (targetDie s k.ctx (k.nat h)) = false then
          .next (s.putStrand sid { k.park .space with again := true })
        else
          withShare s sid k fun k1 share =>
            let g := k.g v
            let m : Msg := {
              ctx := k.ctx
              target := k.nat h
              reg := t
              val := g.val
              fray := g.fray || k.st.t
              code := if g.fray then g.code else if k.st.t then 9 else 0
              sender := sid
              senderGen := k.gen
              scope := k.sc
              units := 2 ^ share
              ack := if a = 1 then some d else none }
            let k2 := if g.fray then k1.taint g.code else k1
            let k3 := if a = 1 then k2.await d else k2
            let s1 := if pkg = s.pkg then s else addRemote s k.ctx k.sc pkg (2 ^ share)
            .next ((s1.putStrand sid k3.advance).send (.msg m))

/-- `SELF` (R153). -/
def execSelf (d : Nat) (s : State) : Out :=
  issue (.self d) [] [d] s fun s sid k => retire s sid (k.writeG d (BitVec.ofNat 64 (strandHandle s k)))

/-- `MODE` (R154): a register that becomes receivable while empty takes its oldest held message. -/
def execMode (d m : Nat) (s : State) : Out :=
  issue (.mode d m) [] [d] s fun s sid k =>
    let k1 := k.writeG d (k.st.mode.zeroExtend 64)
    let k2 := k1.setSt { k1.st with mode := BitVec.ofNat 16 m }
    .next (deliverHeld (s.putStrand sid k2.advance) sid)

/-- The registers that a 16-bit list names. -/
def maskRegs (m : Nat) : List Nat := (List.range 16).filter (bitOf m)

/-- `EMPTY` (R155). -/
def execEmpty (m : Nat) (s : State) : Out :=
  issue (.empty m) [] (maskRegs m) s fun s sid k =>
    let k1 := (maskRegs m).foldl (fun k r => k.setG r GReg.empty) k
    .next (deliverHeld (s.putStrand sid k1.advance) sid)

end Sys2Proof.Machine
end

