-- ==== Sys2Proof/Machine/Scopes.lean ====
section
/-! DEFINITION. The scope instructions (R174 to R179) and the close of a scope (R175). -/

namespace Sys2Proof.Machine

/-- A free index of a die's scope space; which one is not specified (R174, log 16). -/
def freeIndex (s : State) (ctx die : Nat) : Option Nat :=
  let base := ctx * 2 ^ 17 + die * 2 ^ 14
  firstFrom (2 ^ 14) (fun i => !Tab.has s.groups.scopes (base + i)) (Nat.min (2 ^ 14) (s.groups.scopes.length + 1)) s.pick

/-- The key of a free index, of this die or of the next that has one, among `n` dies (R174). -/
def takeIndex (s : State) (ctx : Nat) : Nat → Nat → Option Nat
  | 0, _ => none
  | n + 1, die => match freeIndex s ctx (die % 8) with
    | some i => some (ctx * 2 ^ 17 + die % 8 * 2 ^ 14 + i)
    | none => takeIndex s ctx n (die + 1)

/-- The handle of the next scope at a key (R157). -/
def handleAt (s : State) (key : Nat) : Nat := key % 2 ^ 17 * 2 ^ 15 + Tab.get s.groups.scopeGen key 1

/-- A child's link entered in its parent's list; a cancelling parent answers with a cancel (R164). -/
def linkChild (s : State) (ctx parent child : Nat) : State :=
  match findScope s ctx parent, findScope s ctx child with
  | some p, some c =>
    let s1 := (s.putScope (scopeKey ctx parent) { p with child := child }).putScope (scopeKey ctx child)
      { c with sibling := p.child }
    if p.state == .cancelling then
      match findScope s1 ctx child with
      | some d => cancelOne s1 ctx true d
      | none => s1
    else s1
  | _, _ => s

/-- A record names a scope as its first child, or as its next sibling. -/
def namesChild (ctx parent child : Nat) (p : Nat × Scope) : Bool :=
  p.1 / 2 ^ 17 == ctx && ((p.2.handle == parent && p.2.child == child) || (p.2.parent == parent && p.2.sibling == child))

/-- A child taken off its parent's list (R175): the record that named it is written, and so is used (R158). -/
def unlinkChild (s : State) (ctx parent child sibling : Nat) : State :=
  (s.groups.scopes.filter (namesChild ctx parent child)).foldl (fun s p =>
    s.putScope p.1 (if p.2.handle = parent ∧ p.2.child = child then { p.2 with child := sibling } else { p.2 with sibling := sibling })) s

/-- A scope record retired: the generation of its index goes on (R157); strands parked for an index look again. -/
def retireScope (s : State) (ctx : Nat) (r : Scope) : State :=
  let key := scopeKey ctx r.handle
  let gen := r.handle % 2 ^ 15
  wakeParked (s.setGroups { s.groups with
    scopes := Tab.del s.groups.scopes key
    recent := Tab.modify s.groups.recent (key / 2 ^ 14 % 8) (·.erase key)
    scopeGen := Tab.put s.groups.scopeGen key (if gen = 32767 then 1 else gen + 1) }) .index .index

/-- The number of a scope's result (Table 07-2). -/
def ScopeResult.code : ScopeResult → Nat
  | .ok => 0
  | .succeeded => 1
  | .cancelled => 2
  | .frayed => 3

/-- The result as `SCLOSE` writes it (R175). -/
def resultWord (r : Scope) : Nat := r.result.code + 256 * (if r.result = .frayed then r.fray.toNat else 0)

/-- The strand a handle names in a context. -/
def strandOf (s : State) (ctx handle : Nat) : Option Nat :=
  let sid := ctx * 32768 + field handle 36 15
  match Tab.find s.strands sid with
  | some k => if k.gen = handle % 2 ^ 16 ∧ field handle 51 13 = s.pkg then some sid else none
  | none => none

/-- A scope that is empty ends: its result is what it is now, and its record goes (R175). -/
def endScope (s : State) (ctx : Nat) (r : Scope) : State := retireScope (unlinkChild s ctx r.parent r.handle r.sibling) ctx r

/-- The completion of a parked `SCLOSE` whose scope has ended (R175): the parent's record is read, and so used (R158). -/
def finishClose (s : State) (ctx : Nat) (r : Scope) (sid d : Nat) : State :=
  let s1 := if (findScope s ctx r.parent).isSome then s.touchScope (scopeKey ctx r.parent) else s
  match Tab.find s1.strands sid with
  | none => s1
  | some k =>
    let marked := match findScope s1 ctx r.parent with
      | some p => hasMarked p (some (strandHandle s k))
      | none => false
    let st := { k.st with c := marked, fc := if r.result = .frayed then r.fray.zeroExtend 8 else k.st.fc }
    let k1 := (k.setSt st).writeG d (BitVec.ofNat 64 (resultWord r))
    let counts := ((findScope s1 ctx r.parent).map (·.eager)).getD false
    s1.putStrand sid { k1.advance with
      sc := r.parent, counts := counts, share := r.saved, opened := k.opened - 1, phase := .running }

/-- A scope of which its home holds every unit closes, once its opener waits for that (R162, R175); the wake of a switched-out opener is
spilled with the result (R389). A kernel root closes at once: its result is what it is now (R404). -/
def closeIfEmpty (s : State) (ctx h : Nat) : State :=
  match findScope s ctx h with
  | none => s
  | some r =>
    if r.units = 2 ^ 32 ∧ r.state = .emptying ∧ r.root = false then
      match strandOf s ctx r.opener with
      | none => s
      | some sid => match Tab.find s.strands sid with
        | some k => match k.phase with
          | .parked (.close d) =>
            let s1 := endScope s ctx r
            if k.out then spillTo s1 sid k (.closed r) else finishClose s1 ctx r sid d
          | _ => s
        | none => s
    else if r.units = 2 ^ 32 ∧ r.root ∧ r.parent ≠ 0 then
      (unlinkChild s ctx r.parent r.handle r.sibling).putScope (scopeKey ctx h) { r with state := .closed }
    else s

/-- `SOPEN` (R174). -/
def execSopen (d selv eager o : Nat) (s : State) : Out :=
  issue (.sopen d selv eager o) [] [d] s fun s sid k =>
    match takeIndex s k.ctx 8 (dieOf k.core) with
    | none => .next (s.putStrand sid (k.park .index))
    | some key =>
      let h := handleAt s key
      let parent := findScope s k.ctx k.sc
      let born : Bool := match parent with
        | some p => p.state == .cancelling
        | none => false
      let inherits : Bool := match parent with
        | some p => p.eager
        | none => false
      let r : Scope := {
        units := 2 ^ 31, handle := h, parent := k.sc, opener := strandHandle s k
        landing := unsigned 64 ((k.pc : Int) + 4 * signed 16 o)
        child := 0, sibling := 0, succeeder := 0, remote := 0, remotes := [], withheld := 0
        root := false, eager := eager == 1 || inherits, selv := selv == 1
        state := if born then .cancelling else .open
        result := if born then .cancelled else .ok
        fray := 0, saved := k.share }
      let k1 := if born then k.setSt { k.st with c := true } else k
      let k2 := { (k1.writeG d (BitVec.ofNat 64 h)).advance with
        sc := h, counts := r.eager, share := 31, opened := k.opened + 1 }
      let s1 := (s.putScope key r).putStrand sid k2
      if k.sc / 2 ^ 29 = dieOf k.core then .next (linkChild s1 k.ctx k.sc h)
      else .next (s1.send (.childLink k.ctx k.sc h))

/-- `SCLOSE` (R175): on entry it takes the taint check and discharges the cancel of its own scope. A strand that is not the opener
traps before either, marked or not (DESIGN CHOICE: R175's trap is not ordered against R169; log 86). -/
def execSclose (d : Nat) (s : State) : Out :=
  issue (.sclose d) [] [d] s fun s sid k =>
    match findScope s k.ctx k.sc with
    | none => .next (trap s sid causeIllegal)
    | some r =>
      if r.root || r.opener != strandHandle s k then .next (trap s sid causeIllegal)
      else if memBusy s sid || !releaseReady s sid k 3 then .next (s.putStrand sid (k.wait .request))
      else
        let s1 := taintCheck (s.putStrand sid { k with eager := 0 }) sid
        match Tab.find s1.strands sid, findScope s1 k.ctx k.sc with
        | some k1, some r1 =>
          let k2 := (k1.setSt { k1.st with c := false }).parkIn (.close d)
          .next (returnShare ((s1.putScope (scopeKey k.ctx k.sc) { r1 with state := .emptying }).putStrand sid k2)
            k.ctx k.sc k.share)
        | _, _ => .next s1

/-- `SCANCEL` (R176): a stale handle and the context root are ignored. -/
def execScancel (h : Nat) (s : State) : Out :=
  issue (.scancel h) [h] [] s fun s sid k =>
    withClean s sid k [h] <|
      let x := k.nat h % 2 ^ 32
      match findScope s k.ctx x with
      | none => retire s sid k
      | some r =>
        if r.root && r.parent == 0 then retire s sid k
        else if x / 2 ^ 29 = dieOf k.core then .next (cancelScope (s.putStrand sid k.advance) k.ctx x)
        else .next ((s.putStrand sid k.advance).send (.cancel k.ctx x))

/-- A `SUCCEED` applied at the home (R177). -/
def succeedScope (s : State) (ctx h member : Nat) : State :=
  match findScope s ctx h with
  | none => s
  | some r =>
    if r.root && r.parent == 0 then s
    else if r.result = .ok ∧ (r.state = .open ∨ r.state = .emptying) then
      let r1 := { r with
        result := .succeeded, succeeder := member, state := if r.state = .open then .succeeded else r.state }
      let s1 := forwardCancel (markMembers (s.putScope (scopeKey ctx h) r1) ctx h (some member)) ctx r
      (descendants s1 ctx h).foldl (fun s d => cancelOne s ctx true d) s1
    else s

/-- `SUCCEED` (R177). -/
def execSucceed (s : State) : Out :=
  issue .succeed [] [] s fun s sid k =>
    .next (succeedScope (s.putStrand sid k.advance) k.ctx k.sc (strandHandle s k))

/-- `SHIELD` (R178). -/
def execShield (s : State) : Out :=
  issue .shield [] [] s fun s sid k =>
    if 15 ≤ k.st.sd then .next (trap s sid causeIllegal)
    else retire s sid (k.setSt { k.st with sd := k.st.sd + 1 })

/-- `UNSHIELD` (R178). -/
def execUnshield (s : State) : Out :=
  issue .unshield [] [] s fun s sid k =>
    if k.st.sd = 0 then .next (trap s sid causeIllegal)
    else retire s sid (k.setSt { k.st with sd := k.st.sd - 1 })

/-- `CPT` (R178). -/
def execCpt (s : State) : Out :=
  issue .cpt [] [] s fun s sid _ => atPoint s sid fun s k => retire s sid k

/-- The items of `SINFO` (Table 07-7). -/
def sinfoValue (r : Scope) (ext : Bool) (item : Nat) : Nat :=
  match item with
  | 0 => match r.state with
    | .open => 0
    | .cancelling => 1
    | .succeeded => 2
    | .emptying => 3
    | .closed => 3
  | 1 => resultWord r
  | 2 => r.parent
  | 3 => if r.root then 0 else r.opener
  | 4 => r.units
  | 5 => r.withheld
  | _ => r.selv.toNat + 2 * r.eager.toNat + 4 * r.root.toNat + 8 * ext.toNat +
      16 * (r.remotes.any fun p => p.2 != 0).toNat

/-- `SINFO` (R179): the record is used (R158), and what it says of the extension is where the use found it (log 79). -/
def execSinfo (d h item : Nat) (s : State) : Out :=
  issue (.sinfo d h item) [h] [d] s fun s sid k =>
    withClean s sid k [h] <|
      match findScope s k.ctx (k.nat h) with
      | some r =>
        let v := sinfoValue r (inExtension s (scopeKey k.ctx r.handle)) item
        retire (s.touchScope (scopeKey k.ctx r.handle)) sid (k.writeG d (BitVec.ofNat 64 v))
      | none => retire s sid (k.writeG d (if item = 0 then 4 else 0))

end Sys2Proof.Machine
end

