-- ==== Sys2Proof/Machine/Barriers.lean ====
section
/-! DEFINITION. Barriers, locks and waiting on addresses (R182 to R207, R353, R356), each operation performed whole at the
object's home (R184). -/

namespace Sys2Proof.Machine

/-! ### The object (Tables 08-1 and 08-2) -/

structure Bar where
  expected : Nat
  arrived : Nat
  short : Nat
  owner : Nat
  code : Nat
  hctx : Nat
  phase : Nat
  spare : Nat
  mode : Nat
  state : Nat
  deriving DecidableEq, Repr

def readBar (s : State) (key : Nat) : Bar :=
  let c := readNat s (key + 28) 4
  { expected := readNat s key 8
    arrived := readNat s (key + 8) 8
    short := readNat s (key + 16) 8
    owner := readNat s (key + 24) 4
    code := field c 28 4
    hctx := field c 22 6
    phase := field c 14 8
    spare := field c 5 9
    mode := field c 3 2
    state := field c 0 3 }

def Bar.control (b : Bar) : Nat :=
  b.code * 2 ^ 28 + b.hctx * 2 ^ 22 + b.phase * 2 ^ 14 + b.spare * 2 ^ 5 + b.mode * 2 ^ 3 + b.state

def Bar.bytes (b : Bar) : List Byte :=
  leBytes 8 b.expected ++ leBytes 8 b.arrived ++ leBytes 8 b.short ++ leBytes 4 b.owner ++ leBytes 4 b.control

def putBar (s : State) (key : Nat) (b : Bar) : State := putBytes s key b.bytes

/-- Table 08-3. -/
def Bar.valid (b : Bar) : Bool :=
  b.spare == 0 && (if b.mode < 2 then decide (b.state ≤ 5)
    else b.mode == 2 && (b.state == 0 || b.state == 4 || b.state == 5 || b.state == 6))

def maxN64 : Nat := 2 ^ 64 - 1

/-- The result of a transition, as `BWAIT` receives it (R193). -/
def Bar.result (b : Bar) : Nat := if b.state = 4 then b.code else if b.state = 3 then 0x100 else 0

/-! ### Waking (R192) -/

def genOf (s : State) (sid : Nat) : Nat := match Tab.find s.strands sid with
  | some k => k.gen
  | none => 0

/-- The clock of the home die of a byte of this package, which a reply from there carries (R218); none elsewhere. -/
def keyClock (s : State) (key : Nat) : List Nat :=
  if bufferBase ≤ key ∨ keyPackage s key ≠ s.pkg then []
  else clockOf s (if key < scratchBase then stackOf key (swizzleOf s key) else dieOf (keyCore key))

/-- Replies to every recorded waiter of a barrier. -/
def wakeAll (s : State) (key result : Nat) : State :=
  let ws := Tab.get s.sync.waiters key []
  ws.foldl (fun s w => s.send (.bwaitRet w.sid (genOf s w.sid) w.reg result (keyClock s key)))
    (s.setSync { s.sync with waiters := Tab.del s.sync.waiters key })

/-- Replies to every queued waiter of a lock. -/
def wakeQueue (s : State) (key code : Nat) : State :=
  let ws := Tab.get s.sync.queues key []
  ws.foldl (fun s w => s.send (.lockRet w.sid (genOf s w.sid) w.reg code (keyClock s key)))
    (s.setSync { s.sync with queues := Tab.del s.sync.queues key })

/-- Who acts on a barrier, for the fray log. -/
structure Actor where
  ctx : Nat
  scope : Nat
  addr : Nat
  deriving DecidableEq, Repr

def Bar.fill (b : Bar) (state : Nat) : Bar := { b with state := state }

/-- A barrier completes. -/
def completeBar (s : State) (key : Nat) (b : Bar) : State := wakeAll (putBar s key (b.fill 2)) key 0

/-- `fray_barrier` of R188, and of a lock (R202, R358); the first code is kept. -/
def frayBar (s : State) (key : Nat) (b : Bar) (c : Code) (who : Actor) : State :=
  if b.state = 4 then putBar s key b
  else
    let s1 := logFray s 0 c who.ctx who.scope who.addr 0
    if b.mode = 2 then
      let s2 := putBar s1 key { b with state := 4, code := c.toNat, arrived := 0, short := 0, hctx := 0 }
      wakeQueue (s2.setSync { s2.sync with
        holders := Tab.del s2.sync.holders key, donations := Tab.del s2.sync.donations key }) key c.toNat
    else wakeAll (putBar s1 key { b with state := 4, code := c.toNat }) key c.toNat

/-- `expect` (R187). -/
def expectBar (s : State) (key : Nat) (b : Bar) (n : Nat) (own : Option Code) (who : Actor) : State :=
  if b.state = 4 then s
  else match own with
    | some c => frayBar s key b c who
    | none =>
      let b1 :=
        if b.state = 0 ∨ b.state = 5 then { b with expected := n, state := 1 }
        else if b.state = 1 then { b with expected := Nat.min (b.expected + n) maxN64 }
        else { b with
          phase := (b.phase + 1) % 256, arrived := b.arrived - b.expected, expected := n, short := 0, state := 1 }
      if b1.expected ≤ b1.arrived then completeBar s key b1 else putBar s key b1

/-- `arrive` (R188). -/
def arriveBar (s : State) (key : Nat) (b : Bar) (n : Nat) (code : Option Code) (who : Actor) : State :=
  let b1 := { b with arrived := Nat.min (b.arrived + n) maxN64 }
  match code with
  | some c => frayBar s key b1 c who
  | none => if b1.state = 1 ∧ b1.expected ≤ b1.arrived then completeBar s key b1 else putBar s key b1

/-- A stopped engine operation marks its barrier (R190). -/
def shortBar (s : State) (key : Nat) (b : Bar) (done : Nat) : State :=
  if b.state = 0 ∨ b.state = 1 ∨ b.state = 5 then
    wakeAll (putBar s key { b with state := 3, short := done }) key 0x100
  else s

/-- An owner inside a selvedge: the walk from it reaches the selvedge (R352, R353). -/
def ownerInside (s : State) (ctx owner selv : Nat) : Bool :=
  (findScope s ctx owner).isSome && reaches s ctx (scopeFuel s) owner selv

/-- A signal of code `c` that must not be carried outward (R353). -/
def isOutside (s : State) (ctx owner selv : Nat) (shared : Bool) : Bool := shared || !ownerInside s ctx owner selv

/-! ### Locks (R200 to R203) -/

def priorityOf (s : State) (ctx : Nat) : Nat := match Tab.find s.ctxs ctx with
  | some c => c.prio
  | none => 0

/-- The waiter that a lock passes to: the highest priority, and among equals the first to arrive. -/
def headOf : List Waiter → Option Waiter
  | [] => none
  | w :: ws => match headOf ws with
    | none => some w
    | some v => if w.prio < v.prio then some v else some w

/-- The lock passes to the head of its queue, or becomes free (R201). -/
def passLock (s : State) (key : Nat) (b : Bar) : State :=
  let q := Tab.get s.sync.queues key []
  let s0 := s.setSync { s.sync with donations := Tab.del s.sync.donations key }
  match headOf q with
  | none =>
    putBar (s0.setSync { s0.sync with holders := Tab.del s0.sync.holders key }) key { b with state := 0, short := 0, hctx := 0 }
  | some w =>
    let h := match Tab.find s.strands w.sid with
      | some k => strandHandle s k
      | none => 0
    let s1 := s0.setSync { s0.sync with
      queues := Tab.put s0.sync.queues key (q.erase w), holders := Tab.put s0.sync.holders key w.sid }
    (putBar s1 key { b with short := h, hctx := w.sid / 32768 % 64, arrived := b.arrived - 1 }).send
      (.lockRet w.sid (genOf s w.sid) w.reg 0 (keyClock s key))

/-- The strand that holds a lock, and whether its context is switched out below a priority (R203). -/
def wantsDonation (s : State) (key prio : Nat) : Option (Nat × Nat) :=
  match Tab.find s.sync.holders key with
  | none => none
  | some sid => match Tab.find s.strands sid with
    | none => none
    | some k => if k.out ∧ priorityOf s k.ctx < prio then some (sid, k.ctx) else none

/-- A donation that stands is raised by a waiter of still higher priority; otherwise a donation event goes to the scheduling
core where one is due (R203). -/
def donate (s : State) (key prio : Nat) : State :=
  match Tab.find s.sync.donations key with
  | some (c, p) =>
    if p < prio then s.setSync { s.sync with donations := Tab.put s.sync.donations key (c, prio) } else s
  | none =>
    match wantsDonation s key prio with
    | none => s
    | some (sid, ctx) =>
      (s.setSync { s.sync with donations := Tab.put s.sync.donations key (ctx, prio) }).send (.donation key ctx prio sid)

/-- Locks held by strands that are now switched out, with waiters of higher priority queued (R203). -/
def donateHeld (s : State) (sids : List Nat) : State :=
  (s.sync.holders.filter fun p => sids.contains p.2).foldl (fun s p =>
    match headOf (Tab.get s.sync.queues p.1 []) with
    | some w => donate s p.1 w.prio
    | none => s) s

/-! ### Operations at the home -/

/-- What the home's operation does to the instruction that asked for it. -/
inductive HomeReply where
  /-- it completes, and an operand's fray taints the issuer -/
  | done (s : State) (own : Option Code)
  /-- it completes and fills g[d]; `taint` sets st.T and st.FC -/
  | fill (s : State) (d : Nat) (v : Word) (fray : Option Code) (taint : Option Code)
  /-- it parks; g[d] awaits the reply -/
  | park (s : State) (why : Park) (d : Nat)
  | trap (cause : Nat)
  | observe (c : Code)

def retCode (x : Nat) : Option Code := if x % 256 = 0 then none else some (BitVec.ofNat 4 x)

/-- A count or bytes barrier, or a lock, on which an operation of its family acts (R183). -/
def withBar (s : State) (l : Loc) (lock : Option Bool) (body : Bar → HomeReply) : HomeReply :=
  match (readLoc s l 32).code with
  | some c => .observe c
  | none =>
    let b := readBar s l.key
    if b.valid && (match lock with
      | none => true
      | some x => (b.mode == 2) == x) then body b
    else .trap causeStale

/-- `BINIT` (R196). -/
def initBar (s : State) (k : Strand) (l : Loc) (mode : Nat) : State :=
  let s1 := wakeQueue (wakeAll s l.key 5) l.key 5
  let s2 := s1.setSync { s1.sync with
    holders := Tab.del s1.sync.holders l.key, donations := Tab.del s1.sync.donations l.key }
  putBar s2 l.key ⟨0, 0, 0, k.sc % 2 ^ 32, 0, 0, 0, 0, mode, 0⟩

/-- `BARRIVE` at the home (R191, R197, R353). -/
def arriveAt (s : State) (k : Strand) (l : Loc) (b : Bar) (n : Nat) (own : Option Code) (who : Actor) : State :=
  let code := match own with
    | some c => some c
    | none => if k.st.t then some 9 else none
  match code with
  | none => arriveBar s l.key b n none who
  | some c =>
    let v := selvedgeOf s k.ctx k.sc
    if isOutside s k.ctx b.owner v l.shared then countWithheld s k.ctx v who.addr c
    else arriveBar s l.key b n (some c) who

/-- `UNLOCK` at the home (R201, R353). -/
def unlockAt (s : State) (k : Strand) (l : Loc) (b : Bar) (who : Actor) : HomeReply :=
  if b.state = 4 then .done s none
  else if b.state = 6 ∧ b.short = strandHandle s k ∧ b.hctx = k.ctx % 64 then
    if k.st.t then
      let v := selvedgeOf s k.ctx k.sc
      if isOutside s k.ctx b.owner v l.shared then .done (countWithheld (passLock s l.key b) k.ctx v who.addr 9) none
      else .done (frayBar s l.key b 9 who) none
    else .done (passLock s l.key b) none
  else .trap causeIllegal

/-- `LOCK` at the home, in the order of R200's procedure. -/
def lockAt (s : State) (sid : Nat) (k : Strand) (l : Loc) (b : Bar) (d : Nat) : HomeReply :=
  if b.state = 4 then .fill s d (BitVec.ofNat 64 b.code) none (retCode b.code)
  else if b.short = strandHandle s k ∧ b.hctx = k.ctx % 64 then .trap causeIllegal
  else if b.state = 0 ∨ b.state = 5 then
    let s1 := s.setSync { s.sync with holders := Tab.put s.sync.holders l.key sid }
    .fill (putBar s1 l.key { b with state := 6, short := strandHandle s k, hctx := k.ctx % 64 }) d 0 none none
  else
    let p := priorityOf s k.ctx
    let s1 := s.setSync { s.sync with
      queues := Tab.put s.sync.queues l.key (Tab.get s.sync.queues l.key [] ++ [⟨sid, d, p⟩]) }
    .park (donate (putBar s1 l.key { b with arrived := b.arrived + 1 }) l.key p) (.lock d) d

/-- The monitor table of a doubleword's home die is full (R204). -/
def monitorsFull (s : State) (l : Loc) : Bool :=
  decide (4096 ≤ (s.sync.monitors.filter fun m => !m.poll && m.loc.pkg == l.pkg && m.loc.die == l.die).length)

/-- What a `WAITA` returns from a read of its doubleword: a poisoned word is frayed with its code, and otherwise a frayed
operand frays the result (R98, R205). -/
def waitaCode (r : Rd) (own : Option Code) : Option Code := match r.code with
  | some c => some c
  | none => own

/-- The first read of a `WAITA` at the home (R204, R205): it returns, or registers and parks; a frayed operand taints its issuer only
when it returns, since a cancel may still leave it without effect (R98, R194). -/
def waitaAt (s : State) (sid : Nat) (l : Loc) (ptr d y : Nat) (own : Option Code) : HomeReply :=
  let r := readLoc s l 8
  if r.code.isSome || leNat r.bytes != y then
    .fill s d (BitVec.ofNat 64 (leNat r.bytes)) (waitaCode r own) own
  else
    let full := monitorsFull s l
    let s1 := s.setSync { s.sync with monitors := s.sync.monitors ++ [⟨sid, ptr, l, d, y, own, full, .no⟩] }
    .park (s1.modStrand sid fun k => k.setSt { k.st with p := full }) (.waita d) d

/-- The first `n` of a list, all of it for 0 (R206). -/
def firstOf (n : Nat) (ms : List Monitor) : List Monitor := if n = 0 then ms else ms.take n

/-- `WAKEA` at the home (R206): waiters in order of registration, those that a write has woken among them (R207). -/
def wakeaAt (s : State) (key n : Nat) : State :=
  (firstOf n (s.sync.monitors.filter fun m => m.loc.key == key && m.woken != .byWakea)).foldl
    (fun s m => wakeWaita s m .byWakea) s

/-- `MENDB` at the home (R356). -/
def mendBar (s : State) (key : Nat) (b : Bar) : State :=
  if b.state = 4 then
    putBar s key { b with
      expected := 0, arrived := 0, short := 0, code := 0, hctx := 0, phase := (b.phase + 1) % 256, state := 5 }
  else s

/-- One barrier operation performed whole at the home (R184). -/
def atHome (s : State) (sid : Nat) (k : Strand) (op : BarOp) (l : Loc) (addr : Nat) : HomeReply :=
  let who : Actor := ⟨k.ctx, k.sc % 2 ^ 32, addr⟩
  match op with
  | .init m => .done (initBar s k l m) none
  | .expect n own => withBar s l (some false) fun b => .done (expectBar s l.key b n own who) own
  | .arrive n own => withBar s l (some false) fun b => .done (arriveAt s k l b n own who) own
  | .wait d => withBar s l (some false) fun b =>
    if 2 ≤ b.state ∧ b.state ≤ 4 then .fill s d (BitVec.ofNat 64 b.result) none (retCode b.result)
    else .park (s.setSync { s.sync with
      waiters := Tab.put s.sync.waiters l.key (Tab.get s.sync.waiters l.key [] ++ [⟨sid, d, 0⟩]) }) (.bwait d) d
  | .test d =>
    match (readLoc s l 32).code with
    | some c => .fill s d (BitVec.ofNat 64 (readNat s (l.key + 28) 4)) (some c) none
    | none => withBar s l (some false) fun b => .fill s d (BitVec.ofNat 64 b.control) none none
  | .lock d => withBar s l (some true) fun b => lockAt s sid k l b d
  | .unlock => withBar s l (some true) fun b => unlockAt s k l b who
  | .mend => withBar s l none fun b => .done (mendBar s l.key b) none
  | .fray => withBar s l none fun b => .done (frayBar s l.key b 5 who) none
  | .waita d y own => waitaAt s sid l addr d y own
  | .wakea n own => .done (wakeaAt s l.key n) own

/-- The operation's reply reaches the strand. A strand that has been marked when it would park starts again (R194). -/
def finishHome (s : State) (sid : Nat) : HomeReply → State
  | .done s1 own => s1.modStrand sid fun k => (match own with
      | some c => k.taint c
      | none => k).advance
  | .fill s1 d v fr taint => s1.modStrand sid fun k =>
      let k1 := match taint with
        | some c => k.taint c
        | none => k
      (match fr with
        | some c => k1.setG d (.frayed v c)
        | none => k1.writeG d v).advance
  | .park s1 why d =>
    match Tab.find s1.strands sid with
    | none => s1
    | some k =>
      if k.st.c ∧ k.st.sd = 0 then
        (withdraw s1 sid).putStrand sid { (k.rewind.setSt { k.st with p := false }) with
          stall := .none, recheck := true, again := false }
      else s1.putStrand sid { (k.await d).parkIn why with again := false }
  | .trap c => trap (s.modStrand sid fun k => { k with stall := .none }) sid c
  | .observe c => observeFray (s.modStrand sid fun k => { k with stall := .none }) sid c

/-- What a barrier instruction over a dead path meets (R423, R424, R207). -/
def overDead (s : State) (k : Strand) (op : BarOp) (l : Loc) (addr : Nat) : HomeReply :=
  let gone := s.modStrand (k.ctx * 32768 + k.entry) fun k =>
    if k.lost.contains l.pkg then k else { k with lost := l.pkg :: k.lost }
  match op with
  | .wait d => .fill s d 3 none (some 3)
  | .lock d => .fill s d 3 none (some 3)
  | .test d => .fill s.nextFree d s.free (some 3) none
  | .waita d _ own => .fill s.nextFree d s.free (some 3) own
  | .arrive n own =>
    let a : Arrival := {
      ctx := k.ctx, ptr := addr, bytes := n, n := n, code := 3, tainted := l.shared, selvedge := selvedgeOf s k.ctx k.sc
      short := none, op := l.key, done := 0, scope := k.sc, final := true, share := none, firm := false }
    let e := match Tab.find s.links.paths l.pkg with
      | some p => p.epoch + 1
      | none => 1
    .done (s.send (.frayNotice a l.pkg e)) own
  | .expect _ own => .done gone own
  | .wakea _ own => .done gone own
  | _ => .done gone none

/-- The bytes that an operation reads at the home. -/
def BarOp.reads : BarOp → Nat
  | .init _ => 0
  | .wakea _ _ => 0
  | .waita _ _ _ => 8
  | _ => 32

/-- An operation performed at an object whose path is open: the read of the object is checked (R29, R32), and what the home
has seen the issuer's die has seen from now on (R218). -/
def perform (s : State) (sid : Nat) (k : Strand) (op : BarOp) (l : Loc) (addr : Nat) : State :=
  let s1 := learn (noteLoc s k.ctx l op.reads) (dieOf k.core) l
  let reply := atHome s1 sid k op l addr
  let s2 := finishHome s1 sid reply
  -- a `BWAIT`, `BTEST`, `LOCK` or `WAITA` that ends so at another package acquires at `.sys` (R228)
  match reply with
  | .fill _ _ _ _ _ => if l.pkg = s.pkg then s2 else acquireSys s2 (clusterOf k.core)
  | _ => s2

/-- The issue of a barrier instruction (R184): at an object of the issuer's own die it is performed at once; otherwise the
slot stalls until the home's reply. -/
def barrierOp (s : State) (sid : Nat) (k : Strand) (op : BarOp) (a width need : Nat) (release : Bool) : Out :=
  withClean s sid k [a] <|
    let ptr := k.nat a
    let k1 := { k with again := true }
    withAccess s sid k1 ptr width width need false fun way =>
      let l := way.loc
      let far := match way with
        | .here l => l.die != dieOf k.core
        | .request _ => true
      if release && !releaseReady s sid k (if l.pkg = s.pkg then 3 else 4) then .next (s.putStrand sid (k1.wait .request))
      else if release && l.pkg != s.pkg && lostAny k then
        .next (observeFray (s.putStrand sid { k with lost := [] }) sid 3)
      else if !pathOpen s l.pkg then .next (finishHome s sid (overDead s k op l ptr))
      else if far then
        .next ((s.putStrand sid { k1 with stall := .home }).send (.barrier sid op l ptr))
      else .next (perform s sid k op l ptr)

def needBar : Nat := 3

/-- `BINIT.count` (R196). -/
def execBinitCount (a : Nat) (s : State) : Out :=
  issue (.binitCount a) [a] [] s fun s sid k => barrierOp s sid k (.init 0) a 32 needBar false

/-- `BINIT.bytes` (R196). -/
def execBinitBytes (a : Nat) (s : State) : Out :=
  issue (.binitBytes a) [a] [] s fun s sid k => barrierOp s sid k (.init 1) a 32 needBar false

/-- `BINIT.lock` (R196). -/
def execBinitLock (a : Nat) (s : State) : Out :=
  issue (.binitLock a) [a] [] s fun s sid k => barrierOp s sid k (.init 2) a 32 needBar false

/-- The fray code of an operand register. -/
def ownCode (k : Strand) (b : Nat) : Option Code := firstFray k [b]

/-- `BEXPECT` (R187, R197). -/
def execBexpect (a b : Nat) (s : State) : Out :=
  issue (.bexpect a b) [a, b] [] s fun s sid k =>
    barrierOp s sid k (.expect (k.nat b) (ownCode k b)) a 32 needBar false

/-- `BARRIVE` (R188, R197). -/
def execBarrive (a b : Nat) (s : State) : Out :=
  issue (.barrive a b) [a, b] [] s fun s sid k =>
    barrierOp s sid k (.arrive (k.nat b) (ownCode k b)) a 32 needBar true

/-- `BWAIT` (R198). -/
def execBwait (d a : Nat) (s : State) : Out :=
  issue (.bwait d a) [a] [d] s fun s sid _ => atPoint s sid fun s k => barrierOp s sid k (.wait d) a 32 needBar false

/-- `BTEST` (R199). -/
def execBtest (d a : Nat) (s : State) : Out :=
  issue (.btest d a) [a] [d] s fun s sid k => barrierOp s sid k (.test d) a 32 needRd false

/-- `LOCK` (R200). -/
def execLock (d a : Nat) (s : State) : Out :=
  issue (.lock d a) [a] [d] s fun s sid _ => atPoint s sid fun s k => barrierOp s sid k (.lock d) a 32 needBar false

/-- `UNLOCK` (R201). -/
def execUnlock (a : Nat) (s : State) : Out :=
  issue (.unlock a) [a] [] s fun s sid k => barrierOp s sid k .unlock a 32 needBar true

/-- The registration of a strand whose `WAITA` has been woken. -/
def wokenWaita (s : State) (sid : Nat) : Option Monitor :=
  s.sync.monitors.find? fun m => m.sid == sid && m.woken != .no

/-- A `WAITA` ends (R204): its registration is freed and st.P cleared; a frayed operand taints it (R98). -/
def endWaita (s : State) (m : Monitor) (k : Strand) (v : Word) (fr : Option Code) : State :=
  let k0 := match m.own with
    | some c => k.taint c
    | none => k
  let k1 := match fr with
    | some c => k0.setG m.reg (.frayed v c)
    | none => k0.writeG m.reg v
  (s.setSync { s.sync with monitors := s.sync.monitors.filter fun x => x.sid != m.sid }).putStrand m.sid
    { (k1.advance.setSt { k1.st with p := false }) with phase := .running }

/-- A home can perform a request for `n` bytes from a die now: the scratchpad's bank and region (R31, R34), the row (R364), and
the writes that the die's clock covers (R224). -/
def homeServes (s : State) (die : Nat) (l : Loc) (n : Nat) : Bool :=
  (decide (l.key < scratchBase) || requestReady s l.key n) && !rowBusy s l && landed s die l

/-- A woken `WAITA` re-reads its doubleword (R205), through the leaf its page has now (R376): a wake by `WAKEA` ends it, a write
only if the word is now another; a cancel that has come meanwhile is acted on (Table 08-8). -/
def rereadWaita (s : State) (sid : Nat) (k : Strand) (m : Monitor) : Out :=
  if k.st.c ∧ k.st.sd = 0 then
    .next (cancelPoint (endWait (withdraw s sid) sid m.reg (k.setSt { k.st with p := false })) sid).1
  else match translate s k m.ptr needRd with
    | .miss va => .next (s.putStrand sid { k with stall := .walk va needRd })
    | .at l =>
      if homeServes s (dieOf k.core) l 8 && !(isSpread m.ptr && padDeferred s k m.ptr) then
        let s1 := learn (noteLoc s k.ctx l 8) (dieOf k.core) l
        let r := readLoc s1 l 8
        if r.code.isSome || leNat r.bytes != m.val || m.woken == .byWakea then
          let s2 := if l.pkg = s.pkg then s1 else acquireSys s1 (clusterOf k.core)
          .next (endWaita s2 m k (BitVec.ofNat 64 (leNat r.bytes)) (waitaCode r m.own))
        else
          .next ((s1.setSync { s1.sync with monitors := s1.sync.monitors.map fun x =>
            if x.sid = sid then { x with loc := l, woken := .no } else x }).putStrand sid (k.parkIn (.waita m.reg)))
      else .next (s.putStrand sid { k with stall := .request })

/-- A `WAITA` whose re-read finds its page without the right or gone observes that instead of ending (R205, R374). -/
def abandonWaita (s : State) (sid : Nat) : State := match s.sync.monitors.find? fun m => m.sid == sid with
  | none => s
  | some m => (withdraw s sid).modStrand sid fun k => (k.unawait m.reg).setSt { k.st with p := false }

/-- `WAITA` (R205). -/
def execWaita (d a b : Nat) (s : State) : Out :=
  match (s.cur.bind fun sid => (Tab.find s.strands sid).bind fun k => (wokenWaita s sid).map fun m => (sid, k, m)) with
  | some (sid, k, m) => rereadWaita s sid k m
  | none =>
    issue (.waita d a b) [a, b] [d] s fun s sid _ =>
      atPoint s sid fun s k => barrierOp s sid k (.waita d (k.nat b) (ownCode k b)) a 8 needRd false

/-- `WAKEA` (R206). -/
def execWakea (a b : Nat) (s : State) : Out :=
  issue (.wakea a b) [a, b] [] s fun s sid k =>
    barrierOp s sid k (.wakea (k.nat b) (ownCode k b)) a 8 needRd true

/-- `MENDB` (R356). -/
def execMendb (a : Nat) (s : State) : Out :=
  issue (.mendb a) [a] [] s fun s sid k => barrierOp s sid k .mend a 32 needBar false

/-- What was still to be written in a lock is written (R194, R202). An object that holds poison or an uncorrectable word, or is no lock
any more, stays as it is: no data of it is taken for sound (R29); its queued waiters are answered 9 all the same (DESIGN CHOICE, log
87). -/
def finishLock (s : State) (ctx scope key : Nat) (fray : Bool) : State :=
  if fray then
    let s1 := noteDamage s ctx key 32
    let b := readBar s1 key
    if (readAt s1 key 32).code.isSome || !b.valid || b.mode != 2 then
      wakeQueue (s1.setSync { s1.sync with donations := Tab.del s1.sync.donations key }) key 9
    else frayBar s1 key b 9 ⟨ctx, scope, key⟩
  else countLess s ctx key

/-- BARRIER_HOME_OPERATION (R184): a request on its way is performed at the object's home, once its bank or die can serve
it; over a path that has died it is lost. -/
def execBarrierHomeOperation (id : Nat) (s : State) : Out :=
  match Tab.find s.flights id with
  | some (.barrier sid op l addr) =>
    match Tab.find s.strands sid with
    | none => .next (s.delFlight id)
    | some k =>
      let s1 := s.delFlight id
      if !pathOpen s l.pkg then .next (finishHome s1 sid (overDead s1 k op l addr))
      else if homeServes s (dieOf k.core) l 32 then
        .next (perform s1 sid k op l addr)
      else .next s
  | some (.lockUpdate ctx scope key fray) =>
    if keyServes s key 32 then .next (finishLock (s.delFlight id) ctx scope key fray) else .next s
  | _ => .next s

/-- A core's die learns what a reply's home has seen (R218); a reply from another package acquires at `.sys` (R228). -/
def hear (s : State) (core : Nat) (vec : List Nat) : State :=
  if vec.isEmpty then acquireSys s (clusterOf core) else raiseClock s (dieOf core) vec

/-- A reply's code taints the strand and its result fills g[d]; the instruction is over (R193, R200). -/
def Strand.replyTo (k : Strand) (d result : Nat) : Strand :=
  let k1 := match retCode result with
    | some c => k.taint c
    | none => k
  { (k1.writeG d (BitVec.ofNat 64 result)).advance with phase := .running }

/-- A reply to a parked `BWAIT` (R193); one that has been withdrawn takes none. -/
def bwaitReply (s : State) (sid gen d result : Nat) (vec : List Nat) : State := match Tab.find s.strands sid with
  | some k => if k.gen = gen ∧ k.phase = .parked (.bwait d) then (hear s k.core vec).putStrand sid (k.replyTo d result) else s
  | none => s

/-- BWAIT_REPLY (R193, R198): a switched-out strand's is spilled (R389). -/
def execBwaitReply (id : Nat) (s : State) : Out :=
  match Tab.find s.flights id with
  | some (.bwaitRet sid gen d result vec) =>
    let s1 := s.delFlight id
    match Tab.find s.strands sid with
    | some k => if k.out ∧ k.gen = gen then .next (spillTo s1 sid k (.bwait gen d result vec)) else .next (bwaitReply s1 sid gen d result vec)
    | none => .next s1
  | _ => .next s

/-- LOCK_GRANT (R200): a grant stands whatever cancel has come (Table 08-8), and is recorded in a switched-out strand's image at
once (R396). -/
def execLockGrant (id : Nat) (s : State) : Out :=
  match Tab.find s.flights id with
  | some (.lockRet sid gen d code vec) =>
    let s1 := s.delFlight id
    match Tab.find s.strands sid with
    | some k =>
      if k.gen = gen ∧ k.phase = .parked (.lock d) then .next ((hear s1 k.core vec).putStrand sid (k.replyTo d code)) else .next s1
    | none => .next s1
  | _ => .next s

/-- Where an overflow waiter's doubleword stands now: by its spread pointer, or through its context's page (R204, R376). -/
def polledAt (s : State) (k : Strand) (m : Monitor) : Option Loc :=
  if isSpread m.ptr then some (scratchLoc k.ctx m.ptr)
  else
    let va := virtAddr (segsOf s k.ctx k.core) m.ptr
    (findPage s k.ctx va).bind fun p =>
      if leafState p.2.leaf = 1 ∨ leafState p.2.leaf = 4 ∨ leafState p.2.leaf = 5 then some (pageLoc p.2.leaf va) else none

/-- WAITA_POLL (R204): an overflow waiter re-reads; a changed value is a write wake. One whose page has no frame waits with it. -/
def execWaitaPoll (sid : Nat) (s : State) : Out :=
  match s.sync.monitors.find? fun m => m.sid == sid && m.poll && m.woken == .no, Tab.find s.strands sid with
  | some m, some k => match polledAt s k m with
    | none => .next s
    | some l =>
      if homeServes s (dieOf k.core) l 8 then
        let s1 := learn (noteLoc s k.ctx l 8) (dieOf k.core) l
        let r := readLoc s1 l 8
        .next (if r.code.isSome || leNat r.bytes != m.val then wakeWaita s1 m .byWrite else s1)
      else .next s
  | _, _ => .next s

end Sys2Proof.Machine
end

