-- ==== Sys2Proof/Machine/VectorMem.lean ====
section
/-! DEFINITION. Vector loads and stores (R262 to R267) and the check against a bound register (R266, R361). -/

namespace Sys2Proof.Machine

/-! ### Bounds (R361) -/

/-- What a bound check lets a write-back do. -/
inductive BoundWrite where
  | write (x : Nat)
  /-- poison with code 4; whether it counts as a violation under flag mode (R363) -/
  | poison (flag : Bool)
  /-- the trap of mode 2 -/
  | fail
  deriving DecidableEq, Repr

/-- A bound register without a preset (R359). -/
def Bound.default : Bound := ⟨0xFF800000, 0x7F800000, 0, 0⟩

def boundOf (s : State) (core b : Nat) : Bound :=
  match Tab.find s.cores core with
  | some c => Tab.get c.bounds (b % 16) Bound.default
  | none => Bound.default

/-- `bound_check` of an element of a format (R361): the element is compared as its exact FP32 value. -/
def boundCheck (f : Fp.Fmt) (b : Bound) (x : Nat) : BoundWrite :=
  let v := Fp.value f x
  let lo := Fp.value Fp.fp32 b.low
  let hi := Fp.value Fp.fp32 b.high
  let nan := Fp.isNaN v || Fp.isNaN lo || Fp.isNaN hi
  if !nan && decide (Fp.compareVal lo v ≤ 0) && decide (Fp.compareVal v hi ≤ 0) then .write x
  else if b.mode = 0 then .poison true
  else if b.mode = 1 then
    if nan then .poison false
    else .write (Fp.deliver f 0 0 (if Fp.compareVal v lo < 0 then lo else hi)).1
  else .fail

/-- The one log entry of an instruction that wrote poison under flag mode (R361, R363). -/
def logBound (s : State) (k : Strand) (b : Bound) (n addr : Nat) : State :=
  if n = 0 then s else logFray s 4 4 k.ctx (k.sc % 2 ^ 32) addr (b.tag * 2 ^ 32 + n)

/-! ### Elements (R262 to R264) -/

/-- The size of a buffer by its code of Table 15-1. -/
def bufferSize (buf : Nat) : Nat := if buf = 1 then 2 ^ 18 else if buf = 2 then 2 ^ 17 else 2 ^ 16

/-- The address of an element: a pointer for space 0, an offset for a buffer (R262), which is taken modulo 2^64 before its check (DESIGN
CHOICE: R262 does not say whether the sum wraps, log 91). -/
def elementAddr (space base : Nat) (disp : Int) : Nat :=
  if space = 0 then addp base disp else unsigned 64 ((base : Int) + disp)

/-- The trap that an element's address raises (R263): segment or buffer before alignment. -/
def elementTrap (s : State) (k : Strand) (space need n addr : Nat) : Option Nat :=
  if space = 0 then
    if strandCheck s k addr n need = false then some causeSegment
    else if addr % n ≠ 0 then some causeAlignment else none
  else if bufferSize (space + 1) < addr + n then some causeBuffer
  else if addr % n ≠ 0 then some causeAlignment else none

/-- The first trap in lane order. -/
def firstTrap (s : State) (k : Strand) (space need n : Nat) : List (Nat × Nat) → Option Nat
  | [] => none
  | e :: es => match elementTrap s k space need n e.2 with
    | some c => some c
    | none => firstTrap s k space need n es

/-- What the translation of all elements finds. -/
inductive Elements where
  | at (ls : List (Nat × Loc))
  | miss (va : Nat)
  deriving DecidableEq, Repr

/-- The places of the elements, in lane order; the first that has none decides (R264). -/
def placeElements (s : State) (k : Strand) (space need : Nat) : List (Nat × Nat) → Elements
  | [] => .at []
  | (i, a) :: es =>
    if space = 0 then
      match translate s k a need with
      | .miss va => .miss va
      | .at l => match placeElements s k space need es with
        | .at ls => .at ((i, l) :: ls)
        | r => r
    else
      match placeElements s k space need es with
      | .at ls => .at ((i, ⟨bufferKey k.ctx (quadOf k.core) (space + 1) a, s.pkg, dieOf k.core, false, false, 0⟩) :: ls)
      | r => r

/-- A matrix operation of the strand's gang in its quad that issued 16 virtual cycles ago has still to be performed: a read of the
quad's buffers returns what it writes (R221). -/
def mvuLate (s : State) (k : Strand) : Bool := match virtualIssue s k with
  | none => false
  | some v => (mvuOps s).any fun p => p.1 == quadOf k.core && (match p.2.at_ with
    | some u => u.gang == v.gang && decide (u.cycle + 16 ≤ v.cycle)
    | none => false)

/-- An element lies in another core's scratchpad or in another package: it travels as a remote request (R19, R264). -/
def remoteElement (s : State) (k : Strand) (l : Loc) : Bool :=
  l.pkg != s.pkg || decide (scratchBase ≤ l.key ∧ l.key < bufferBase) && keyCore l.key != homeCore s k.ctx k.core

/-- An element can be performed, or set out, now (R31, R33, R34, R213, R221, R224). -/
def elementReady (s : State) (sid : Nat) (k : Strand) (space need n : Nat) (l : Loc) : Bool :=
  if space != 0 then
    bufferReady s k.ctx (quadOf k.core) (space + 1) (l.key % 2 ^ 18) n && !(bitOf need 0 && mvuLate s k)
  else if scratchBase ≤ l.key then
    if remoteElement s k l then farClear s sid l need
    else padReady s k.ctx (keyCore l.key) (l.key % 2 ^ 16) n true && !padDeferred s k (l.key - scratchBase) && landed s (dieOf k.core) l
  else placeReady s sid k l n need

/-- The writes of a vector store to other dies find room for their stamps, and those to the own die that other dies' lines meet for the
stamps of their invalidations (R223). -/
def elementRoom (s : State) (k : Strand) (need : Nat) (ls : List (Nat × Loc)) : Bool :=
  !bitOf need 1 ||
    stampRoom s (dieOf k.core)
      (ls.filter fun e => e.2.pkg == s.pkg && (e.2.die != dieOf k.core || lineHeld s (fun _ => true) e.2.key 8)).length

/-- The active elements of an instruction: lane and address. -/
def elements (k : Strand) (m t space base : Nat) (disp : Nat → Int) : List (Nat × Nat) :=
  ((List.range (lanes t)).filter (active k m t)).map fun i => (i, elementAddr space base (disp i))

/-- The flow that every vector access shares (R263, R264): the checks of all elements, their translation, and the wait
until each can be performed; `more` are checks of the instruction's own, after these and before any access: a bound trap of R266 comes
after the translation of the elements, and after any translation fault (DESIGN CHOICE: R266 does not order the two, log 89). -/
def vectorAccess (s : State) (sid : Nat) (k : Strand) (space need n : Nat) (es : List (Nat × Nat)) (more : Option Nat)
    (body : List (Nat × Loc) → Out) : Out :=
  match firstTrap s k space need n es with
  | some c => .next (trap s sid c)
  | none =>
    if memBusy s sid || (space != 0 && !mvuClear s sid k) then .next (s.putStrand sid (k.wait .request))
    else
      match placeElements s k space need es with
      | .miss va => .next (s.putStrand sid { k with stall := .walk va need })
      | .at ls =>
        if (ls.all fun e => elementReady s sid k space need n e.2) && elementRoom s k need ls then
          match more with
          | some c => .next (trap s sid c)
          | none => body ls
        else .next (s.putStrand sid (k.wait .request))

/-! ### Loads -/

/-- A vector load as it issues: the state, the lanes read, and those that travel, with their addresses. -/
abbrev Gather := State × Tab (Nat × Option Code) × List (Nat × Nat)

/-- One element: from a line of the cluster's cache, read at once in the own package, or left to travel (R19, R26, R264). -/
def loadElement (k : Strand) (n : Nat) (r : Gather) (e : Nat × Loc) : Gather :=
  let s := r.1
  match cacheHit s (clusterOf k.core) e.2 n with
  | some x => (s.nextFree, Tab.put r.2.1 e.1 (leNat (x.read e.2.key n).bytes, (x.read e.2.key n).code), r.2.2)
  | none =>
    if remoteElement s k e.2 then (s.nextFree, r.2.1, r.2.2 ++ [(e.1, e.2.key)])
    else
      let d := readLoc s e.2 n
      let s1 := afterRead (learn (noteLoc s k.ctx e.2 n) (dieOf k.core) e.2) (clusterOf k.core) k.ctx e.2
      (s1.nextFree, Tab.put r.2.1 e.1 (leNat d.bytes, d.code), r.2.2)

/-- A vector load of the elements (R262, R265): one that has all of them at once writes its register, a gang member's at its due cycle
(R293); the rest of another travels, in an order that the turn chooses (R264, log 16). -/
def vectorLoad (s : State) (sid : Nat) (k : Strand) (d t : Nat) (ls : List (Nat × Loc)) : Out :=
  let r := ls.foldl (loadElement k (typeWidth t / 8)) (s, [], [])
  match r.2.2, dueOf s k with
  | [], none => .next (r.1.putStrand sid (k.setV d (vecResult (k.v d) t r.2.1)).advance)
  | _, due => .next (sendVector (r.1.putStrand sid k.advance) sid k.gen d t r.2.1 (rotateList s.pick r.2.2) (virtualIssue s k) due)

/-! ### Stores -/

/-- What one element of a store writes: its bytes, or poison. -/
abbrev Element := List Byte × Option Code

/-- An element whose location a later lane writes too. -/
def overwritten : List (Nat × Loc) → List (Nat × Loc)
  | [] => []
  | e :: ls => if ls.any fun x => x.2.key == e.2.key then e :: overwritten ls else overwritten ls

/-- The order of a store's elements, which are unordered but for one location's, in lane order (R264): poison that a later
lane overwrites, the clean elements, and the other poison, which so covers every unit that its elements touch (R265,
log 64). -/
def storeOrder (val : Nat → Element) (ls : List (Nat × Loc)) : List (Nat × Loc) :=
  let old := (overwritten ls).map (·.1)
  let bad := ls.filter fun e => (val e.1).2.isSome
  (bad.filter fun e => old.contains e.1) ++ (ls.filter fun e => (val e.1).2.isNone) ++ bad.filter fun e => !old.contains e.1

/-- One element of a vector store sets out: on the own die a write to another core's scratchpad is a request that is performed there
(R19, R34), and a gang member's write to a scratchpad or buffer is performed after its virtual cycle (R221); every other of the own die
is performed at once (log 42). -/
def storeElement (s : State) (sid : Nat) (k : Strand) (l : Loc) (w : MemWrite) : State :=
  if l.pkg = s.pkg ∧ l.die = dieOf k.core ∧ scratchBase ≤ w.key then
    if (vccOf s k).isSome || remoteElement s k l then s.send (.remoteStore sid k.gen w (virtualIssue s k)) else writeHome s w
  else issueWrite s sid (dieOf k.core) l w

/-- The elements of a store written (R264, R265). -/
def vectorStore (s : State) (sid : Nat) (k : Strand) (val : Nat → Element) (ls : List (Nat × Loc)) : State :=
  (storeOrder val ls).foldl (fun s e => storeElement s sid k e.2 ⟨e.2.key, (val e.1).1, (val e.1).2⟩) s

/-- A vector store of register d without a bound (R265). -/
def storeLanes (s : State) (sid : Nat) (k : Strand) (d m t : Nat) (ls : List (Nat × Loc)) : Out :=
  let x := k.v d
  let n := typeWidth t / 8
  let val := fun i => (leBytes n (lane x t i), if laneFrayed x t i then some x.code else none)
  let k1 := if someLane t (active k m t) x then k.taint x.code else k
  .next (vectorStore (s.putStrand sid k1.advance) sid k val ls)

/-- A vector access of unit stride, of a stride, or by indices: `disp` gives the displacements (R262). -/
def vmem (i : Instr) (isStore : Bool) (d a m t space : Nat) (vs reads : List Nat) (disp : Strand → Nat → Int) (s : State) : Out :=
  issueV i (d :: vs) reads [] s fun s sid k =>
    withClean s sid k reads <|
      let idx := vs.filter fun v => someLane t (active k m t) (k.v v)
      match idx with
      | v :: _ => .next (observeFray s sid (k.v v).code)
      | [] =>
        let n := typeWidth t / 8
        let es := elements k m t space (k.nat a) (disp k)
        vectorAccess s sid k space (if isStore then needWr else needRd) n es none fun ls =>
          if isStore then storeLanes s sid k d m t ls else vectorLoad s sid k d t ls

/-- The displacement of lane i at unit stride. -/
def unitStride (t : Nat) (_ : Strand) (i : Nat) : Int := (i * (typeWidth t / 8) : Nat)
/-- The displacement of lane i at the stride in a register. -/
def byStride (b : Nat) (k : Strand) (i : Nat) : Int := (i : Int) * (k.val b).toInt
/-- The displacement of lane i by its index. -/
def byIndex (b t : Nat) (k : Strand) (i : Nat) : Int :=
  signed (typeWidth t) (lane (k.v b) t i) * (typeWidth t / 8 : Nat)

/-- `VLD` (R262). -/
def execVld (d a m t sp : Nat) (s : State) : Out :=
  vmem (.vld d a m t sp) false d a m t sp [] [a] (unitStride t) s

/-- `VST` (R262). -/
def execVst (d a m t sp : Nat) (s : State) : Out :=
  vmem (.vst d a m t sp) true d a m t sp [] [a] (unitStride t) s

/-- `VLDS` (R262). -/
def execVlds (d a b m t sp : Nat) (s : State) : Out :=
  vmem (.vlds d a b m t sp) false d a m t sp [] [a, b] (byStride b) s

/-- `VSTS` (R262). -/
def execVsts (d a b m t sp : Nat) (s : State) : Out :=
  vmem (.vsts d a b m t sp) true d a m t sp [] [a, b] (byStride b) s

/-- `VGATH` (R262). -/
def execVgath (d a b m t sp : Nat) (s : State) : Out :=
  vmem (.vgath d a b m t sp) false d a m t sp [b] [a] (byIndex b t) s

/-- `VSCAT` (R262). -/
def execVscat (d a b m t sp : Nat) (s : State) : Out :=
  vmem (.vscat d a b m t sp) true d a m t sp [b] [a] (byIndex b t) s

/-- `VST.bnd` (R266): every element is computed and checked before any is written. The address in its log entry is that of the first
active element (DESIGN CHOICE, log 65). -/
def execVstBnd (d a b m t sp : Nat) (s : State) : Out :=
  issueV (.vstBnd d a b m t sp) [d] [a] [] s fun s sid k =>
    withClean s sid k [a] <|
      let n := typeWidth t / 8
      let es := elements k m t sp (k.nat a) (unitStride t k)
      let x := k.v d
      let bd := boundOf s k.core b
      let chk := fun i => if laneFrayed x t i then BoundWrite.write (lane x t i) else boundCheck (fmtOf t) bd (lane x t i)
      let failed := es.any fun e => chk e.1 == .fail
      let flagged := (es.filter fun e => chk e.1 == .poison true).length
      vectorAccess s sid k sp needWr n es (if failed then some causeBound else none) fun ls =>
        let val : Nat → Element := fun i =>
          if laneFrayed x t i then (leBytes n (lane x t i), some x.code)
          else match chk i with
            | .write y => (leBytes n y, none)
            | _ => (leBytes n 0, some 4)
        let k1 := if someLane t (active k m t) x then k.taint x.code else k
        let s1 := logBound (s.putStrand sid k1.advance) k bd flagged (((es.map (·.2)).head?).getD 0)
        .next (vectorStore s1 sid k val ls)

end Sys2Proof.Machine
end

