-- ==== Sys2Proof/Machine/Matrix.lean ====
section
/-! DEFINITION. The matrix-vector unit (R270 to R289): its instructions, which check at issue and enter the core's dispatch
queue, and the steps that start and perform them. -/

namespace Sys2Proof.Machine

/-! ### Buffers and shapes (R22, R272 to R277) -/

def bufW : Nat := 1
def bufA : Nat := 2
def bufC : Nat := 3

def sizeW : Nat := 2 ^ 18
def sizeA : Nat := 2 ^ 17

/-- The quad's state; a quad of which nothing is set has an open table and no enabled tile. -/
def Quad.open : Quad := ⟨List.replicate 16 8, 0, 0, [], [], none⟩
def quadAt (s : State) (q : Nat) : Quad := Tab.get s.quads q Quad.open

/-- M, N and K (Tables 13-2 and 13-3). -/
def dimM (shape : Nat) : Nat := 32 / 2 ^ (shape / 8)
def dimN (shape : Nat) : Nat := if shape / 4 % 2 = 0 then 32 else 16
def dimK (shape t : Nat) : Nat := (if t = 9 ∨ t = 10 then 32 else if t = 11 then 64 else 128) * 2 ^ (shape % 4)

/-- The bytes of an A row (R274), and of a W column (R276, R277). -/
def rowBytes (shape t : Nat) : Nat :=
  if isSxType t then dimK shape t / 16 * Fp.sxBytes t else 2 * dimK shape t
def colBytes (shape t : Nat) (sparse : Bool) : Nat :=
  if !sparse then rowBytes shape t
  else if isSxType t then dimK shape t / 32 * (Fp.sxBytes t + 4) else 9 * dimK shape t / 8

/-- The check of an operand's offset and range (R274, R276, R281, R284): the trap, if one is raised. The rules give no order for
an operand that fails both; the model raises alignment first (DESIGN CHOICE, log 73). -/
def operandTrap (off bytes size : Nat) : Option Nat :=
  if off % 64 ≠ 0 then some causeAlignment else if size < off + bytes then some causeBuffer else none

/-- The first trap of a list of checks. -/
def firstOfTraps : List (Option Nat) → Option Nat
  | [] => none
  | some c :: _ => some c
  | none :: cs => firstOfTraps cs

/-! ### Elements of operands -/

/-- A number's 2-byte element k. -/
def half (x k : Nat) : Nat := field x (16 * k) 16

/-- The K values of a dense row or column whose bytes make the number `x` (R274, R276). -/
def denseVals (shape t x : Nat) : List Fp.Val :=
  (List.range (dimK shape t)).map fun k =>
    if isSxType t then
      Fp.sxElement t (field x (8 * Fp.sxBytes t * (k / 16)) (8 * Fp.sxBytes t)) (k % 16)
    else Fp.value (fmtOf t) (half x k)

/-- The index nibble of group h of a sparse column of 16-bit elements, or of its SX block (R277). -/
def nibble (x at_ h : Nat) : Nat := field x (8 * at_ + 4 * h) 4

/-- Position p of a group from its nibble and its two kept values (R277). -/
def expandAt (nib p : Nat) (v0 v1 : Fp.Val) : Fp.Val :=
  let i0 := nib % 4
  let i1 := nib / 4
  if p = i0 then v0 else if i0 < i1 ∧ p = i1 then v1 else .fin false 0 0

/-- The K values of a sparse column (R277). -/
def sparseVals (shape t x : Nat) : List Fp.Val :=
  (List.range (dimK shape t)).map fun k =>
    if isSxType t then
      let sb := Fp.sxBytes t
      let blk := field x (8 * (sb + 4) * (k / 32)) (8 * (sb + 4))
      let h := k % 32 / 4
      expandAt (nibble blk sb h) (k % 4) (Fp.sxElement t (blk % 2 ^ (8 * sb)) (2 * h))
        (Fp.sxElement t (blk % 2 ^ (8 * sb)) (2 * h + 1))
    else
      let h := k / 4
      expandAt (nibble x (dimK shape t) h) (k % 4) (Fp.value (fmtOf t) (half x (2 * h)))
        (Fp.value (fmtOf t) (half x (2 * h + 1)))

/-- A list cut into groups of `g` (R55). -/
def groupsOf {α : Type} (g : Nat) : Nat → List α → List (List α)
  | 0, _ => []
  | n + 1, xs => xs.take g :: groupsOf g n (xs.drop g)

/-- The products of a row and a column, group by group (R55). -/
def productGroups (shape t : Nat) (as bs : List Fp.Val) : List (List (Fp.Val × Fp.Flags)) :=
  let g := if isSxType t then 16 else 32
  groupsOf g (dimK shape t / g) (List.zipWith Fp.mulVal as bs)

/-! ### C tiles (R275) and write-backs (R279, R288, R361) -/

def tileOff (tile i j : Nat) : Nat := 4096 * tile + 128 * i + 4 * j

/-- A row, column or word of a buffer: the number its bytes make and the code of its first poisoned word. -/
structure Piece where
  x : Nat
  code : Option Code
  deriving DecidableEq, Repr

def readPiece (s : State) (ctx quad buf off n : Nat) : Piece :=
  let r := readAt s (bufferKey ctx quad buf off) n
  ⟨leNat r.bytes, r.code⟩

/-- The first code of a list. -/
def firstSome : List (Option Code) → Option Code
  | [] => none
  | some c :: _ => some c
  | none :: cs => firstSome cs

/-- One element of a write-back: its FP32 bits, or poison; the flags it raised; whether it is a flag-mode violation. -/
structure OutElem where
  bits : Nat
  poison : Option Code
  flags : Fp.Flags
  violation : Bool
  failed : Bool
  deriving DecidableEq, Repr

/-- An element as computed: poison when a word it read was, and then without flags (R279). A clean element raises its flags and
meets its bound also where the other element of its C word is poison (DESIGN CHOICE, log 92). -/
def OutElem.make (r : Nat × Fp.Flags) (poison : Option Code) : OutElem :=
  ⟨r.1, poison, if poison.isSome then 0 else r.2, false, false⟩

/-- The bound check of an element (R288): elements written as poison are not checked. -/
def OutElem.check (b : Option Bound) (e : OutElem) : OutElem :=
  match b, e.poison with
  | some b, none => match boundCheck Fp.fp32 b e.bits with
    | .write y => { e with bits := y }
    | .poison v => { e with poison := some 4, violation := v }
    | .fail => { e with failed := true }
  | _, _ => e

/-- The elements of a row of a write-back, two to a C word: one poisoned element poisons the word (R279); where both are poison
the word carries the lower column's code (DESIGN CHOICE, log 92). -/
def writeRow (s : State) (ctx quad : Nat) : Nat → List OutElem → State
  | off, e0 :: e1 :: es =>
    let key := bufferKey ctx quad bufC off
    let s1 := match firstSome [e0.poison, e1.poison] with
      | some c => poisonWrite s key 8 c
      | none => cleanWrite s key (leBytes 4 e0.bits ++ leBytes 4 e1.bits)
    writeRow s1 ctx quad (off + 8) es
  | _, _ => s

/-- Rows of a write-back, each with its row number. -/
def writeRows (s : State) (ctx quad tile : Nat) (rows : List (Nat × List OutElem)) : State :=
  rows.foldl (fun s r => writeRow s ctx quad (tileOff tile r.1 0) r.2) s

def rowFlags (rows : List (Nat × List OutElem)) : Fp.Flags :=
  rows.foldl (fun acc r => r.2.foldl (fun acc e => acc ||| e.flags) acc) 0

def rowViolations (rows : List (Nat × List OutElem)) : Nat :=
  rows.foldl (fun acc r => acc + (r.2.filter (·.violation)).length) 0

def anyFailed (rows : List (Nat × List OutElem)) : Bool := rows.any fun r => r.2.any (·.failed)

/-! ### What an operation computes -/

/-- A word of buffer C as an operation reads it: as it was kept for it, or as it stands (R221). -/
def readC (s : State) (ctx quad : Nat) (o : MvuOp) (off : Nat) : Piece := match Tab.find o.kept (bufferKey ctx quad bufC off) with
  | some x => ⟨x.1, x.2⟩
  | none => readPiece s ctx quad bufC off 8

/-- The element rows `i0 … i0 + n - 1` of a product with the W operand at `woff` (R278, R280). -/
def productRows (s : State) (quad : Nat) (o : MvuOp) (i0 n woff : Nat) (partial_ : Bool) : List (Nat × List OutElem) :=
  let ctx := o.sid / 32768
  let rb := rowBytes o.shape o.ty
  let cb := colBytes o.shape o.ty o.sparse
  let cols := (List.range (dimN o.shape)).map fun j =>
    let p := readPiece s ctx quad bufW (woff + j * cb) cb
    (p.code, if o.sparse then sparseVals o.shape o.ty p.x else denseVals o.shape o.ty p.x)
  (List.range n).map fun d =>
    let i := i0 + d
    let row := readPiece s ctx quad bufA (o.a + i * rb) rb
    let as := denseVals o.shape o.ty row.x
    (i, ((List.range (dimN o.shape)).zip cols).map fun jc =>
      let c : Piece := if partial_ then ⟨0, none⟩ else
        let w := readC s ctx quad o (tileOff o.tile i (jc.1 / 2 * 2))
        ⟨field w.x (32 * (jc.1 % 2)) 32, w.code⟩
      (OutElem.make (Fp.mmaElement c.x (productGroups o.shape o.ty as jc.2.2))
        (firstSome [row.code, jc.2.1, c.code])).check (if partial_ then none else o.bound))

/-- The rows of `MXS` (R281). -/
def mxsRows (s : State) (quad : Nat) (o : MvuOp) : List (Nat × List OutElem) :=
  let ctx := o.sid / 32768
  let scale := fun (off i : Nat) =>
    let w := readPiece s ctx quad bufA (off + 2 * i / 8 * 8) 8
    (⟨half w.x (i % 4), w.code⟩ : Piece)
  let celem := fun (tile i j : Nat) =>
    let w := readC s ctx quad o (tileOff tile i (j / 2 * 2))
    (⟨field w.x (32 * (j % 2)) 32, w.code⟩ : Piece)
  (List.range 32).map fun i =>
    let sa := scale o.a i
    (i, (List.range 32).map fun j =>
      let sb := scale o.b j
      let c := celem o.tile i j
      let p := celem o.p i j
      let cs := if o.tile ≤ o.p then [c.code, p.code] else [p.code, c.code]
      (OutElem.make (Fp.scaledAccumulate c.x sa.x sb.x p.x) (firstSome (cs ++ [sa.code, sb.code]))).check o.bound)

/-- The rows of `MWR` (R283). -/
def mwrRows (o : MvuOp) : List (Nat × List OutElem) :=
  ((List.range o.rows.length).zip o.rows).map fun r =>
    (o.a + r.1, (List.range 32).map fun j =>
      (OutElem.make (lane r.2 8 j, 0) (if chunkFrayed r.2 (j / 2) then some r.2.code else none)).check o.bound)

/-- The rows of `MZERO` (R282). -/
def mzeroRows : List (Nat × List OutElem) :=
  (List.range 32).map fun i => (i, List.replicate 32 ⟨0, none, 0, false, false⟩)

/-- A register as `MRD` fills it from a row (R283). -/
def mrdRow (s : State) (ctx quad tile i : Nat) : VReg :=
  let ws := (List.range 16).map fun w => readPiece s ctx quad bufC (tileOff tile i (2 * w)) 8
  let data := packLanes 64 16 fun w => (ws.getD w ⟨0, none⟩).x
  let fray := packFrays fun w => (ws.getD w ⟨0, none⟩).code.isSome
  ⟨BitVec.ofNat 1024 data, fray, (firstSome (ws.map (·.code))).getD 0⟩

/-- The address in scratchpad of element e of source row q of an `LDT`, as an offset (R284). -/
def ldtSource (o : MvuOp) (w e q : Nat) : Nat :=
  let org := o.a / 128 * 128
  let c := o.a % 128 / 8 + w * e / 8
  let phys := if o.p = 1 then c ^^^ (q % 16) else c
  (org + 128 * q + 8 * phys) % 2 ^ 16

/-- The source of an `LDT` in the scratchpad of the core its pointer names. -/
def ldtKey (o : MvuOp) (off : Nat) : Nat := scratchKey (o.sid / 32768) (o.a / 2 ^ 16 * 2 ^ 16 + off)

/-- One destination word of an `LDT`: 8 bytes of row e from element q on (R284). -/
def ldtWord (s : State) (o : MvuOp) (w e q : Nat) : List Byte × Option Code :=
  let parts := (List.range (8 / w)).map fun d =>
    let off := ldtSource o w e (q + d)
    let r := readAt s (ldtKey o off) 8
    (r.bytes.drop (w * e % 8) |>.take w, r.code)
  ((parts.map (·.1)).flatten, firstSome (parts.map (·.2)))

/-- All of an `LDT` (R284): every source word is read before any destination word is written. -/
def performLdt (s : State) (quad : Nat) (o : MvuOp) : State :=
  let w := ldtBytes o.ty
  let per := 8 / w
  let words := (List.range 32).map fun e => (List.range (32 / per)).map fun i =>
    (o.b + 32 * w * e + 8 * i, ldtWord s o w e (per * i))
  let s1 := words.flatten.foldl (fun s x =>
    rawWrite s ⟨bufferKey (o.sid / 32768) quad bufA x.1, x.2.1, x.2.2⟩) s
  untag s1 (o.sid / 32768) quad o.b (1024 * w)

/-- The offsets of the source words of an `LDT`, row by row (R284). -/
def ldtOffsets (o : MvuOp) : List Nat :=
  let w := ldtBytes o.ty
  (List.range 32).flatMap fun q => (List.range (4 * w)).map fun c => ldtSource o w (8 / w * c) q

/-- The C words of a tile's rows `i0 … i0 + n - 1`, in their first `cols` elements. -/
def tileWords (ctx quad tile i0 n cols : Nat) : List (Nat × Nat) :=
  (List.range n).map fun i => (bufferKey ctx quad bufC (tileOff tile (i0 + i) 0), 4 * cols)

/-- What an operation reads, as keys and lengths; of an `MMAG` the rows of its next group (R278 to R284). -/
def mvuSources (quad : Nat) (o : MvuOp) : List (Nat × Nat) :=
  let ctx := o.sid / 32768
  let rb := rowBytes o.shape o.ty
  let cb := colBytes o.shape o.ty o.sparse
  let at_ := fun buf off n => (bufferKey ctx quad buf off, n)
  match o.kind with
  | .mma => at_ bufA o.a (dimM o.shape * rb) :: at_ bufW o.b (dimN o.shape * cb) ::
      tileWords ctx quad o.tile 0 (dimM o.shape) (dimN o.shape)
  | .mmas => [at_ bufA o.a (dimM o.shape * rb), at_ bufW o.b (dimN o.shape * cb)]
  | .mmag =>
    let i0 := o.offsets.getD o.group 0
    let n := o.offsets.getD (o.group + 1) 0 - i0
    if n = 0 then [] else
      at_ bufA (o.a + i0 * rb) (n * rb) :: at_ bufW (o.b + o.group * o.p) (dimN o.shape * cb) ::
        tileWords ctx quad o.tile i0 n (dimN o.shape)
  | .mxs => at_ bufA o.a 64 :: at_ bufA o.b 64 ::
      (tileWords ctx quad o.tile 0 32 32 ++ tileWords ctx quad o.p 0 32 32)
  | .mrd => tileWords ctx quad o.tile o.a (2 ^ (o.ty % 4)) 32
  | .ldt => (ldtOffsets o).map fun off => (ldtKey o off, 8)
  | .mzero => []
  | .mwr => []

/-- The operation's reads, as the protection of their words sees them (R29, R348). -/
def noteSources (s : State) (quad : Nat) (o : MvuOp) : State :=
  (mvuSources quad o).foldl (fun s r => noteDamage s (o.sid / 32768) r.1 r.2) s

/-! ### The slot that waits for its operation -/

/-- The issuer of an operation, where it still waits for it. -/
def waiterOf (s : State) (o : MvuOp) : Option Strand :=
  match Tab.find s.strands o.sid with
  | some k => if k.gen = o.gen ∧ k.stall = .mvu then some k else none
  | none => none

/-- Flags merge into the issuer's st.FF, if the issuer is still there (R48, R270). -/
def mergeInto (s : State) (o : MvuOp) (f : Fp.Flags) : State :=
  s.modStrand o.sid fun k => if k.gen = o.gen then k.mergeFlags f else k

/-- The first frayed register that an `MWR` has read. -/
def frayedRow (rows : List VReg) : Option VReg := rows.find? fun x => decide (x.fray ≠ 0)

/-- The waiting slot goes on with its next instruction; an `MWR` from a frayed chunk taints it (R283). -/
def releaseSlot (s : State) (o : MvuOp) : State :=
  match waiterOf s o with
  | some k => s.putStrand o.sid (match frayedRow o.rows with
      | some x => k.taint x.code
      | none => k).advance
  | none => s

/-- The trap of a failed bound check (R288). -/
def failBound (s : State) (o : MvuOp) : State :=
  match waiterOf s o with
  | some k => trap (s.putStrand o.sid { k with stall := .none }) o.sid causeBound
  | none => s

/-- A log entry for the flag-mode violations of an operation (R361, R363). -/
def logViolations (s : State) (o : MvuOp) (n : Nat) : State :=
  match o.bound with
  | none => s
  | some b =>
    let sc := match Tab.find s.strands o.sid with
      | some k => if k.gen = o.gen then k.sc else 0
      | none => 0
    if n = 0 then s else logFray s 4 4 (o.sid / 32768) (sc % 2 ^ 32) (4096 * o.tile) (b.tag * 2 ^ 32 + n)

/-- Rows written back after their check: the failure of a trap-mode check writes nothing (R288). -/
def writeBack (s : State) (quad : Nat) (o : MvuOp) (rows : List (Nat × List OutElem)) : State :=
  if anyFailed rows then failBound s o
  else
    let s1 := writeRows s (o.sid / 32768) quad o.tile rows
    let s2 := logViolations (mergeInto s1 o (rowFlags rows)) o (rowViolations rows)
    if o.waits then releaseSlot s2 o else s2

/-- The rows that `MRD` moves into the registers of its waiting slot (R283). -/
def performMrd (s : State) (quad : Nat) (o : MvuOp) : State :=
  match waiterOf s o with
  | none => s
  | some k =>
    let k1 := (List.range (2 ^ (o.ty % 4))).foldl (fun k i =>
      k.setV (o.v + i) (mrdRow s (o.sid / 32768) quad o.tile (o.a + i))) k
    s.putStrand o.sid k1.advance

/-- What the end of an operation does (R278 to R284). -/
def performMvu (s : State) (quad : Nat) (o : MvuOp) : State :=
  match o.kind with
  | .mma => writeBack s quad o (productRows s quad o 0 (dimM o.shape) o.b false)
  | .mmas => writeBack s quad o (productRows s quad o 0 (dimM o.shape) o.b true)
  | .mmag => logViolations (mergeInto s o o.flags) o o.violations
  | .mxs => writeBack s quad o (mxsRows s quad o)
  | .mzero => writeBack s quad { o with bound := none } mzeroRows
  | .mrd => performMrd s quad o
  | .mwr => writeBack s quad o (mwrRows o)
  | .ldt => performLdt s quad o

/-! ### Issue (R270, R285) -/

/-- The A slots that an operation reads, by offset and length (R295). -/
def slotsIn (off n : Nat) : List Nat :=
  if n = 0 then [] else (List.range ((off + n - 1) / 2048 - off / 2048 + 1)).map (off / 2048 + ·)

/-- A gang member's tag check of the A slots an operation reads (R295): whether it passes. -/
def tagsPass (s : State) (k : Strand) (slots : List Nat) : Bool :=
  match k.gang with
  | none => true
  | some m => match Tab.find s.gangs m.gang with
    | none => true
    | some g => match g.vcc with
      | none => true
      | some v =>
        let lo := field g.word 40 6
        let n := field g.word 46 6
        let e := v / 256 % 65535 + 1
        let q := quadAt s (quadOf k.core)
        slots.all fun x => !(decide (lo ≤ x ∧ x < lo + n)) || Tab.get q.tags (k.ctx * 64 + x) 0 == e

/-- The bound register in force for a tile, when its check is enabled (R288). -/
def tileBound (s : State) (k : Strand) (tile : Nat) : Option Bound :=
  match Tab.find (quadAt s (quadOf k.core)).tiles tile with
  | some b => some (boundOf s k.core b)
  | none => none

/-- A write of the strand, or a vector store of a gang member of its core to the buffers, is still on its way: its operation's buffer
reads are to return it (R237). -/
def storePending (s : State) (sid core : Nat) : Bool := farStores s sid s.pkg || s.flights.any fun p => match p.2 with
  | .remoteStore _ _ w (some v) => v.core == core && decide (bufferBase ≤ w.key)
  | _ => false

/-- An operation enters its core's dispatch queue (R285); the slot stalls while the queue is full, and until the operation
is done where the operation says so. `k1`: the strand as the completed instruction leaves it. -/
def enqueue (s : State) (sid : Nat) (k k1 : Strand) (o : MvuOp) : Out :=
  match Tab.find s.cores k.core with
  | none => .next s
  | some c =>
    if 8 ≤ c.dispatch.length ∨ storePending s sid k.core = true then .next (s.putStrand sid (k.wait .request))
    else
      let o1 := { o with id := s.nextId, at_ := virtualIssue s k }
      let s1 := { (s.putCore k.core { c with dispatch := c.dispatch ++ [o1] }) with nextId := s.nextId + 1 }
      .next (s1.putStrand sid (if o.waits then { k with stall := .mvu } else k1.advance))

/-- The flow that matrix instructions share (R270): anchored strands only, clean registers, the entry's checks, the tags. The tag
check (R295) is made last, after the entry's other traps (DESIGN CHOICE, log 93). -/
def mvuIssue (s : State) (sid : Nat) (k k1 : Strand) (regs : List Nat) (checks : List (Option Nat)) (slots : List Nat)
    (o : MvuOp) : Out :=
  if k.vcount = 0 then .next (trap s sid causeIllegal)
  else withClean s sid k regs <|
    match firstOfTraps checks with
    | some c => .next (trap s sid c)
    | none =>
      if tagsPass s k slots = false then .next (trap s sid causeSchedule)
      else enqueue s sid k k1 o

def trapMode (b : Option Bound) : Bool := match b with
  | some b => b.mode == 2
  | none => false

/-- An operation with nothing in its fields. -/
def MvuOp.blank (sid : Nat) (k : Strand) (kind : MvuKind) : MvuOp := {
  id := 0, sid := sid, gen := k.gen, kind := kind, shape := 0, ty := 0, sparse := false, tile := 0, a := 0, b := 0, p := 0
  v := 0, offsets := [], group := 0, flags := 0, rows := [], bound := none, waits := false, violations := 0
  at_ := none, due := none, kept := [] }

/-- `MMA` and `MMAS` (R278). The first operand is checked wholly before the second (DESIGN CHOICE: no order is given; log 73). -/
def product (i : Instr) (kind : MvuKind) (sh t c a b : Nat) (sp : Bool) (s : State) : Out :=
  issue i [a, b] [] s fun s sid k =>
    let x := k.nat a
    let y := k.nat b
    let bd := if kind = .mma then tileBound s k c else none
    mvuIssue s sid k k [a, b]
      [operandTrap x (dimM sh * rowBytes sh t) sizeA, operandTrap y (dimN sh * colBytes sh t sp) sizeW]
      (slotsIn x (dimM sh * rowBytes sh t))
      { MvuOp.blank sid k kind with
        shape := sh, ty := t, sparse := sp, tile := c, a := x, b := y, bound := bd, waits := trapMode bd }

/-- `MMA` (R278). -/
def execMma (sh t c a b p : Nat) (s : State) : Out := product (.mma sh t c a b p) .mma sh t c a b (p == 1) s

/-- `MMAS` (R278). -/
def execMmas (sh t c a b p : Nat) (s : State) : Out := product (.mmas sh t c a b p) .mmas sh t c a b (p == 1) s

/-- What the check of `MMAG` finds (R280). -/
inductive GroupCheck where
  | ok (offsets : List Nat)
  | trap (cause : Nat)
  | observe (c : Code)
  deriving DecidableEq, Repr

/-- The offsets never fall, and lie in 0 to m. -/
def risingTo (m : Nat) : List Int → Bool
  | [] => true
  | [x] => decide (x ≤ (m : Int))
  | x :: y :: zs => decide (x ≤ y) && risingTo m (y :: zs)

/-- `mmag_check` (R280). -/
def mmagCheck (s : State) (k : Strand) (gv wbase wstride m wbytes : Nat) : GroupCheck :=
  let n := field gv 32 9
  let voff := gv % 2 ^ 17
  if n = 0 ∨ 256 < n ∨ gv ≠ voff + n * 2 ^ 32 then .trap causeGroup
  else if voff % 4 ≠ 0 then .trap causeAlignment
  else if sizeA < voff + 4 * (n + 1) then .trap causeBuffer
  else
    let r := readPiece s k.ctx (quadOf k.core) bufA voff (4 * (n + 1))
    match r.code with
    | some c => .observe c
    | none =>
      let os : List Int := (List.range (n + 1)).map fun i => signed 32 (field r.x (32 * i) 32)
      if os.getD 0 0 < 0 ∨ (m : Int) < os.getD n 0 ∨ risingTo m os = false then .trap causeGroup
      else
        let ns := os.map Int.toNat
        match firstOfTraps ((List.range n).map fun g =>
          if ns.getD g 0 < ns.getD (g + 1) 0 then operandTrap (wbase + g * wstride) wbytes sizeW else none) with
        | some c => .trap c
        | none => .ok ns

/-- The read of a group vector that the check makes, as the protection of its words sees it (R29). -/
def noteVector (s : State) (k : Strand) (gv : Nat) : State :=
  let n := field gv 32 9
  let voff := gv % 2 ^ 17
  if n = 0 ∨ 256 < n ∨ gv ≠ voff + n * 2 ^ 32 ∨ voff % 4 ≠ 0 ∨ sizeA < voff + 4 * (n + 1) then s
  else noteDamage s k.ctx (bufferKey k.ctx (quadOf k.core) bufA voff) (4 * (n + 1))

/-- No MVU operation of a core is queued or in progress: the group table that `MMAG` reads at issue follows them (R237). -/
def coreMvuClear (s : State) (core : Nat) : Bool :=
  (match Tab.find s.cores core with
    | some c => c.dispatch.isEmpty
    | none => true) &&
  (match Tab.find s.quads (quadOf core) with
    | some q => match q.busy with
      | some (c, _) => c != core
      | none => true
    | none => true)

/-- `MMAG` (R280). Its virtual issue cycle is that of the attempt that passes, where its slot was stalled before (DESIGN CHOICE,
log 94). -/
def execMmag (sh t c a b p v : Nat) (s : State) : Out :=
  issue (.mmag sh t c a b p v) [a, b, v] [] s fun s sid k =>
    if k.vcount = 0 then .next (trap s sid causeIllegal)
    else withClean s sid k [a, b, v] <|
      let x := k.nat a
      let wbase := k.nat b % 2 ^ 32
      let wstride := k.nat b / 2 ^ 32
      let sp := p == 1
      let rb := rowBytes sh t
      let early := firstOfTraps [if x % 64 ≠ 0 then some causeAlignment else none,
        if wbase % 64 ≠ 0 then some causeAlignment else none, operandTrap x (dimM sh * rb) sizeA]
      match early with
      | some e => .next (trap s sid e)
      | none =>
        if !coreMvuClear s k.core || !buffersReady s k.ctx (quadOf k.core) || storePending s sid k.core then
          .next (s.putStrand sid (k.wait .request))
        else
          let s := noteVector s k (k.nat v)
          match mmagCheck s k (k.nat v) wbase wstride (dimM sh) (dimN sh * colBytes sh t sp) with
          | .trap e => .next (trap s sid e)
          | .observe e => .next (observeFray s sid e)
          | .ok os =>
            let n := os.length - 1
            let o0 := os.getD 0 0
            let bd := tileBound s k c
            mvuIssue s sid k k [] [] (slotsIn (k.nat v % 2 ^ 17) (4 * (n + 1)) ++ slotsIn (x + o0 * rb) ((os.getD n 0 - o0) * rb))
              { MvuOp.blank sid k .mmag with
                shape := sh, ty := t, sparse := sp, tile := c, a := x, b := wbase, p := wstride, offsets := os
                bound := bd, waits := trapMode bd }

/-- `MXS` (R281); its operands are checked as those of a product are (log 73). -/
def execMxs (c a b p : Nat) (s : State) : Out :=
  issue (.mxs c a b p) [a, b] [] s fun s sid k =>
    let x := k.nat a
    let y := k.nat b
    let bd := tileBound s k c
    mvuIssue s sid k k [a, b] [operandTrap x 64 sizeA, operandTrap y 64 sizeA] (slotsIn x 64 ++ slotsIn y 64)
      { MvuOp.blank sid k .mxs with tile := c, a := x, b := y, p := p, bound := bd, waits := trapMode bd }

/-- `MZERO` (R282). -/
def execMzero (c : Nat) (s : State) : Out :=
  issue (.mzero c) [] [] s fun s sid k => mvuIssue s sid k k [] [] [] { MvuOp.blank sid k .mzero with tile := c }

/-- The registers of an `MRD` or `MWR`. -/
def rowRegs (r v : Nat) : List Nat := (List.range (2 ^ r)).map (v + ·)

/-- `MRD` (R283). -/
def execMrd (r c a v : Nat) (s : State) : Out :=
  issueV (.mrd r c a v) (rowRegs r v) [a] [] s fun s sid k =>
    mvuIssue s sid k k [a] [if 32 < k.nat a + 2 ^ r then some causeBuffer else none] []
      { MvuOp.blank sid k .mrd with ty := r, tile := c, a := k.nat a, v := v, waits := true }

/-- `MWR` (R283). -/
def execMwr (r c a v : Nat) (s : State) : Out :=
  issueV (.mwr r c a v) (rowRegs r v) [a] [] s fun s sid k =>
    let rows := (rowRegs r v).map k.v
    let bd := tileBound s k c
    -- a trap and a stall find the strand as it was; the taint is the completed instruction's
    let k1 := match frayedRow rows with
      | some x => k.taint x.code
      | none => k
    mvuIssue s sid k k1 [a] [if 32 < k.nat a + 2 ^ r then some causeBuffer else none] []
      { MvuOp.blank sid k .mwr with
        ty := r, tile := c, a := k.nat a, rows := rows, bound := bd, waits := trapMode bd }

/-- `LDT` (R284); its operands are checked as those of a product are (log 73). -/
def execLdt (t a b w : Nat) (s : State) : Out :=
  issue (.ldt t a b w) [a, b] [] s fun s sid k =>
    let x := k.nat a
    let y := k.nat b
    let n := ldtBytes t
    let org := ptrOff x / 128 * 128
    let seg := strandCheck s k x 8 needRd
    let own := isSpread x && ptrPkg x == s.pkg && quadOf (ptrCore x) == quadOf k.core
    mvuIssue s sid k k [a, b]
      [if seg && own then none else some causeSegment,
       if x % 8 ≠ 0 ∨ 128 < x % 128 + 32 * n then some causeAlignment else none,
       if 65536 < org + 4096 then some causeSegment else none,
       operandTrap y (1024 * n) sizeA] []
      { MvuOp.blank sid k .ldt with ty := t, a := x, b := y, p := w, due := dueOf s k }

/-- The kernel of a strand. -/
def kernelOf (s : State) (k : Strand) : Option Kernel := Tab.find s.kernels (k.ctx * 2 ^ 32 + k.kernel)

/-- `MSLOT` (R287). A nibble that is not allowed traps before the right is asked (DESIGN CHOICE: no order is given; log 86). -/
def execMslot (a : Nat) (s : State) : Out :=
  issue (.mslot a) [a] [] s fun s sid k =>
    if k.vcount = 0 then .next (trap s sid causeIllegal)
    else withClean s sid k [a] <|
      let nibs := (List.range 16).map fun p => field (k.nat a) (4 * p) 4
      if nibs.all (fun x => decide (x ≤ 3) || x == 8) = false then .next (trap s sid causeIllegal)
      else if ((kernelOf s k).map (·.sright)).getD false = false then .next (trap s sid causeRight)
      else
        retire (s.putQuad (quadOf k.core) { quadAt s (quadOf k.core) with slotTable := nibs }) sid k

/-! ### The unit's own steps (R273, R280, R286) -/

/-- The words that an `LDT` reads can be read now: their banks are out of retention, and their region is on chip for the
issuing core's own image (R31, R33, R284). A source on another core of the quad is served as R34 serves a remote request, in
the save area too; the rules do not say so of an `LDT` (DESIGN CHOICE, log 72). -/
def ldtReady (s : State) (core : Nat) (o : MvuOp) : Bool :=
  let ctx := o.sid / 32768
  let home := ptrCore o.a
  landed s (dieOf core) (scratchLoc ctx o.a) &&
    (ldtOffsets o).all fun off => padReady s ctx home off 8 (home == homeCore s ctx core)

/-- The core that a slot-table position serves: under donation the core that holds the named core's image (R390). -/
def servedCore (s : State) (core : Nat) : Nat :=
  match s.images.find? fun p => p.1 % 4096 == core && p.2.runsOn.isSome with
  | some p => p.2.runsOn.getD core
  | none => core

/-- Two operations meet in a buffer of their quad: one writes what the other reads or writes. -/
def MvuOp.meets (o p : MvuOp) : Bool :=
  (o.writesC.any fun t => p.writesC.contains t || p.readsC.contains t) || (o.readsC.any fun t => p.writesC.contains t) ||
    (o.kind == .ldt && (p.kind == .ldt || p.readsA)) || (o.readsA && p.kind == .ldt)

/-- In one virtual cycle an operation stands before another that writes what it only reads, or writes from a higher core (R221 rule
3). -/
def MvuOp.sameBefore (p o : MvuOp) (u v : VIssue) : Bool :=
  (o.writesC.any fun t => if p.writesC.contains t then decide (u.core < v.core) else p.readsC.contains t) ||
    (o.kind == .ldt && (if p.kind = .ldt then decide (u.core < v.core) else p.readsA))

/-- A member's store to the buffers stands before an operation that reads or writes there (R221). -/
def storeBefore (quad : Nat) (o : MvuOp) (v : VIssue) (w : MemWrite) (at_ : Option VIssue) : Bool :=
  decide (bufferBase ≤ w.key) && mvuReads quad o w.key &&
    (if keyBuffer w.key = 3 then
      (o.writesC.contains (keyTile w.key) || o.readsC.contains (keyTile w.key)) &&
        standsBefore v (fun u => o.writesC.contains (keyTile w.key) && decide (u.core < v.core)) at_
    else standsBefore v (fun u => o.kind == .ldt && decide (u.core < v.core)) at_)

/-- No access of the same gang that another core has issued, that stands before this operation and meets it in a buffer, has still to
be performed (R221). -/
def mvuTurn (s : State) (quad core : Nat) (o : MvuOp) : Bool := match o.at_ with
  | none => true
  | some v =>
    ((mvuOps s).all fun p => p.1 != quad || (p.2.at_.map (·.core)) == some core || !o.meets p.2 ||
      !standsBefore v (fun u => p.2.sameBefore o u v) p.2.at_) &&
    s.flights.all fun p => match p.2 with
      | .remoteStore _ _ w u => !storeBefore quad o v w u
      | _ => true

/-- The words of C that an operation is to write are kept for the reads of its virtual cycle (R221). -/
def keepForReads (s : State) (quad : Nat) (o : MvuOp) : State := match o.at_ with
  | none => s
  | some v => keepPrior s v (o.writesC.flatMap fun t =>
      (List.range 512).map fun i => bufferKey (o.sid / 32768) quad bufC (4096 * t + 8 * i))

/-- The head of a core's queue that a dispatch opportunity may start. -/
def headReady (s : State) (core : Nat) : Option MvuOp :=
  match Tab.find s.cores core with
  | none => none
  | some c => match c.dispatch with
    | [] => none
    | o :: _ =>
      if c.mode = .preempting ∨ (o.kind = .ldt ∧ ldtReady s core o = false) ∨
          buffersReady s (o.sid / 32768) (quadOf core) = false ∨ mvuTurn s (quadOf core) core o = false then none
      else some o

/-- The head of a core of a quad leaves its queue and starts. -/
def startHead (s : State) (quad core : Nat) (q : Quad) (o : MvuOp) : State :=
  (s.modCore core fun c => { c with dispatch := c.dispatch.drop 1 }).putQuad quad { q with busy := some (core, o) }

/-- The cores after the round-robin pointer, but for one. -/
def roundRobin (s : State) (quad rr x : Nat) : Nat → Nat → Option (Nat × MvuOp)
  | 0, _ => none
  | n + 1, i =>
    let y := (rr + i) % 4
    match headReady s (quad * 4 + y) with
    | some o => if y ≠ x then some (y, o) else roundRobin s quad rr x n (i + 1)
    | none => roundRobin s quad rr x n (i + 1)

/-- MVU_DISPATCH_OPPORTUNITY (R286). -/
def execMvuDispatchOpportunity (quad : Nat) (s : State) : Out :=
  let q := quadAt s quad
  match q.busy with
  | some _ => .next s
  | none =>
    let pos := (q.pos + 1) % 16
    let x := q.slotTable.getD pos 8
    let q1 := { q with pos := pos }
    let core := servedCore s (quad * 4 + x)
    match (if x < 4 then headReady s core else none) with
    | some o => .next (startHead s quad core q1 o)
    | none =>
      match roundRobin s quad q.rr x 4 1 with
      | some (y, o) => .next (startHead s quad (quad * 4 + y) { q1 with rr := y } o)
      | none => .next (s.putQuad quad q1)

/-- The first non-empty group of an `MMAG` at or after one, among `n` (R280). -/
def nextGroup (os : List Nat) : Nat → Nat → Option Nat
  | 0, _ => none
  | n + 1, g => if os.getD g 0 < os.getD (g + 1) 0 then some g else nextGroup os n (g + 1)

def groupRows (s : State) (quad : Nat) (o : MvuOp) (g : Nat) : List (Nat × List OutElem) :=
  productRows s quad o (o.offsets.getD g 0) (o.offsets.getD (g + 1) 0 - o.offsets.getD g 0) (o.b + g * o.p) false

/-- The next group of an `MMAG` in progress. -/
def MvuOp.nextStep (o : MvuOp) : Option Nat := nextGroup o.offsets (o.offsets.length - 1 - o.group) o.group

/-- All groups of an `MMAG` are within a trap-mode bound (R288). -/
def mmagBoundOk (s : State) (quad : Nat) (o : MvuOp) : Bool :=
  (List.range (o.offsets.length - 1)).all fun g => !anyFailed (groupRows s quad o g)

/-- An `MMAG` under a trap-mode check whose elements are all within their bound: every group was computed before any is written
(R288). -/
def mmagWhole (s : State) (quad core : Nat) (q : Quad) (o : MvuOp) : State :=
  let n := o.offsets.length - 1
  let groups := ((List.range n).filter fun g => decide (o.offsets.getD g 0 < o.offsets.getD (g + 1) 0)).map fun g => groupRows s quad o g
  let s1 := groups.foldl (fun s rows => writeRows s (o.sid / 32768) quad o.tile rows) s
  let flags := groups.foldl (fun f rows => f ||| rowFlags rows) o.flags
  (releaseSlot s1 o).putQuad quad { q with busy := some (core, { o with group := n, flags := flags, waits := false }) }

/-- MMAG_GROUP_STEP_DONE (R280); a trap-mode check of the whole operation comes before its first write (R288). -/
def execMmagGroupStepDone (quad : Nat) (s : State) : Out :=
  let q := quadAt s quad
  match q.busy with
  | some (core, o) =>
    if o.kind ≠ .mmag then .next s
    else match o.nextStep with
      | none => .next s
      | some g =>
        let o := { o with group := g }
        let s := noteSources (keepForReads s quad o) quad o
        if o.waits then
          if mmagBoundOk s quad o then .next (mmagWhole s quad core (quadAt s quad) o)
          else .next (failBound (s.putQuad quad { q with busy := none }) o)
        else
          let rows := groupRows s quad o g
          let s1 := writeRows s (o.sid / 32768) quad o.tile rows
          .next (s1.putQuad quad { quadAt s1 quad with
            busy := some (core, { o with
              group := g + 1, flags := o.flags ||| rowFlags rows, violations := o.violations + rowViolations rows }) })
  | none => .next s

/-- MVU_OPERATION_DONE (R273). -/
def execMvuOperationDone (quad : Nat) (s : State) : Out :=
  let q := quadAt s quad
  match q.busy with
  | none => .next s
  | some (_, o) =>
    if o.kind = .mmag ∧ o.nextStep.isSome then .next s
    else
      let s1 := performMvu (noteSources (keepForReads s quad o) quad o) quad o
      let s2 := if o.kind = .mmag ∧ o.waits then releaseSlot s1 o else s1
      .next (s2.putQuad quad { quadAt s2 quad with busy := none })

end Sys2Proof.Machine
end

