-- ==== Sys2Proof/Machine/Gang.lean ====
section
/-! DEFINITION. Gangs (R290 to R297): `GANG.ENTER`, `GANG.EXIT`, `AT`, the virtual cycle counter, and the gang's timeouts. -/

namespace Sys2Proof.Machine

/-! ### The gang word (Table 13-6) -/

/-- The cores that a gang word names, of one cluster. -/
def gangCores (cluster w : Nat) : List Nat :=
  ((List.range 8).filter (bitOf w)).flatMap fun q =>
    ((List.range 4).filter fun c => bitOf w (8 + c)).map fun c => cluster * 32 + q * 4 + c

/-- The checks of a gang word but for those on the gang itself (R290). -/
def gangWordOk (s : State) (k : Strand) (w : Nat) : Bool :=
  decide (2 ≤ popCount 8 w) && bitOf w (k.core / 4 % 8) && bitOf w (8 + k.core % 4) &&
    decide (field w 40 6 + field w 46 6 ≤ 64) && field w 12 4 == 0 && field w 32 8 == 0 && field w 52 12 == 0 &&
    decide (popCount 8 w ≤ ((kernelOf s k).map (·.gang)).getD 0)

/-- The gangs of an equal word in the strand's context and cluster. -/
def equalGangs (s : State) (k : Strand) (w : Nat) : Tab Gang :=
  s.gangs.filter fun p => p.2.ctx == k.ctx && p.2.cluster == clusterOf k.core && p.2.word == w

def coreOf (s : State) (sid : Nat) : Option Nat := (Tab.find s.strands sid).map (·.core)

/-- Another strand of the core is entered in a gang of the word. -/
def coreEntered (s : State) (k : Strand) (w : Nat) : Bool :=
  (equalGangs s k w).any fun p => p.2.members.any fun x => coreOf s x == some k.core

/-- The rendezvous is complete: each named core has a member (R291). -/
def gangFull (s : State) (x : Gang) : Bool :=
  (gangCores x.cluster x.word).all fun c => x.members.any fun m => coreOf s m == some c

/-- The rendezvous completes in this cycle: the parked members go on (R291). -/
def beginGang (s : State) (g : Nat) (x : Gang) : State :=
  let s1 := { s with gangs := Tab.put s.gangs g { x with begun := some s.cycle } }
  x.members.foldl (fun s m => s.modStrand m fun k => match k.phase with
    | .parked .gang => { k.advance with phase := .running }
    | _ => k) s1

/-- `GANG.ENTER` (R290, R291). -/
def execGangEnter (a : Nat) (s : State) : Out :=
  issue (.gangEnter a) [a] [] s fun s sid k =>
    if k.vcount = 0 then .next (trap s sid causeIllegal)
    else withClean s sid k [a] <|
      let w := k.nat a
      if gangWordOk s k w = false ∨ k.gang.isSome ∨ coreEntered s k w then .next (trap s sid causeIllegal)
      else
        let join := fun (s : State) (g : Nat) (x : Gang) =>
          let y := { x with members := x.members ++ [sid] }
          let k1 := { k with gang := some ⟨g, k.sc⟩, gangAborted := false }
          let s1 := ({ s with gangs := Tab.put s.gangs g y }).putStrand sid (k1.parkIn .gang)
          Host.Outcome.next (if gangFull s1 y then beginGang s1 g y else s1)
        match (equalGangs s k w).find? fun p => p.2.begun.isNone with
        | some (g, x) => join s g x
        | none => join { s with nextId := s.nextId + 1 } s.nextId
            ⟨k.ctx, clusterOf k.core, w, [], none, none, 0, s.cycle⟩

/-- A load of a member has still to fill its destination (R297). -/
def holdsLoad (s : State) (sid : Nat) : Bool :=
  ldtQueued s sid || s.flights.any fun p => match p.2 with
    | .loadRet x _ _ (some _) => x == sid
    | .remoteLoad x _ _ _ _ (some _) => x == sid
    | .vecRet x _ _ _ (some _) => x == sid
    | .vecLoad x _ _ _ _ _ _ (some _) => x == sid
    | _ => false

/-- A member leaves its gang; its core returns to compact rotation unless another of its strands is a member of a gang
(R297). -/
def leaveGang (s : State) (sid g : Nat) (x : Gang) (k : Strand) : State :=
  let rest := x.members.filter fun m => m != sid
  let s1 := s.putStrand sid { k.advance with gang := none, vccTarget := none }
  settlePhase { s1 with
    gangs := if rest.isEmpty then Tab.del s1.gangs g else Tab.put s1.gangs g { x with members := rest } } k.core

/-- `GANG.EXIT` (R297). -/
def execGangExit (s : State) : Out :=
  issue .gangExit [] [] s fun s sid k =>
    if k.vcount = 0 then .next (trap s sid causeIllegal)
    else match k.gang with
      | none =>
        if k.gangAborted then retire s sid { k with gangAborted := false } else .next (trap s sid causeIllegal)
      | some m =>
        match Tab.find s.gangs m.gang with
        | none => retire s sid { k with gang := none }
        | some x =>
          if holdsLoad s sid then .next (s.putStrand sid (k.wait .request)) else .next (leaveGang s sid m.gang x k)

/-- `AT` (R294). -/
def execAtVcc (a : Nat) (s : State) : Out :=
  issue (.atVcc a) [a] [] s fun s sid k =>
    if k.vcount = 0 then .next (trap s sid causeIllegal)
    else withClean s sid k [a] <|
      match k.gang with
      | none => if k.gangAborted then retire s sid k else .next (trap s sid causeIllegal)
      | some _ =>
        if k.nat a ≤ (vccOf s k).getD 0 then .next (trap s sid causeSchedule)
        else .next (s.putStrand sid { k.advance with vccTarget := some (k.nat a) })

/-- AT_TARGET_REACHED (R294): the VCC has reached the target and the strand's next instruction may issue. -/
def execAtTargetReached (sid : Nat) (s : State) : Out :=
  match Tab.find s.strands sid with
  | none => .next s
  | some k => match k.vccTarget, vccOf s k with
    | some t, some v => if t ≤ v then .next (s.putStrand sid { k with vccTarget := none }) else .next s
    | _, _ => .next s

/-- GANG_PAUSE_TIMEOUT (R292, R296). -/
def execGangPauseTimeout (g : Nat) (s : State) : Out :=
  match Tab.find s.gangs g with
  | some x => if 65536 ≤ x.paused then .next (abortGang s g) else .next s
  | none => .next s

/-- GANG_RENDEZVOUS_TIMEOUT (R296). -/
def execGangRendezvousTimeout (g : Nat) (s : State) : Out :=
  match Tab.find s.gangs g with
  | some x => if x.begun.isNone ∧ x.since + 65536 ≤ s.cycle then .next (abortGang s g) else .next s
  | none => .next s

/-! ### The virtual cycle counter (R291, R292) -/

/-- A write that a member of the gang issued at a virtual cycle 16 or more before v. -/
def lateWrite (g v : Nat) : Option VIssue → Bool
  | some u => u.gang == g && decide (u.cycle + 16 ≤ v)
  | none => false

/-- The VCC of gang `g` may not take value v (R292): a due load has not returned, or a write, atomic, claim or operation on
buffer C of 16 virtual cycles ago, one of a strand that has left the gang since among them, is not performed (R221). -/
def mustPause (s : State) (g : Nat) (x : Gang) (v : Nat) : Bool :=
  let mine := fun sid => x.members.contains sid
  (s.flights.any fun p => match p.2 with
    | .remoteLoad sid _ _ _ _ (some d) => mine sid && decide (d ≤ v)
    | .vecLoad sid _ _ _ _ _ _ (some d) => mine sid && decide (d ≤ v)
    | .remoteStore _ _ _ u => lateWrite g v u
    | .atomic a _ => decide (scratchBase ≤ a.loc.key) && lateWrite g v a.at_
    | .claim c => decide (scratchBase ≤ c.claim.loc.key) && lateWrite g v c.claim.at_
    | _ => false) ||
  (mvuOps s).any fun p =>
    (mine p.2.sid && (match p.2.due with
      | some d => decide (d ≤ v)
      | none => false)) || (!p.2.writesC.isEmpty && lateWrite g v p.2.at_)

/-- A load that has returned and whose due cycle the VCC has reached fills in this cycle: time stands still until it has
(R293). -/
def fillsNow (s : State) : Bool :=
  let due := fun sid d => match (Tab.find s.strands sid).bind fun k => vccOf s k with
    | some v => decide (d ≤ v)
    | none => false
  s.flights.any fun p => match p.2 with
    | .loadRet sid _ _ (some d) => due sid d
    | .vecRet sid _ _ _ (some d) => due sid d
    | _ => false

/-- The phase of each member core changed. -/
def setPhases (s : State) (x : Gang) (f : Option Nat → Option Nat) : State :=
  ((x.members.filterMap (coreOf s)).dedup).foldl (fun s c => s.modCore c fun y => { y with phase := f y.phase }) s

/-- One gang in the cycle that has just begun. -/
def tickGang (s : State) (p : Nat × Gang) : State :=
  let x := p.2
  match x.begun with
  | none => s
  | some n0 =>
    match x.vcc with
    | none =>
      if s.cycle = n0 + 1 then setPhases s x fun _ => some ((n0 + 2) % 8)
      else if n0 + 2 ≤ s.cycle then { s with gangs := Tab.put s.gangs p.1 { x with vcc := some 0 } }
      else s
    | some v =>
      if mustPause s p.1 x (v + 1) then
        setPhases { s with gangs := Tab.put s.gangs p.1 { x with paused := x.paused + 1 } } x fun φ =>
          φ.map fun n => (n + 1) % 8
      else { s with gangs := Tab.put s.gangs p.1 { x with vcc := some (v + 1), paused := 0 } }

end Sys2Proof.Machine
end

