-- ==== Sys2Proof/Machine/Regs.lean ====
section
/-! DEFINITION. The registers that each instruction reads and writes, as the checks of a pair consult them (R88, R89). -/

namespace Sys2Proof.Machine

/-- The general registers that a second entry of a pair reads (the majors that R88 allows). -/
def secondReads : Instr → List Nat
  | .add _ a b => [a, b]
  | .sub _ a b => [a, b]
  | .mul _ a b => [a, b]
  | .mulh _ a b => [a, b]
  | .mulhn _ a b => [a, b]
  | .div _ a b => [a, b]
  | .divn _ a b => [a, b]
  | .rem _ a b => [a, b]
  | .remn _ a b => [a, b]
  | .and _ a b => [a, b]
  | .or _ a b => [a, b]
  | .xor _ a b => [a, b]
  | .andn _ a b => [a, b]
  | .orn _ a b => [a, b]
  | .shl _ a b => [a, b]
  | .shr _ a b => [a, b]
  | .sha _ a b => [a, b]
  | .rot _ a b => [a, b]
  | .min _ a b => [a, b]
  | .max _ a b => [a, b]
  | .minn _ a b => [a, b]
  | .maxn _ a b => [a, b]
  | .clz _ a => [a]
  | .ctz _ a => [a]
  | .popc _ a => [a]
  | .brev _ a => [a]
  | .sel _ a b c => [a, b, c]
  | .mov _ a => [a]
  | .addp _ a b => [a, b]
  | .cmp _ a b _ => [a, b]
  | .ext _ a _ _ => [a]
  | .extn _ a _ _ => [a]
  | .ins d a _ _ => [a, d]
  | .addi _ a _ => [a]
  | .andi _ a _ => [a]
  | .ori _ a _ => [a]
  | .xori _ a _ => [a]
  | .shli _ a _ => [a]
  | .shri _ a _ => [a]
  | .shai _ a _ => [a]
  | .cmpi _ a _ _ => [a]
  | .fadd _ a b _ => [a, b]
  | .fsub _ a b _ => [a, b]
  | .fmul _ a b _ => [a, b]
  | .ffma d a b _ => [a, b, d]
  | .fmin _ a b => [a, b]
  | .fmax _ a b => [a, b]
  | .fcmp _ a b _ => [a, b]
  | .fcvt _ a b _ _ r => if r = 4 then [a, b] else [a]
  | .vbcast _ a _ _ => [a]
  | .vins _ a b _ => [a, b]
  | .vext _ _ b _ => [b]
  | .kmovG _ a b => [a, b]
  | _ => []

/-- The general registers that an instruction writes. -/
def destsOf : Instr → List Nat
  | .add d _ _ => [d]
  | .sub d _ _ => [d]
  | .mul d _ _ => [d]
  | .mulh d _ _ => [d]
  | .mulhn d _ _ => [d]
  | .div d _ _ => [d]
  | .divn d _ _ => [d]
  | .rem d _ _ => [d]
  | .remn d _ _ => [d]
  | .and d _ _ => [d]
  | .or d _ _ => [d]
  | .xor d _ _ => [d]
  | .andn d _ _ => [d]
  | .orn d _ _ => [d]
  | .shl d _ _ => [d]
  | .shr d _ _ => [d]
  | .sha d _ _ => [d]
  | .rot d _ _ => [d]
  | .min d _ _ => [d]
  | .max d _ _ => [d]
  | .minn d _ _ => [d]
  | .maxn d _ _ => [d]
  | .clz d _ => [d]
  | .ctz d _ => [d]
  | .popc d _ => [d]
  | .brev d _ => [d]
  | .sel d _ _ _ => [d]
  | .mov d _ => [d]
  | .addp d _ _ => [d]
  | .cmp d _ _ _ => [d]
  | .ext d _ _ _ => [d]
  | .extn d _ _ _ => [d]
  | .ins d _ _ _ => [d]
  | .addi d _ _ => [d]
  | .andi d _ _ => [d]
  | .ori d _ _ => [d]
  | .xori d _ _ => [d]
  | .shli d _ _ => [d]
  | .shri d _ _ => [d]
  | .shai d _ _ => [d]
  | .lih d _ => [d]
  | .cmpi d _ _ _ => [d]
  | .fadd d _ _ _ => [d]
  | .fsub d _ _ _ => [d]
  | .fmul d _ _ _ => [d]
  | .ffma d _ _ _ => [d]
  | .fmin d _ _ => [d]
  | .fmax d _ _ => [d]
  | .fcmp d _ _ _ => [d]
  | .fcvt d _ _ _ _ _ => [d]
  | .ld d a _ m _ => if m = 1 ∨ m = 2 then [d, a] else [d]
  | .ldN d a _ m _ => if m = 1 ∨ m = 2 then [d, a] else [d]
  | .st _ a _ m _ => if m = 1 ∨ m = 2 then [a] else []
  | .ldp d a _ m _ => if m = 1 ∨ m = 2 then [d, d + 1, a] else [d, d + 1]
  | .stp _ a _ m _ => if m = 1 ∨ m = 2 then [a] else []
  | .amoAdd _ d _ _ _ _ => [d]
  | .amoMin _ d _ _ _ _ => [d]
  | .amoMax _ d _ _ _ _ => [d]
  | .amoMinn _ d _ _ _ _ => [d]
  | .amoMaxn _ d _ _ _ _ => [d]
  | .amoAnd _ d _ _ _ _ => [d]
  | .amoOr _ d _ _ _ _ => [d]
  | .amoXor _ d _ _ _ _ => [d]
  | .amoSwap _ d _ _ _ _ => [d]
  | .amoc _ d _ _ _ _ _ => [d]
  | .amof _ d _ _ _ => [d]
  | .claim _ d _ _ _ => [d]
  | .brc _ a _ => [a]
  | .call _ => [15]
  | .fork d _ => [d]
  | .forkr d _ => [d]
  | .send d _ _ _ a => if a = 1 then [d] else []
  | .self d => [d]
  | .mode d _ => [d]
  | .empty m => maskRegs m
  | .sopen d _ _ _ => [d]
  | .sclose d => [d]
  | .sinfo d _ _ => [d]
  | .bwait d _ => [d]
  | .btest d _ => [d]
  | .lock d _ => [d]
  | .waita d _ _ => [d]
  | .mend m => maskRegs m
  | .fray t k => if k = 0 then [t] else []
  | .vext d _ _ _ => [d]
  | .kmovLo d _ => [d]
  | .kmovHi d _ => [d]
  | .kpop d _ => [d]
  | .time d => [d]
  | .ctlr d _ => [d]
  | .klaunch d _ _ => [d]
  | _ => []

/-- The vector registers that a V-format instruction names (R244). -/
def vregsOf : Instr → Option (List Nat)
  | .vadd d a b _ _ => some [d, a, b]
  | .vsub d a b _ _ => some [d, a, b]
  | .vmul d a b _ _ => some [d, a, b]
  | .vmin d a b _ _ => some [d, a, b]
  | .vmax d a b _ _ => some [d, a, b]
  | .vabs d a _ _ => some [d, a]
  | .vneg d a _ _ => some [d, a]
  | .vfma d a b _ _ => some [d, a, b]
  | .vfms d a b _ _ => some [d, a, b]
  | .vand d a b _ _ => some [d, a, b]
  | .vor d a b _ _ => some [d, a, b]
  | .vxor d a b _ _ => some [d, a, b]
  | .vshl d a b _ _ => some [d, a, b]
  | .vshr d a b _ _ => some [d, a, b]
  | .vsha d a b _ _ => some [d, a, b]
  | .vsel d a b _ _ => some [d, a, b]
  | .vcmp _ a b _ _ _ => some [a, b]
  | .vcvt d a b _ _ _ => some [d, a, b]
  | .vlog2 d a _ _ => some [d, a]
  | .vexp2 d a _ _ => some [d, a]
  | .vrcp d a _ _ => some [d, a]
  | .vrsq d a _ _ => some [d, a]
  | .vsqrt d a _ _ => some [d, a]
  | .vredSum d a _ _ => some [d, a]
  | .vredMax d a _ _ => some [d, a]
  | .vredMin d a _ _ => some [d, a]
  | .vredMaxi d a _ _ => some [d, a]
  | .vredMini d a _ _ => some [d, a]
  | .vscanSum d a _ _ => some [d, a]
  | .vscanMax d a _ _ => some [d, a]
  | .vscanMin d a _ _ => some [d, a]
  | .vperm d a b _ _ => some [d, a, b]
  | .vpermX2 d a b _ _ => some [d, a, a + 1, b]
  | .vshuf d a b _ _ => some [d, a, b]
  | .vbcast d _ _ _ => some [d]
  | .vmov d a _ _ => some [d, a]
  | .vmovX2 d a _ _ => some [d, d + 1, a, a + 1]
  | .vmovX4 d a _ _ => some [d, d + 1, d + 2, d + 3, a, a + 1, a + 2, a + 3]
  | .vins d _ _ _ => some [d]
  | .vext _ a _ _ => some [a]
  | .vld d _ _ _ _ => some [d]
  | .vst d _ _ _ _ => some [d]
  | .vstBnd d _ _ _ _ _ => some [d]
  | .vlds d _ _ _ _ _ => some [d]
  | .vsts d _ _ _ _ _ => some [d]
  | .vgath d _ b _ _ _ => some [d, b]
  | .vscat d _ b _ _ _ => some [d, b]
  | .kand _ _ _ => some []
  | .kor _ _ _ => some []
  | .kxor _ _ _ => some []
  | .knot _ _ => some []
  | .kmov _ _ => some []
  | .kmovG _ _ _ => some []
  | .kmovLo _ _ => some []
  | .kmovHi _ _ => some []
  | .kpop _ _ => some []
  | .mrd r _ _ v => some (rowRegs r v)
  | .mwr r _ _ v => some (rowRegs r v)
  | _ => none

end Sys2Proof.Machine
end

