-- ==== Sys2Proof/Machine/Atomics.lean ====
section
/-! DEFINITION. Memory-side atomics and claims (R315 to R322), their performance at the home and the combining of claims. -/

namespace Sys2Proof.Machine

/-! ### At the home -/

/-- The new value of an operation from the old value and the operand (Table 15-6, R317, R318, R321). -/
def atomicNew (op bits x y : Nat) : Nat :=
  match op with
  | 1 => if signed bits x ≤ signed bits y then x else y
  | 2 => if signed bits x ≥ signed bits y then x else y
  | 3 => Nat.min x y
  | 4 => Nat.max x y
  | 5 => x &&& y
  | 6 => x ||| y
  | 7 => x ^^^ y
  | 8 => y
  | 9 => y
  | 10 => (Fp.add Fp.fp32 0 x y).1
  | _ => (x + y) % 2 ^ bits

/-- The flags of an operation: `AMOF` only. -/
def atomicFlags (op x y : Nat) : Fp.Flags := if op = 10 then (Fp.add Fp.fp32 0 x y).2 else 0

/-- An atomic performed at its home (R316 to R321): the old value with its fray, the flags, and the state after its write.  The
read finds what any read of the place does (R29, R32, R320). -/
def performAtomic (s : State) (a : Atomic) : State × Fill × Fp.Flags :=
  let n := a.width
  if !pathOpen s a.loc.pkg then (s.nextFree, ⟨a.reg, s.free, true, 3⟩, 0)
  else
    let s0 := noteDamage s (a.sid / 32768) a.loc.key n
    let r := readLoc s0 a.loc n
    let x := leNat r.bytes
    match r.code with
    | some c => (s0.nextFree, ⟨a.reg, BitVec.ofNat 64 x, true, c⟩, 0)
    | none =>
      let fill : Fill := ⟨a.reg, BitVec.ofNat 64 x, false, 0⟩
      if a.op = 9 ∧ x ≠ a.expect then (s0, fill, 0)
      else
        let s1 := match a.withhold with
          | some (ctx, selv, addr) => countWithheld s0 ctx selv addr 9
          | none => s0
        let w : MemWrite := ⟨a.loc.key, leBytes n (atomicNew a.op (8 * n) x a.y), a.poison⟩
        (writeHome s1 w, fill, if a.frayedOperand then 0 else atomicFlags a.op x a.y)

/-! ### Issue -/

/-- The page a pointer is translated through; none for a scratchpad. -/
def pageOf (s : State) (k : Strand) (ptr : Nat) : Option Nat :=
  if isSpread ptr then none else (findPage s k.ctx (virtAddr (segsOf s k.ctx k.core) ptr)).map (·.1)

/-- A result sets out to its strand; an acquire at `.sys` has invalidated by then (R228). -/
def returnResult (s : State) (a : Atomic) (fill : Fill) (fl : Fp.Flags) (pkg : Nat) : State :=
  let s1 := match Tab.find s.strands a.sid with
    | some k => if a.order % 2 = 1 ∧ a.reach = 4 then acquireSys s (clusterOf k.core) else s
    | none => s
  s1.send (.atomicRet a.sid a.gen fill fl pkg)

/-- The reply of an atomic to its strand's own core. -/
def ownReply (s : State) (a : Atomic) : State :=
  let r := performAtomic s a
  returnResult r.1 a r.2.1 r.2.2 s.pkg

/-- A claim on the strand's own core's scratchpad passes no combining stage (R322). -/
def stagedClaim (op : Nat) (own : Option Code) (taint : Bool) : Way → Bool
  | .here l => op == 11 && own.isNone && !taint && decide (l.key < scratchBase)
  | .request _ => op == 11 && own.isNone && !taint

/-- The issue of an atomic or claim (R315): the destination empties and the request leaves; one on the core's own scratchpad is
performed in the order of issue (R213). -/
def atomicIssue (i : Instr) (op order d a b : Nat) (c : Option Nat) (w reach : Nat) (s : State) : Out :=
  let n := if w = 1 then 8 else 4
  let ops := match c with
    | some c => [b, c]
    | none => [b]
  issue i (a :: ops) [d] s fun s sid k =>
    withClean s sid k [a] <|
      let rel := 2 ≤ order
      withAccess s sid k (k.nat a) n n (needRd ||| needWr) false fun way =>
        let l := way.loc
        if rel && !releaseReady s sid k reach then .next (s.putStrand sid (k.wait .request))
        else if rel && reach == 4 && lostAny k then .next (observeFray (s.putStrand sid { k with lost := [] }) sid 3)
        else
          let own := firstFray k ops
          let taint := rel && k.st.t
          let withheld := taint && l.shared
          let x : Atomic := {
            sid := sid, gen := k.gen, reg := d, op := op, width := n, loc := l, page := pageOf s k (k.nat a)
            y := k.nat b % 2 ^ (8 * n)
            expect := match c with
              | some c => k.nat c % 2 ^ (8 * n)
              | none => 0
            -- R354: withheld, the data goes out clean
            poison := if withheld then none else match own with
              | some c => some c
              | none => if taint then some 9 else none
            frayedOperand := own.isSome, order := order, reach := reach
            at_ := if scratchBase ≤ l.key then virtualIssue s k else none
            withhold := if withheld then some (k.ctx, selvedgeOf s k.ctx k.sc, k.nat a) else none }
          let k1 := match own with
            | some c => k.taint c
            | none => k
          let s1 := s.putStrand sid (k1.await d).advance
          match memberWay s k way with
          | .here l1 =>
            if scratchBase ≤ l1.key then .next (ownReply s1 x)
            else if stagedClaim op own taint way then .next (s1.send (.claim ⟨x, k.core, 0, []⟩))
            else .next (s1.send (.atomic x false))
          | .request _ =>
            if stagedClaim op own taint way then .next (s1.send (.claim ⟨x, k.core, 0, []⟩))
            else .next (s1.send (.atomic x false))

/-- `AMO.add` (R316). -/
def execAmoAdd (o d a b w r : Nat) (s : State) : Out := atomicIssue (.amoAdd o d a b w r) 0 o d a b none w r s
/-- `AMO.min` (R316). -/
def execAmoMin (o d a b w r : Nat) (s : State) : Out := atomicIssue (.amoMin o d a b w r) 1 o d a b none w r s
/-- `AMO.max` (R316). -/
def execAmoMax (o d a b w r : Nat) (s : State) : Out := atomicIssue (.amoMax o d a b w r) 2 o d a b none w r s
/-- `AMO.minn` (R316). -/
def execAmoMinn (o d a b w r : Nat) (s : State) : Out := atomicIssue (.amoMinn o d a b w r) 3 o d a b none w r s
/-- `AMO.maxn` (R316). -/
def execAmoMaxn (o d a b w r : Nat) (s : State) : Out := atomicIssue (.amoMaxn o d a b w r) 4 o d a b none w r s
/-- `AMO.and` (R316). -/
def execAmoAnd (o d a b w r : Nat) (s : State) : Out := atomicIssue (.amoAnd o d a b w r) 5 o d a b none w r s
/-- `AMO.or` (R316). -/
def execAmoOr (o d a b w r : Nat) (s : State) : Out := atomicIssue (.amoOr o d a b w r) 6 o d a b none w r s
/-- `AMO.xor` (R316). -/
def execAmoXor (o d a b w r : Nat) (s : State) : Out := atomicIssue (.amoXor o d a b w r) 7 o d a b none w r s
/-- `AMO.swap` (R316). -/
def execAmoSwap (o d a b w r : Nat) (s : State) : Out := atomicIssue (.amoSwap o d a b w r) 8 o d a b none w r s
/-- `AMOC` (R317). -/
def execAmoc (o d a b c w r : Nat) (s : State) : Out := atomicIssue (.amoc o d a b c w r) 9 o d a b (some c) w r s
/-- `AMOF` (R318). -/
def execAmof (o d a b r : Nat) (s : State) : Out := atomicIssue (.amof o d a b r) 10 o d a b none 0 r s
/-- `CLAIM` (R321). -/
def execClaim (o d a b r : Nat) (s : State) : Out := atomicIssue (.claim o d a b r) 11 o d a b none 1 r s

/-! ### Faults at the home (R319) -/

/-- The state of the page an atomic was translated through, none for a scratchpad. -/
def pageStateOf (s : State) (page : Option Nat) : Option Nat :=
  (page.bind fun key => Tab.find s.xlat.pages key).map fun p => leafState p.leaf

/-- A fault that parks an atomic at its home: a page that is not present, migrating or spilled there, or a row whose remap
is in progress (Table 21-4). -/
def atomicParks (s : State) (a : Atomic) : Bool :=
  pageStateOf s a.page == some 0 || pageStateOf s a.page == some 2 || pageStateOf s a.page == some 3 || rowBusy s a.loc

/-- The page was unmapped before the atomic was performed: no repair is possible (R319). -/
def atomicLost (s : State) (a : Atomic) : Bool := a.page.isSome && pageStateOf s a.page == none

/-- The place of an atomic in its page's present frame (R372). -/
def replayLoc (s : State) (a : Atomic) : Loc := match a.page.bind fun key => Tab.find s.xlat.pages key with
  | some p =>
    let off := (a.loc.key - leafFrame a.loc.leaf) % leafSize a.loc.leaf
    pageLoc p.leaf off
  | none => a.loc

/-- A request as it goes on to its home: no longer parked there. -/
def Flight.unparked : Flight → Flight
  | .atomic a _ => .atomic a false
  | .claim c => .claim { c with stage := 4 }
  | f => f

/-- Reply of a performed atomic: to its strand, or to the combining stage that forwarded it. -/
def atomicReply (s : State) (id : Nat) (f : Flight) (pkg : Nat) (fill : Fill) (fl : Fp.Flags) : State :=
  match f with
  | .claim c => { s with flights := Tab.put s.flights id (.claimReply c fill) }
  | .atomic a _ => returnResult (s.delFlight id) a fill fl pkg
  | _ => s

/-- The atomic is performed, and its issuer's die has seen from now on what the home has seen (R218). -/
def performHome (s : State) (id : Nat) (f : Flight) (a : Atomic) : State :=
  let r := if atomicLost s a then (s.nextFree, (⟨a.reg, s.free, true, 1⟩ : Fill), (0 : Fp.Flags))
    else performAtomic (learn s (issuerDie s a.sid) a.loc) a
  atomicReply r.1 id f a.loc.pkg r.2.1 r.2.2

/-- An atomic at its home: lost over a dead path, parked in the fault queue by a fault there while it has room, or performed
(R310, R316, R319). -/
def atomicHome (s : State) (id : Nat) (f : Flight) (b : Atomic) : State :=
  let a := { b with loc := replayLoc s b }
  if !pathOpen s a.loc.pkg then performHome s id f a
  else if atomicParks s a then
    match f, a.page with
    | .atomic _ false, some key =>
      if faultRoom s key then askRepair { s with flights := Tab.put s.flights id (.atomic b true) } (a.sid / 32768) key else s
    | .claim c, some key =>
      if faultRoom s key then askRepair { s with flights := Tab.put s.flights id (.claim { c with stage := 5 }) } (a.sid / 32768) key else s
    | _, _ => s
  else if !homeServes s (issuerDie s a.sid) a.loc a.width || !memberTurn s id a.loc.key a.at_ then s
  else performHome s id f a

/-- ATOMIC_AT_HOME (R316). -/
def execAtomicAtHome (id : Nat) (s : State) : Out :=
  match Tab.find s.flights id with
  | some (.atomic a false) => .next (atomicHome s id (.atomic a false) a)
  | some (.claim c) => if c.stage = 4 then .next (atomicHome s id (.claim c) c.claim) else .next s
  | _ => .next s

/-- ATOMIC_RESULT_RETURN (R315): the destination fills and the flags merge (R48). -/
def execAtomicResultReturn (id : Nat) (s : State) : Out :=
  match Tab.find s.flights id with
  | some (.atomicRet sid gen fill fl _) =>
    .next ((fillStrand (s.delFlight id) sid gen [fill]).modStrand sid fun k =>
      if k.gen = gen then k.mergeFlags fl else k)
  | _ => .next s

/-! ### Combining (R322) -/

def State.putFlight (s : State) (id : Nat) (f : Flight) : State := { s with flights := Tab.put s.flights id f }

/-- A claim that waits at the same stage and may be combined with another. -/
def waitingPeer (s : State) (id : Nat) (c : Combined) (stage : Nat) : Option (Nat × Combined) :=
  s.flights.findSome? fun p => match p.2 with
    | .claim d =>
      if p.1 ≠ id ∧ d.stage = stage ∧ d.claim.loc.key = c.claim.loc.key ∧ d.claim.order = c.claim.order ∧
          d.claim.reach = c.claim.reach ∧
          (if stage = 1 then clusterOf d.core = clusterOf c.core else dieOf d.core = dieOf c.core) then some (p.1, d)
      else none
    | _ => none

/-- CLAIM_STAGE_ARRIVAL (R322): at the cluster's port, or at the die's router. -/
def execClaimStageArrival (id : Nat) (s : State) : Out :=
  match Tab.find s.flights id with
  | some (.claim c) =>
    if c.stage = 0 ∨ c.stage = 2 then
      let s1 := s.putFlight id (.claim { c with stage := 8 })
      match waitingPeer s id c (c.stage + 1) with
      | some (g, d) =>
        .next (s1.putFlight g (.claim { d with
          claim := { d.claim with y := (d.claim.y + c.claim.y) % 2 ^ 64 }, parts := d.parts ++ [(id, c.claim.y)] }))
      | none => .next (s1.send (.claim { c with stage := c.stage + 1, parts := [(id, c.claim.y)] }))
    else .next s
  | _ => .next s

/-- CLAIM_COMBINE_TIMEOUT (R322): the group goes on to the next stage, or to the home. -/
def execClaimCombineTimeout (id : Nat) (s : State) : Out :=
  match Tab.find s.flights id with
  | some (.claim c) =>
    if c.stage = 1 ∨ c.stage = 3 then .next (s.putFlight id (.claim { c with stage := c.stage + 1 })) else .next s
  | _ => .next s

/-- The bases handed out in order: B, B + c1, B + c1 + c2, … -/
def shareOut (s : State) (base : Fill) : Nat → List (Nat × Nat) → State
  | _, [] => s
  | off, (id, n) :: ps =>
    let v : Word := if base.fray then base.val else base.val + BitVec.ofNat 64 off
    let s1 := match Tab.find s.flights id with
      | some (.claim c) =>
        if c.parts.isEmpty then
          returnResult (s.delFlight id) c.claim ⟨c.claim.reg, v, base.fray, base.code⟩ 0 c.claim.loc.pkg
        else s.putFlight id (.claimReply c { base with val := v })
      | _ => s
    shareOut s1 base (off + n) ps

/-- CLAIM_REPLY_SPLIT (R322): the order among the requesters is the stage's choice (log 16). -/
def execClaimReplySplit (id : Nat) (s : State) : Out :=
  match Tab.find s.flights id with
  | some (.claimReply c base) => .next (shareOut (s.delFlight id) base 0 (rotateList s.pick c.parts))
  | _ => .next s

end Sys2Proof.Machine
end

