-- ==== Sys2Proof/Machine/Engine.lean ====
section
/-! DEFINITION. What copies and selections share (R189, R232 to R236, R300 to R303, R310 to R313): the checks at issue, the
probe, the arrivals and the end of an operation, parked requests and their replay. -/

namespace Sys2Proof.Machine

/-! ### Addresses of engines -/

/-- An address as an engine takes it: a spread pointer, or a virtual address (R300). -/
def resolve (segs : List Nat) (ptr : Nat) : Nat := if isSpread ptr then ptr else virtAddr segs ptr

/-- What an engine finds at an address (R310, R311, R374). -/
def engineAt (s : State) (ctx addr need : Nat) : EngFound :=
  if isSpread addr then .at (scratchLoc ctx addr)
  else
    match findPage s ctx addr with
    | none => .unresolvable
    | some (key, p) =>
      if !leafRights p.leaf (need ||| needEn) then .unresolvable
      else if leafState p.leaf = 1 ∨ leafState p.leaf = 4 ∨ leafState p.leaf = 5 then
        let l := pageLoc p.leaf addr
        if rowBusy s l then .resolvable key else .at l
      else .resolvable key

/-- What the firmware finds at a virtual address or spread pointer of a context: its accesses ask no en right (R374). -/
def firmwareAt (s : State) (ctx addr need : Nat) : EngFound :=
  if isSpread addr then .at (scratchLoc ctx addr)
  else match findPage s ctx addr with
    | none => .unresolvable
    | some (key, p) =>
      if !leafRights p.leaf need then .unresolvable
      else if leafState p.leaf = 1 ∨ leafState p.leaf = 4 ∨ leafState p.leaf = 5 then .at (pageLoc p.leaf addr)
      else .resolvable key

/-- What an arrival finds at its barrier's address. -/
def arrivalAt (s : State) (ctx : Nat) (firm : Bool) (addr : Nat) : EngFound :=
  if firm then firmwareAt s ctx addr needBar else engineAt s ctx addr needBar

/-- A range of memory that an engine command names passes its segment check at issue (R300), a write closed to the
dictionary (R87). -/
def engineCheck (s : State) (k : Strand) (ptr n need : Nat) : Bool :=
  segCheckRange s (segsOf s k.ctx k.core) (((Tab.find s.ctxs k.ctx).map (·.quads)).getD 0) ptr n (need ||| needEn) &&
    !(isSpread ptr && bitOf need 1 && inDictionary (ptrOff ptr) n && hasDict s k.ctx k.kernel)

/-! ### A descriptor read at issue (R307, R328) -/

/-- The copy engine's translation of an address fills its cluster's TLB (R300, R310, R373). -/
def fillAddr (s : State) (cluster ctx addr : Nat) : State :=
  if isSpread addr then s
  else match findPage s ctx addr with
    | some (key, _) => fillMissing s cluster key
    | none => s

/-- What stands against the read of a 64-byte descriptor, or where it is made: it makes no translation of the strand's. -/
inductive DescRead where
  | at (l : Loc)
  | trap (cause : Nat)
  /-- no mapping for its page, or no right to read it -/
  | fail
  /-- an access, a bank, a home or a row it waits for (R134), or its page, which is to come (R310) -/
  | wait (page : Option Nat)
  deriving DecidableEq, Repr

def descRead (s : State) (sid : Nat) (k : Strand) (ptr : Nat) : DescRead :=
  let segs := segsOf s k.ctx k.core
  if ptr % 64 ≠ 0 then .trap causeAlignment
  else if segCheck s segs (((Tab.find s.ctxs k.ctx).map (·.quads)).getD 0) ptr 64 needRd = false then .trap causeSegment
  else if memBusy s sid then .wait none
  else if isSpread ptr then
    let l := scratchLoc k.ctx ptr
    let own := l.pkg == s.pkg && ptrCore ptr == homeCore s k.ctx k.core
    if scratchReady s k ptr 64 own && !(own && padDeferred s k ptr) && placeReady s sid k l 64 needRd && pathClear s l.pkg then .at l
    else .wait none
  else
    let va := virtAddr segs ptr
    match findPage s k.ctx va with
    | none => .fail
    | some (key, p) =>
      if !leafRights p.leaf needRd then .fail
      else if leafState p.leaf = 1 ∨ leafState p.leaf = 4 ∨ leafState p.leaf = 5 then
        let l := pageLoc p.leaf va
        if placeReady s sid k l 64 needRd && pathClear s l.pkg then .at l else .wait none
      else .wait (some key)

/-- The flow of a descriptor read: a trap, what a page that cannot be read leads to, a stall, an observed fray, or what follows it. It
comes after the strand's own earlier accesses (R211), and sees damage as any read does (R29). The translation of a copy's is the engine's, and fills its cluster's TLB
(R300, R373). -/
def withDesc (s : State) (sid : Nat) (k : Strand) (ptr : Nat) (copy : Bool) (fail : Out) (body : State → Nat → Out) : Out :=
  match descRead s sid k ptr with
  | .trap c => .next (trap s sid c)
  | .fail => fail
  | .wait none => .next (s.putStrand sid (k.wait .request))
  | .wait (some p) => .next (askRepair (s.putStrand sid (k.wait .request)) k.ctx p)
  | .at l =>
    let s0 := if copy then fillAddr s (clusterOf k.core) k.ctx (resolve (segsOf s k.ctx k.core) ptr) else s
    let s1 := learn (noteLoc s0 k.ctx l 64) (dieOf k.core) l
    match (readLoc s l 64).code with
    | some c => .next (observeFray s1 sid c)
    | none => body s1 (leNat (readLoc s l 64).bytes)

/-! ### Issue (R302, R303) -/

def isCopy (o : EngineOp) : Bool := o.sel.isNone

/-- The operations of the engine or merger that would run a command of a core. -/
def engineLoad (s : State) (core : Nat) (copy : Bool) : Nat :=
  (s.ops.filter fun p => if copy then isCopy p.2 && clusterOf p.2.core == clusterOf core
    else !isCopy p.2 && dieOf p.2.core == dieOf core).length

/-- A scope has marked its members: a command issued into it stops at offset 0 (R166). -/
def scopeMarked (s : State) (ctx scope : Nat) : Bool := match findScope s ctx scope with
  | some r => hasMarked r none
  | none => false

/-- The engine commands of a strand that have not ended. -/
def opsOf (s : State) (sid gen : Nat) : List Nat :=
  (s.ops.filter fun p => p.2.issuer == some (sid, gen)).map (·.1)

/-- An operation with the fields that its issue gives every command. -/
def EngineOp.make (s : State) (sid : Nat) (k : Strand) (barrier reach : Nat) (after : Bool) (share : Nat) : EngineOp := {
  ctx := k.ctx, core := k.core, issuer := some (sid, k.gen), queue := none
  state := if after then .waiting else .queued
  mode := none, src := 0, dst := 0, sspace := 0, dspace := 0, size := 0, esize := 1, dims := [], tag := none, sel := none
  written := [], parked := [], found := [], bad := [], engaged := [], arrived := [], away := none
  barrier := resolve (segsOf s k.ctx k.core) barrier, reach := reach, done := 0, credited := 0, scope := k.sc, share := share
  cut := none, tainted := k.st.t, selvedge := selvedgeOf s k.ctx k.sc, shielded := decide (0 < k.st.sd)
  marked := decide (k.st.sd = 0) && scopeMarked s k.ctx k.sc
  after := if after then opsOf s sid k.gen else []
  worst := if after then k.worst else .complete }

/-- A command that has passed its checks issues: a release at its reach (R233), with a split of the share (R302); it stalls
while its queue is full (R303, R326). -/
def issueOp (s : State) (sid : Nat) (k : Strand) (copy : Bool) (barrier reach : Nat) (after : Bool)
    (fill : EngineOp → EngineOp) : Out :=
  if memBusy s sid || !releaseReady s sid k reach then .next (s.putStrand sid (k.wait .request))
  else if reach = 4 ∧ lostAny k then .next (observeFray (s.putStrand sid { k with lost := [] }) sid 3)
  else if (if copy then 320 else 288) ≤ engineLoad s k.core copy then .next (s.putStrand sid (k.wait .request))
  else
    withShare s sid k fun k1 share =>
      let o := fill (EngineOp.make s sid k barrier reach after share)
      .next ({ s.putOp s.nextId o with nextId := s.nextId + 1 }.putStrand sid k1.advance)

/-! ### The barrier (R189) -/

/-- What a probe, or an arrival, finds at the barrier. -/
inductive Probe where
  | ok (l : Loc) (b : Bar)
  /-- lock mode or malformed (code 0), poison or an uncorrectable error -/
  | refused (l : Loc) (c : Code)
  | resolvable (page : Nat)
  | unreachable
  /-- beyond a dead path -/
  | lost (l : Loc)
  /-- its bank or home cannot serve it yet -/
  | wait
  deriving DecidableEq, Repr

/-- `reader`: the die that asks, if one does. -/
def probeBar (s : State) (ctx : Nat) (firm : Bool) (reader : Option Nat) (addr : Nat) : Probe :=
  match arrivalAt s ctx firm addr with
  | .unresolvable => .unreachable
  | .resolvable p => .resolvable p
  | .at l =>
    if !pathOpen s l.pkg then .lost l
    else if !homeServes s (reader.getD l.die) l 32 || !pathClear s l.pkg then .wait
    else
      match (readLoc s l 32).code with
      | some c => .refused l c
      | none =>
        let b := readBar s l.key
        if b.valid && b.mode != 2 then .ok l b else .refused l 0

/-- The probe of an operation (R189). -/
def EngineOp.probe (s : State) (o : EngineOp) : Probe := probeBar s o.ctx false (some (dieOf o.core)) o.barrier

/-! ### The end of an operation (R236, R302, R312) -/

def OpEnd.rank : OpEnd → Nat
  | .complete => 0
  | .short => 1
  | .frayed => 2

def OpEnd.max (a b : OpEnd) : OpEnd := if a.rank < b.rank then b else a

/-- A started ring command is done (R413). -/
def doneCommand (s : State) (q n result : Nat) : State :=
  match Tab.find s.queues q with
  | some x => s.putQueue q { x with started := x.started.map fun c =>
      if c.n = n then { c with done := true, result := result } else c }
  | none => s

/-- The operation is gone: its successors, its issuer and its queue learn how it ended. -/
def forgetOp (s : State) (id : Nat) (o : EngineOp) (how : OpEnd) (code : Code) : State :=
  let s1 := s.delOp id
  let s2 := { s1 with ops := s1.ops.map fun p =>
    if p.2.after.contains id then (p.1, { p.2 with after := p.2.after.erase id, worst := p.2.worst.max how }) else p }
  let s3 := match o.issuer with
    | some (sid, gen) => s2.modStrand sid fun k => if k.gen = gen then { k with worst := k.worst.max how } else k
    | none => s2
  match o.queue with
  | some (q, n) => doneCommand s3 q n (match how with
    | .complete => 0
    | .short => 2
    | .frayed => 3 + 256 * code.toNat)
  | none => s3

/-- The copy engine's translation of its barrier's address fills its cluster's TLB (R310, R373). -/
def fillBar (s : State) (o : EngineOp) : State := if isCopy o then fillAddr s (clusterOf o.core) o.ctx o.barrier else s

/-- An arrival of an operation sets out (R313). -/
def sendArrival (s : State) (id : Nat) (o : EngineOp) (bytes n : Nat) (code : Code) (short : Option Nat) (final : Bool) : State :=
  (fillBar s o).send (.arrival {
    ctx := o.ctx, ptr := o.barrier, bytes := bytes, n := n, code := code, tainted := o.tainted, selvedge := o.selvedge
    short := short, op := id, done := o.done, scope := o.scope, final := final
    share := if final && o.away.isNone then some o.share else none, firm := false } false)

/-- A package number that names no package. -/
def noPackage : Nat := 2 ^ 13

/-- The share of an operation comes back from another package's merger to the operation (R167); what the home has restored
since is lost to it (R168). -/
def recallShare (s : State) (o : EngineOp) : State × EngineOp :=
  match o.away, findScope s o.ctx o.scope with
  | some pkg, some r =>
    let held := Tab.get r.remotes pkg 0
    if 2 ^ o.share ≤ held then
      ((lowerProxy s o.ctx o.scope pkg (2 ^ o.share)).putList (scopeKey o.ctx o.scope) { r with remotes := Tab.put r.remotes pkg (held - 2 ^ o.share) }, { o with away := none })
    else (s, { o with away := some noPackage })
  | _, _ => (s, o)

/-- An operation ends with its final arrival: the rest of its bytes, and the mark of a stop (R190, R313). -/
def endOp (s : State) (id : Nat) (o : EngineOp) (how : OpEnd) (code : Code) : State :=
  let back := recallShare s o
  let s := back.1
  let o := back.2
  -- a failure is recorded (R363); the ends of codes 7 and 9 are none (R236, R336)
  let s1 := if how = .frayed ∧ code ≠ 7 ∧ code ≠ 9 then
    logFray s 2 code o.ctx (o.scope % 2 ^ 32) o.dst o.done else s
  let s2 := sendArrival s1 id o (o.done - o.credited) (if how = .complete ∨ code = 7 then 1 else 0) code
    (if how = .short then some o.done else none) true
  forgetOp s2 id o how code

/-- An operation that is refused at its probe, or whose barrier cannot be reached then: no arrival is made (R189). -/
def refuseOp (s : State) (id : Nat) (o : EngineOp) (code : Code) : State :=
  forgetOp (returnShare (logFray s 2 code o.ctx (o.scope % 2 ^ 32) o.barrier 0) o.ctx o.scope o.share) id o .frayed code

/-- An operation that moves no byte ends at once: `.after` behind a failure or a stop, a mark, or a descriptor that could not be read
(R166, R236, R300). -/
def settleOp (s : State) (id : Nat) (o : EngineOp) : Option State :=
  if o.marked ∧ o.shielded = false then some (endOp s id o .short 0)
  else match o.worst with
    | .frayed => some (endOp s id o .frayed 9)
    | .short => some (endOp s id o .short 0)
    | .complete => o.cut.map (endOp s id o .frayed)

/-- ENGINE_BARRIER_PROBE (R189): before the first byte. -/
def execEngineBarrierProbe (op : Nat) (s : State) : Out :=
  match Tab.find s.ops op with
  | none => .next s
  | some o =>
    if o.state ≠ .active ∨ o.mode.isSome then .next s
    else match o.probe s with
      | .wait => .next s
      | .resolvable _ => .next s
      | .unreachable => .next (refuseOp (fillBar s o) op o 2)
      | .lost _ => .next (endOp s op o .frayed 3)
      | .refused l c => .next (refuseOp (noteLoc (fillBar s o) o.ctx l 32) op o c)
      | .ok l b =>
        let s1 := noteLoc (fillBar s o) o.ctx l 32
        match settleOp s1 op o with
        | some s2 => .next s2
        | none => .next (s1.putOp op { o with mode := some b.mode, parked := [] })

/-- AFTER_PREDECESSORS_ENDED (R236): the command goes on to its engine, where it begins or, behind a failure or a stop,
ends at its probe. -/
def execAfterPredecessorsEnded (op : Nat) (s : State) : Out :=
  match Tab.find s.ops op with
  | none => .next s
  | some o => if o.state = .waiting ∧ o.after = [] then .next (s.putOp op { o with state := .queued }) else .next s

/-- A marked operation that has not begun stops at once (R236, R240, R341). -/
def stopUnbegun (s : State) (op : Nat) (o : EngineOp) : State :=
  let s1 := fillBar s o
  match o.probe s with
  | .wait => s
  | .unreachable => refuseOp s1 op o 2
  | .refused l c => refuseOp (noteLoc s1 o.ctx l 32) op o c
  | .ok l _ => endOp (noteLoc s1 o.ctx l 32) op o .short 0
  | _ => endOp s1 op o .short 0

/-! ### Arrivals at the home (R188 to R191, R353) -/

/-- The share of a final arrival returns after it (R302). -/
def afterArrival (s : State) (a : Arrival) : State := match a.share with
  | some e => returnShare s a.ctx a.scope e
  | none => s

/-- The mark of a stopped operation after its arrival (R190). -/
def markShort (s : State) (l : Loc) (a : Arrival) : State := match a.short with
  | some d => shortBar s l.key (readBar s l.key) d
  | none => s

/-- An arrival applied at its barrier. One that is withheld is not applied at all: it marks nothing either (R353). -/
def applyArrival (s : State) (a : Arrival) (l : Loc) (b : Bar) : State :=
  if b.mode = 0 ∧ a.final = false then s
  else
    let n := if b.mode = 0 then a.n else a.bytes
    let code : Option Code := if a.code ≠ 0 then some a.code else if a.tainted then some 9 else none
    let who : Actor := ⟨a.ctx, a.scope % 2 ^ 32, a.ptr⟩
    match code with
    | some c =>
      if a.tainted && isOutside s a.ctx b.owner a.selvedge l.shared then countWithheld s a.ctx a.selvedge a.ptr c
      else markShort (arriveBar s l.key b n code who) l a
    | none => markShort (arriveBar s l.key b n none who) l a

/-- A fray notice for an arrival that is lost on a dead path, over the path's next epoch (R424). -/
def lostNotice (s : State) (a : Arrival) (l : Loc) : State :=
  let e := match Tab.find s.links.paths l.pkg with
    | some p => p.epoch + 1
    | none => 1
  s.send (.frayNotice { a with op := l.key, code := 3, tainted := l.shared, share := none, short := none } l.pkg e)

/-- An arrival that another package has taken is kept until its acknowledgment comes (R424). -/
def keepArrival (s : State) (a : Arrival) (l : Loc) : State := if l.pkg = s.pkg then s else s.send (.arrived a l)

/-- An earlier arrival of the same operation has not been applied. -/
def arrivalFirst (s : State) (id op : Nat) : Bool :=
  s.flights.all fun p => decide (id ≤ p.1) || (match p.2 with
    | .arrival a _ => a.op != op
    | _ => true)

/-- ENGINE_ARRIVAL (R188): applied at the home, parked there on a resolvable fault, or discarded and recorded (R189). -/
def execEngineArrival (id : Nat) (s : State) : Out :=
  match Tab.find s.flights id with
  | some (.arrival a false) =>
    if !arrivalFirst s id a.op then .next s
    else
      let s1 := s.delFlight id
      let gone := fun s : State => afterArrival (logFray s 2 0 a.ctx (a.scope % 2 ^ 32) a.ptr a.done) a
      match probeBar s a.ctx a.firm none a.ptr with
      | .wait => .next s
      | .resolvable p =>
        -- the home's fault queue holds the request back while it is full (R310)
        if faultRoom s p then .next (askRepair (s.putFlight id (.arrival a true)) a.ctx p) else .next s
      | .lost l => .next (lostNotice (afterArrival s1 a) a l)
      | .ok l b => .next (keepArrival (afterArrival (applyArrival (noteLoc s1 a.ctx l 32) a l b) a) a l)
      | .refused l _ => .next (keepArrival (gone (noteLoc s1 a.ctx l 32)) a l)
      | .unreachable => .next (gone s1)
  -- its acknowledgment comes (R424)
  | some (.arrived _ _) => .next (s.delFlight id)
  | _ => .next s

/-! ### Parked requests (R310, R319, R339) -/

/-- A page that kept a request parked can be used, or never will be. -/
def pageSettled (s : State) (page : Nat) : Bool := match Tab.find s.xlat.pages page with
  | some p => leafState p.leaf == 1 || leafState p.leaf == 4 || leafState p.leaf == 5
  | none => true

/-- A parked atomic can never be performed: its page is gone, or its leaf has lost the right (R319, R376). -/
def atomicGone (s : State) (a : Atomic) : Bool :=
  match a.page with
  | none => false
  | some key => match Tab.find s.xlat.pages key with
    | some p => leafValid p.leaf && !leafRights p.leaf (needRd ||| needWr)
    | none => true

/-- A parked atomic or claim is made again: lost where no repair is possible, and over a path that has died meanwhile (R319,
R321). -/
def replayAtomic (s : State) (id : Nat) (f : Flight) (a : Atomic) : State :=
  if !pathOpen s (replayLoc s a).pkg then s.putFlight id f.unparked
  else if atomicGone s a then atomicReply s.nextFree id f a.loc.pkg ⟨a.reg, s.free, true, 1⟩ 0
  else if atomicParks s { a with loc := replayLoc s a } then
    match a.page with
    | some key => askRepair s (a.sid / 32768) key
    | none => s
  else s.putFlight id f.unparked

/-- FAULT_REPLAY (R310, R319): a request whose fault is over is made again; one whose page has gone on to another resolvable
state asks for it (R380). -/
def execFaultReplay (id : Nat) (s : State) : Out :=
  match Tab.find s.flights id with
  | some (.atomic a true) => .next (replayAtomic s id (.atomic a true) a)
  | some (.claim c) => .next (if c.stage = 5 then replayAtomic s id (.claim c) c.claim else s)
  | some (.arrival a true) =>
    match arrivalAt s a.ctx a.firm a.ptr with
    | .resolvable p => .next (askRepair s a.ctx p)
    | _ => .next (s.putFlight id (.arrival a false))
  | _ =>
    match Tab.find s.ops id with
    | some o =>
      let still := o.parked.filter fun p => !pageSettled s p.2
      .next (still.foldl (fun s p => askRepair s o.ctx p.2) (s.putOp id { o with parked := still }))
    | none => .next s

end Sys2Proof.Machine
end

