-- ==== Sys2Proof/Machine/Copy.lean ====
section
/-! DEFINITION. Copies (R304 to R314): `COPY`, `COPY.T`, `COPY.TAG`, and the steps of the copy engine. -/

namespace Sys2Proof.Machine

/-! ### The byte stream of a copy (R305, R308) -/

/-- The byte offset of stream byte `j` on one side: dimension 0 is contiguous. -/
def strideOff (dst : Bool) : List Dim → Nat → Int
  | [], _ => 0
  | d :: ds, e => (e % d.count : Nat) * (if dst then d.dstride else d.sstride) + strideOff dst ds (e / d.count)

def streamOff (o : EngineOp) (dst : Bool) (j : Nat) : Int :=
  if o.dims.isEmpty then j else strideOff dst o.dims (j / o.esize) + (j % o.esize : Nat)

/-- The place of stream byte `j` on one side. -/
def streamAt (s : State) (o : EngineOp) (dst : Bool) (j : Nat) : EngFound :=
  let space := if dst then o.dspace else o.sspace
  let base := if dst then o.dst else o.src
  let off := streamOff o dst j
  if space = 0 then engineAt s o.ctx (addp base off) (if dst then needWr else needRd)
  else .at ⟨bufferKey o.ctx (quadOf o.core) space ((base : Int) + off).toNat, s.pkg, dieOf o.core, false, false, 0⟩

/-- How one unit can be moved now (R305, R310, R311). -/
inductive UnitWay where
  | go (src dst : List Loc)
  | resolvable (page : Nat)
  | fail (code : Code)
  /-- a bank or region is not ready (R31, R33) -/
  | wait
  deriving DecidableEq, Repr

/-- A byte's place can be used now: its bank and region (R31, R33, R34), at another die's home what the issuer's die has seen (R224),
and at another package behind what has been sent there (R425). -/
def byteReady (s : State) (o : EngineOp) (l : Loc) : Bool :=
  landed s (dieOf o.core) l && pathClear s l.pkg &&
    (if l.key < scratchBase then true
      else if l.key < bufferBase then requestReady s l.key 1
      else bufferReady s (keyBufferCtx l.key) (keyQuad l.key) (keyBuffer l.key) (l.key % 2 ^ 18) 1)

/-- One byte on one side: its place, or what stands against it; worst first. -/
def byteWay (s : State) (o : EngineOp) (dst : Bool) (j : Nat) : UnitWay :=
  match streamAt s o dst j with
  | .unresolvable => .fail 2
  | .resolvable p => .resolvable p
  | .at l =>
    if !pathOpen s l.pkg then .fail 3
    else if !dst && (l.poisoned || (unitCode s.prot (unitBase l.key)).isSome) then .fail 2
    else if byteReady s o l then .go [l] [] else .wait

/-- The ways of two parts taken together: a failure before a fault, a fault before a wait. -/
def UnitWay.both (dst : Bool) : UnitWay → UnitWay → UnitWay
  | .fail c, _ => .fail c
  | _, .fail c => .fail c
  | .resolvable p, _ => .resolvable p
  | _, .resolvable p => .resolvable p
  | .wait, _ => .wait
  | _, .wait => .wait
  | .go a _, .go b c => if dst then .go b (a ++ c) else .go (a ++ b) c

/-- The stream bytes of a unit. -/
def unitBytes (o : EngineOp) (u : Nat) : List Nat :=
  (List.range (Nat.min 256 (o.size - 256 * u))).map (256 * u + ·)

def unitWay (s : State) (o : EngineOp) (u : Nat) : UnitWay :=
  (unitBytes o u).foldr (fun j w =>
    UnitWay.both false (byteWay s o false j) (UnitWay.both true (byteWay s o true j) w)) (.go [] [])

/-- Neighbouring bytes joined into runs. -/
def runs : List (Nat × Byte) → List (Nat × List Byte)
  | [] => []
  | (a, b) :: t => match runs t with
    | (c, bs) :: rs => if c = a + 1 then (a, b :: bs) :: rs else (a, [b]) :: (c, bs) :: rs
    | [] => [(a, [b])]

/-- Bytes put at their places, run by run, each with its wakes. -/
def putRuns (s : State) (ls : List Loc) (bs : List Byte) : State :=
  (runs ((ls.map (·.key)).zip bs)).foldl (fun s r => putBytes s r.1 r.2) s

/-! ### Tags of buffer A (R24, R309) -/

/-- The units that a copy writes into A slot `x`. -/
def slotUnits (o : EngineOp) (x : Nat) : List Nat :=
  let lo := 2048 * x - o.dst
  let hi := Nat.min o.size (2048 * (x + 1) - o.dst)
  if hi ≤ lo then [] else (List.range ((hi - 1) / 256 - lo / 256 + 1)).map (lo / 256 + ·)

/-- The A slots that stream bytes of a unit lie in. -/
def unitSlots (o : EngineOp) (u : Nat) : List Nat :=
  ((unitBytes o u).map fun j => ((o.dst : Int) + streamOff o true j).toNat / 2048).dedup

def unitDone (o : EngineOp) (u : Nat) : Bool := decide (256 * u + 256 ≤ o.done ∨ (o.size ≤ o.done)) || o.written.contains u

/-- The tags of its context's A slot after a write into it: the command's own once it has written all it writes there. -/
def retag (s : State) (o : EngineOp) (x : Nat) : State :=
  let quad := quadOf o.core
  let q := quadAt s quad
  let at_ := o.ctx * 64 + x
  match o.tag with
  | none => s.putQuad quad { q with tags := Tab.del q.tags at_ }
  | some t =>
    if (slotUnits o x).all (unitDone o) then
      s.putQuad quad { q with tags := if t = 0 then Tab.del q.tags at_ else Tab.put q.tags at_ t }
    else s

/-- The slots that a tagging copy has touched and not finished lose their tags when it stops or fails (R309). -/
def dropTags (s : State) (o : EngineOp) : State :=
  match o.tag with
  | none => s
  | some _ =>
    let quad := quadOf o.core
    let touched := ((o.written ++ List.range (o.done / 256)).flatMap (unitSlots o)).dedup
    let open_ := touched.filter fun x => !(slotUnits o x).all (unitDone o)
    let q := quadAt s quad
    s.putQuad quad { q with tags := open_.foldl (fun ts x => Tab.del ts (o.ctx * 64 + x)) q.tags }

/-! ### The window and the done offset (R305, R312) -/

def unitsTotal (o : EngineOp) : Nat := ceilDiv o.size 256

/-- The done offset moves on over chunks that are wholly written. -/
def advanceDone (size : Nat) (written : List Nat) : Nat → Nat → Nat
  | 0, d => d
  | n + 1, d =>
    if size ≤ d then size
    else
      let hi := Nat.min size (d + 4096)
      if (List.range (ceilDiv hi 256 - d / 256)).all fun i => written.contains (d / 256 + i) then
        advanceDone size written n hi
      else d

/-- A mark stops the operation: it was not issued under a shield (R314, R341). -/
def EngineOp.stopping (o : EngineOp) : Bool := o.marked && !o.shielded

/-- The first chunk from `c` on of which no unit is written, within `n` chunks. -/
def unbegunFrom (written : List Nat) : Nat → Nat → Nat
  | 0, c => c
  | n + 1, c => if written.any fun u => u / 16 == c then unbegunFrom written n (c + 1) else c

/-- The unwritten units within the window of 64 KiB beyond the done offset (R305). -/
def windowUnits (o : EngineOp) : List Nat :=
  ((List.range (Nat.min (ceilDiv (o.done + 65536) 256) (unitsTotal o) - o.done / 256)).map (o.done / 256 + ·)).filter
    fun u => !o.written.contains u

/-- The units that may be written now: unwritten, and within the window; once the copy stops, only those of the chunks it has
begun below its next chunk boundary (R314). -/
def openUnits (o : EngineOp) : List Nat :=
  (windowUnits o).filter fun u => !o.stopping || decide (u < 16 * unbegunFrom o.written 17 (o.done / 4096))

/-- The unwritten units of the first chunks that a stopping copy has begun beyond its boundary: R312 leaves each old or new, and
R314 does not say whether it finishes them (DESIGN CHOICE: the step says how many; log 25). -/
def beyondUnits (o : EngineOp) (chunks : Nat) : List Nat :=
  let c := unbegunFrom o.written 17 (o.done / 4096)
  let begun := (((List.range 17).map (c + ·)).filter fun x => o.written.any fun u => u / 16 == x).take chunks
  (windowUnits o).filter fun u => begun.contains (u / 16)

/-- The pages that a unit touches on one side. -/
def unitPages (s : State) (o : EngineOp) (dst : Bool) (u : Nat) : List Nat :=
  if (if dst then o.dspace else o.sspace) ≠ 0 then []
  else
    let addrs := ((unitBytes o u).map fun j => addp (if dst then o.dst else o.src) (streamOff o dst j) / 65536).dedup
    (addrs.filterMap fun b => if isSpread (b * 65536) then none else (findPage s o.ctx (b * 65536)).map (·.1)).dedup

/-- The engine's translations fill its cluster's TLB (R310, R373). -/
def fillUnit (s : State) (o : EngineOp) (u : Nat) : State :=
  (unitPages s o false u ++ unitPages s o true u).foldl (fun s key => fillMissing s (clusterOf o.core) key) s

/-- What an engine moves to or from other packages takes flits on their paths: a first one for each package and unit, and continuations
for the rest of its bytes, 52 to a flit (Table 25-1, log 31). -/
def carryBytes (s : State) (ls : List Loc) : State :=
  ((ls.map (·.pkg)).dedup.filter fun p => p != s.pkg).foldl (fun s p =>
    let n := (ls.filter fun l => l.pkg == p).length
    s.setLinks { s.links with flits := s.links.flits ++ (p, 1, 0) :: List.replicate (ceilDiv n 52 - 1) (p, 2, 0) }) s

/-- A unit written: its bytes, its tags, the done offset. The read of its source corrects what can be corrected (R29). -/
def writeUnitAt (s : State) (id : Nat) (o : EngineOp) (u : Nat) (src dst : List Loc) : State × EngineOp :=
  let bytes := src.map fun l => s.mem.read l.key
  let s0 := ((src.map fun l => unitBase l.key).dedup).foldl (noteUnit o.ctx) (fillUnit s o u)
  let s1 := carryBytes (carryBytes (putRuns s0 dst bytes) src) dst
  let w := u :: o.written
  let d := advanceDone o.size w 17 o.done
  let o1 := { o with written := w.filter fun v => decide (d ≤ 256 * v), done := d }
  let s2 := if o.dspace = 2 then (unitSlots o u).foldl (fun s x => retag s o1 x) s1 else s1
  (s2.putOp id o1, o1)

/-- The unit that the engine takes next among those it may write: it chooses (R305, log 16). -/
def pickUnit (s : State) (us : List Nat) : Option Nat := us[s.pick % Nat.max 1 us.length]?

/-- The units that can be written now. -/
def readyUnits (s : State) (o : EngineOp) : List Nat :=
  (openUnits o).filter fun u => match unitWay s o u with
    | .go _ _ => !o.parked.any fun p => p.1 == u
    | _ => false

/-- A copy is at work: it has begun, and its barrier is probed. -/
def copyWorks (o : EngineOp) : Bool := o.state == .active && o.mode.isSome && isCopy o

/-- A copy may move bytes. -/
def copyRuns (o : EngineOp) : Bool := copyWorks o && o.cut.isNone

/-- COPY_OPERATION_START (R303): the oldest queued command of the cluster takes an operation place. -/
def execCopyOperationStart (op : Nat) (s : State) : Out :=
  match Tab.find s.ops op with
  | none => .next s
  | some o =>
    let mine := s.ops.filter fun p => isCopy p.2 && clusterOf p.2.core == clusterOf o.core
    let first := mine.all fun p => p.2.state != .queued || decide (op ≤ p.1)
    if isCopy o && o.state == .queued && first && decide ((mine.filter fun p => p.2.state == .active).length < 64) then
      .next (s.putOp op { o with state := .active })
    else .next s

/-- The progress arrival of bytes mode, once the done offset has moved on by 65,536 (R313). -/
def creditProgress (s : State) (id : Nat) (o : EngineOp) : State :=
  if o.mode = some 1 ∧ o.credited + 65536 ≤ o.done ∧ o.done < o.size then
    (sendArrival s id o (o.done - o.credited) 0 0 none false).putOp id { o with credited := o.done }
  else s

/-- A copy that has written everything ends complete. -/
def completeCopy (s : State) (id : Nat) (o : EngineOp) : State := endOp s id { o with done := o.size } .complete 0

/-- COPY_PROGRESS (R305, R313): one unit that does not complete the copy. -/
def execCopyProgress (op : Nat) (s : State) : Out :=
  match Tab.find s.ops op with
  | none => .next s
  | some o =>
    if copyRuns o then
      match pickUnit s (readyUnits s o) with
      | some u => match unitWay s o u with
        | .go src dst =>
          let r := writeUnitAt s op o u src dst
          if r.2.done = o.size then .next s else .next (creditProgress r.1 op r.2)
        | _ => .next s
      | none => .next s
    else .next s

/-- COPY_COMPLETE (R312): the last unit, or the end of a copy without bytes. -/
def execCopyComplete (op : Nat) (s : State) : Out :=
  match Tab.find s.ops op with
  | none => .next s
  | some o =>
    if copyRuns o then
      if o.done = o.size then .next (completeCopy s op o)
      else
        match pickUnit s (readyUnits s o) with
        | some u => match unitWay s o u with
          | .go src dst =>
            let r := writeUnitAt s op o u src dst
            if r.2.done = o.size then .next (completeCopy r.1 op r.2) else .next s
          | _ => .next s
        | none => .next s
    else .next s

/-- The first unit of the window that can never be written, and its code. -/
def firstBad (s : State) (o : EngineOp) : List Nat → Option (Nat × Code)
  | [] => none
  | u :: us => match unitWay s o u with
    | .fail c => some (u, c)
    | _ => firstBad s o us

/-- Units written one after another; none when one of them cannot be written now. -/
def writeAll (id : Nat) : List Nat → State × EngineOp → Option (State × EngineOp)
  | [], r => some r
  | u :: us, (s, o) => match unitWay s o u with
    | .go src dst => writeAll id us (writeUnitAt s id o u src dst)
    | _ => none

/-- COPY_FAIL (R311, R312): every unit below the chunk of the first bad one is written first; a copy that a link has cut ends where it
stands. -/
def execCopyFail (op : Nat) (s : State) : Out :=
  match Tab.find s.ops op with
  | none => .next s
  | some o =>
    if copyWorks o && o.cut.isSome then .next (endOp (dropTags s o) op o .frayed (o.cut.getD 3))
    else if copyRuns o then
      match firstBad s o (openUnits o) with
      | none => .next s
      | some (u, c) =>
        let d := 256 * u / 4096 * 4096
        match writeAll op ((openUnits o).filter fun v => decide (256 * v < d)) (s, o) with
        | none => .next s
        | some (s1, o1) =>
          let bad := (unitBytes o u).filterMap fun j => match streamAt s o false j with
            | .at l => some l.key
            | _ => none
          let s2 := bad.foldl (fun s key => noteDamage s o.ctx key 1) (fillUnit s1 o u)
          .next (endOp (dropTags s2 { o1 with done := d }) op { o1 with done := d } .frayed c)
    else .next s

/-- The first of some units that waits for a page: its request is parked, or will be. -/
def firstHeld (s : State) (o : EngineOp) (us : List Nat) : Option Nat := us.find? fun u =>
  (o.parked.any fun p => p.1 == u) || (match unitWay s o u with
    | .resolvable _ => true
    | _ => false)

/-- A fault below the boundary fails a copy that is to stop (Table 15-8): the chunk of its first bad unit does not lie beyond one that a
withdrawn request leaves unwritten, where the copy stops (R314). -/
def failsFirst (s : State) (o : EngineOp) : Bool := match firstBad s o (openUnits o), firstHeld s o (openUnits o) with
  | none, _ => false
  | some (u, _), some h => decide (u / 16 ≤ h / 16)
  | some _, none => true

/-- COPY_STOP (R314): a marked copy stops. It finishes the chunks it has begun below the boundary as far as no parked request
holds them, and a parked request is withdrawn; of those it has begun beyond the boundary it finishes the first `chunks`. -/
def execCopyStop (op chunks : Nat) (s : State) : Out :=
  match Tab.find s.ops op with
  | none => .next s
  | some o =>
    if !isCopy o || !o.stopping then .next s
    else if !copyWorks o then .next (stopUnbegun s op o)
    -- a fault below the boundary fails the copy instead (Table 15-8)
    else if o.done = o.size || o.cut.isSome || failsFirst s o then .next s
    else if (openUnits o).any fun u => unitWay s o u == .wait then .next s
    else
      let write := fun (r : State × EngineOp) u => match unitWay r.1 r.2 u with
        | .go src dst => writeUnitAt r.1 op r.2 u src dst
        | _ => r
      let r := (openUnits o ++ beyondUnits o chunks).foldl write (s, o)
      if r.2.done = o.size then .next (completeCopy r.1 op r.2)
      else .next (endOp (dropTags r.1 r.2) op r.2 .short 0)

/-- The request of an operation that meets a resolvable fault: its unit and page. -/
def faultedUnit (s : State) (o : EngineOp) : List Nat → Option (Nat × Nat)
  | [] => none
  | u :: us => if o.parked.any fun p => p.1 == u then faultedUnit s o us
    else match unitWay s o u with
      | .resolvable p => some (u, p)
      | _ => faultedUnit s o us

/-! ### Issue (R300, R304, R307, R309) -/

/-- The lowest and highest byte offset that a tensor reaches on one side. -/
def reachLo (dst : Bool) (ds : List Dim) : Int :=
  ds.foldl (fun acc d => acc + min 0 (((d.count - 1 : Nat) : Int) * (if dst then d.dstride else d.sstride))) 0
def reachHi (dst : Bool) (esize : Nat) (ds : List Dim) : Int :=
  ds.foldl (fun acc d => acc + max 0 (((d.count - 1 : Nat) : Int) * (if dst then d.dstride else d.sstride))) 0 + esize

def spaceSize (space : Nat) : Nat := if space = 1 then 2 ^ 18 else if space = 2 then 2 ^ 17 else 2 ^ 16

/-- A copy as its operands describe it. -/
structure CopyDesc where
  sspace : Nat
  dspace : Nat
  size : Nat
  esize : Nat
  dims : List Dim
  deriving DecidableEq, Repr

/-- A row of a tensor's destination lies in the dictionary region (R87). -/
def rowInDictionary (s : State) (k : Strand) (base : Nat) (e : CopyDesc) : Bool :=
  isSpread base && hasDict s k.ctx k.kernel && decide (e.size ≠ 0) && match e.dims with
    | [] => false
    | d :: ds => (List.range (ds.foldl (fun acc x => acc * x.count) 1)).any fun r =>
        inDictionary (ptrOff (addp base (strideOff true ds r))) (d.count * e.esize)

/-- The check of one side (R300 step 3): the trap, if one is raised. Of a tensor the lowest and the highest byte are checked
(R308), and of a linear copy the whole range; no byte of either may be written into a dictionary (R87). -/
def sideTrap (s : State) (k : Strand) (e : CopyDesc) (dst : Bool) (base : Nat) (lo hi : Int) : Option Nat :=
  let space := if dst then e.dspace else e.sspace
  let need := if dst then needWr else needRd
  if hi ≤ lo then none
  else if space = 0 then
    let pass := if e.dims.isEmpty then engineCheck s k (addp base lo) (hi - lo).toNat need
      else engineCheck s k (addp base lo) 1 need && engineCheck s k (addp base (hi - 1)) 1 need &&
        !(dst && rowInDictionary s k base e)
    if pass then none else some causeSegment
  else if (base : Int) + lo < 0 ∨ (spaceSize space : Int) < base + hi then some causeBuffer else none

/-- The checks of R300 and the issue. Of a tensor's sides only multiples of the element's size are asked, in a buffer too (DESIGN CHOICE:
R308 does not say whether R305's multiples of 64 hold for it, log 95). `cut`: the code with which it is to end at its probe. -/
def copyIssue (s : State) (sid : Nat) (k : Strand) (x r d a c : Nat) (tag : Option Nat) (e : CopyDesc) (cut : Option Code) : Out :=
  let src := k.nat a
  let dst := k.nat d
  let bar := k.nat c
  let empty := e.size = 0
  let slo := if empty then 0 else reachLo false e.dims
  let shi : Int := if empty then 0 else if e.dims.isEmpty then e.size else reachHi false e.esize e.dims
  let dlo := if empty then 0 else reachLo true e.dims
  let dhi : Int := if empty then 0 else if e.dims.isEmpty then e.size else reachHi true e.esize e.dims
  let align : Option Nat :=
    if e.dims.isEmpty then
      if (e.sspace ≠ 0 ∧ src % 64 ≠ 0) ∨ (e.dspace ≠ 0 ∧ dst % 64 ≠ 0) ∨ ((e.sspace ≠ 0 ∨ e.dspace ≠ 0) ∧ e.size % 64 ≠ 0) then
        some causeAlignment else none
    else if src % e.esize ≠ 0 ∨ dst % e.esize ≠ 0 ∨
        (e.dims.any fun d => decide (d.sstride % e.esize ≠ 0 ∨ d.dstride % e.esize ≠ 0)) then some causeAlignment
    else none
  match firstOfTraps [
    if e.sspace = 1 ∨ e.dspace = 3 ∨ (tag.isSome ∧ e.dspace ≠ 2) then some causeBuffer else none,
    sideTrap s k e false src slo shi,
    sideTrap s k e true dst dlo dhi,
    if engineCheck s k bar 32 needBar then none else some causeSegment,
    if bar % 32 ≠ 0 then some causeAlignment else none,
    align] with
  | some t => .next (trap s sid t)
  | none =>
    let segs := segsOf s k.ctx k.core
    issueOp s sid k true bar r (x == 1) fun o => { o with
      src := if e.sspace = 0 then resolve segs src else src
      dst := if e.dspace = 0 then resolve segs dst else dst
      sspace := e.sspace, dspace := e.dspace, size := e.size, esize := e.esize, dims := e.dims, tag := tag, cut := cut }

/-- The size operand of `COPY` (Table 15-1): none when a reserved bit is set. -/
def copySize (w : Nat) : Option CopyDesc :=
  if field w 48 16 ≠ 0 ∨ field w 40 4 ≠ 0 then none
  else some ⟨field w 46 2, field w 44 2, w % 2 ^ 40, 1, []⟩

/-- `COPY` (R304). -/
def execCopy (x r d a b c : Nat) (s : State) : Out :=
  issue (.copy x r d a b c) [d, a, b, c] [] s fun s sid k =>
    withClean s sid k [d, a, b, c] <|
      match copySize (k.nat b) with
      | none => .next (trap s sid causeBuffer)
      | some e => copyIssue s sid k x r d a c none e none

/-- `COPY.TAG` (R309). -/
def execCopyTag (x r d a b c q : Nat) (s : State) : Out :=
  issue (.copyTag x r d a b c q) [d, a, b, c, q] [] s fun s sid k =>
    withClean s sid k [d, a, b, c, q] <|
      match copySize (k.nat b) with
      | none => .next (trap s sid causeBuffer)
      | some e => copyIssue s sid k x r d a c (some (k.nat q % 2 ^ 16)) e none

/-- The tensor descriptor (Table 15-2): none when a field breaks R307. -/
def tensorDesc (w : Nat) : Option CopyDesc :=
  let rank := field w 6 2
  let esize : Nat := 2 ^ field w 4 2
  let count := fun i => field w (64 + 32 * i) 32
  let ss := fun i => signed 32 (field w (192 + 32 * i) 32)
  let ds := fun i => signed 32 (field w (288 + 32 * i) 32)
  let unused := (List.range 3).all fun i => decide (i < rank) || (count (i + 1) == 0 && ss i == 0 && ds i == 0)
  if field w 8 24 ≠ 0 ∨ field w 32 32 ≠ 0 ∨ field w 384 128 ≠ 0 ∨ unused = false then none
  else
    let dims := (⟨count 0, esize, esize⟩ : Dim) :: (List.range rank).map fun i => (⟨count (i + 1), ss i, ds i⟩ : Dim)
    some ⟨field w 2 2, field w 0 2, dims.foldl (fun acc d => acc * d.count) esize, esize, dims⟩

/-- `COPY.T` (R307). A descriptor whose page cannot be read faults no strand: the command issues without its fields, and ends with
code 2 at its probe (R300, log 50). -/
def execCopyT (x r d a b c : Nat) (s : State) : Out :=
  issue (.copyT x r d a b c) [d, a, b, c] [] s fun s sid k =>
    withClean s sid k [d, a, b, c] <|
      withDesc s sid k (k.nat b) true (copyIssue s sid k x r d a c none ⟨0, 0, 0, 1, []⟩ (some 2)) fun s raw =>
        match tensorDesc raw with
        | none => .next (trap s sid causeBuffer)
        | some e => copyIssue s sid k x r d a c none e none

end Sys2Proof.Machine
end

