-- ==== Sys2Proof/Machine/Select.lean ====
section
/-! DEFINITION. The memory-side selection engine (R326 to R343): `SELP`, `SELK`, `SELR`, the scan, the merge and the output. -/

namespace Sys2Proof.Machine

/-! ### The descriptor (Tables 17-2 and 17-3) -/

namespace Sel

def base (d : SelDesc) : Nat := field d.raw 0 64
def count (d : SelDesc) : Nat := field d.raw 64 64
def rows (d : SelDesc) : Nat := field d.raw 64 32
def cols (d : SelDesc) : Nat := field d.raw 96 32
def stride (d : SelDesc) : Nat := field d.raw 128 64
def out (d : SelDesc) : Nat := field d.raw 192 64
def cap (d : SelDesc) : Nat := field d.raw 256 32
def control (d : SelDesc) : Nat := field d.raw 288 32
def barrier (d : SelDesc) : Nat := field d.raw 320 64
def a0 (d : SelDesc) : Nat := field d.raw 384 32
def a1 (d : SelDesc) : Nat := field d.raw 416 32
def b0 (d : SelDesc) : Nat := field d.raw 448 32
def b1 (d : SelDesc) : Nat := field d.raw 480 32
def ty (d : SelDesc) : Nat := field (control d) 0 4
def op1 (d : SelDesc) : Nat := field (control d) 4 4
def op2 (d : SelDesc) : Nat := field (control d) 8 4
def k (d : SelDesc) : Nat := field (control d) 12 9
def skip (d : SelDesc) : Bool := bitOf (control d) 21
def asc (d : SelDesc) : Bool := bitOf (control d) 22
def nanhigh (d : SelDesc) : Bool := bitOf (control d) 23
def idx8 (d : SelDesc) : Bool := bitOf (control d) 24

/-- The bytes of an element, and of a record (R330, R332). -/
def esize (d : SelDesc) : Nat := typeWidth (ty d) / 8
def recSize (d : SelDesc) : Nat := if idx8 d then 12 else 8
/-- The room of `SELP`, and the whole output of `SELR` (R332, R335). -/
def room (d : SelDesc) : Nat := (cap d - 16) / recSize d
def sizeR (d : SelDesc) : Nat := 16 + 8 * rows d * k d + 4 * cols d

/-- The types that a request accepts (R330). -/
def typeOk (d : SelDesc) : Bool := match d.kind with
  | 2 => isFloatType (ty d)
  | _ => decide (ty d ≤ 2) || isFloatType (ty d)

/-- The constants that a predicate code uses (Table 17-4). -/
def uses (op : Nat) : Nat := if op = 0 then 0 else if op = 7 then 2 else 1

/-- A constant that a code does not use is zero (R331). -/
def constsOk (op c0 c1 : Nat) : Bool := (decide (1 ≤ uses op) || c0 == 0) && (decide (2 ≤ uses op) || c1 == 0)

/-- The fields obey R329 to R334. -/
def ok (d : SelDesc) : Bool :=
  field (control d) 25 7 == 0 && typeOk d &&
  match d.kind with
  | 0 => decide (count d < 2 ^ 40) && stride d == 0 && (idx8 d || decide (count d ≤ 2 ^ 32)) && !asc d && !nanhigh d &&
      decide (1 ≤ op1 d ∧ op1 d ≤ 9 ∧ op2 d ≤ 9) && k d == 0 && constsOk (op1 d) (a0 d) (a1 d) &&
      constsOk (op2 d) (b0 d) (b1 d) && decide (16 ≤ cap d)
  | 1 => decide (count d < 2 ^ 40) && stride d == 0 && (idx8 d || decide (count d ≤ 2 ^ 32)) && op1 d == 0 && op2 d == 0 &&
      a0 d == 0 && a1 d == 0 && b0 d == 0 && b1 d == 0 && decide (1 ≤ k d ∧ k d ≤ 256) &&
      decide (16 + k d * recSize d ≤ cap d)
  | _ => !idx8 d && decide (1 ≤ rows d ∧ rows d ≤ 2 ^ 20 ∧ 1 ≤ cols d ∧ cols d ≤ 1024) &&
      decide (cols d * esize d ≤ stride d) && op1 d == 0 && op2 d == 0 && a0 d == 0 && a1 d == 0 && b0 d == 0 && b1 d == 0 &&
      decide (1 ≤ k d ∧ k d ≤ 8 ∧ k d ≤ cols d) && decide (sizeR d ≤ cap d)

/-- The largest number of bytes that the request can write (R328). -/
def outMax (d : SelDesc) : Nat := match d.kind with
  | 0 => 16 + room d * recSize d
  | 1 => 16 + k d * recSize d
  | _ => sizeR d

/-- The elements of the region, the index of one and its byte offset from the base (R330). -/
def total (d : SelDesc) : Nat := if d.kind = 2 then rows d * cols d else count d
def offset (d : SelDesc) (i : Nat) : Nat :=
  if d.kind = 2 then i / cols d * stride d + i % cols d * esize d else i * esize d
/-- The bytes from the base to the end of the region. -/
def span (d : SelDesc) : Nat := if total d = 0 then 0 else offset d (total d - 1) + esize d

/-! ### Predicates (R331) and ranks (R334) -/

/-- The condition code of Table 04-2 for codes 1 to 6. -/
def condOf (op : Nat) : Nat := match op with
  | 1 => 0
  | 2 => 1
  | 3 => 2
  | 4 => 4
  | 5 => 5
  | _ => 3

/-- A comparison of an element with a constant in the element's type. -/
def compareTo (t c x y : Nat) : Bool :=
  let w := typeWidth t
  if isFloatType t then (condFp (fmtOf t) c x (y % 2 ^ w)).1 else condInt w c x (y % 2 ^ w)

def pred (t op x c0 c1 : Nat) : Bool :=
  let w := typeWidth t
  match op with
  | 0 => true
  | 7 => compareTo t 3 x c0 && compareTo t 4 x c1
  | 8 => decide (x &&& (c0 % 2 ^ w) ≠ 0)
  | 9 => x &&& (c0 % 2 ^ w) == c0 % 2 ^ w
  | _ => compareTo t (condOf op) x c0

/-- `SELP` selects an element. -/
def selects (d : SelDesc) (x : Nat) : Bool :=
  pred (ty d) (op1 d) x (a0 d) (a1 d) && pred (ty d) (op2 d) x (b0 d) (b1 d)

def nanAt (t x : Nat) : Bool := isFloatType t && Fp.isNaN (Fp.value (fmtOf t) x)

/-- The order of two elements that are no NaN: -1, 0 or 1. -/
def order (t x y : Nat) : Int :=
  if isFloatType t then Fp.compareVal (Fp.value (fmtOf t) x) (Fp.value (fmtOf t) y)
  else
    let a := signed (typeWidth t) x
    let b := signed (typeWidth t) y
    if a < b then -1 else if a = b then 0 else 1

/-- `better`: (index, bits) p ranks before q. -/
def better (d : SelDesc) (p q : Nat × Nat) : Bool :=
  let n := nanAt (ty d) p.2
  if n != nanAt (ty d) q.2 then n == nanhigh d
  else
    let o := if n then 0 else order (ty d) p.2 q.2
    if o ≠ 0 then decide (o > 0) == !asc d else decide (p.1 < q.1)

/-- An element put in its place of an ordered list. -/
def place (lt : Nat × Nat → Nat × Nat → Bool) (p : Nat × Nat) : List (Nat × Nat) → List (Nat × Nat)
  | [] => [p]
  | q :: qs => if lt p q then p :: q :: qs else q :: place lt p qs

/-- The first `n` elements of a list in an order. -/
def best (lt : Nat × Nat → Nat × Nat → Bool) (n : Nat) (ps : List (Nat × Nat)) : List (Nat × Nat) :=
  (ps.foldl (fun acc p => place lt p acc) []).take n

/-! ### Weights (R335) -/

/-- The bits of log2 e down to 2^-320 (log 19). -/
def log2e : Nat :=
  3081577904126213121686167198097690134163479766071396094403848907535455306605342191083616308484524

/-- e^x for x = (-1)^neg * m * 2^e, rounded to FP32. -/
def expBits (neg : Bool) (m : Nat) (e : Int) : Nat :=
  let r := Fp.exp2Mag neg (m * log2e) (e - 320)
  (Fp.roundFin Fp.fp32 0 0 false r.1 r.2).1

/-- The quotient of two FP32 values, the second positive and finite. -/
def quotient (x y : Nat) : Nat := match Fp.value Fp.fp32 x, Fp.value Fp.fp32 y with
  | .fin _ m e, .fin _ n f =>
    if m = 0 ∨ n = 0 then 0
    else
      let s := bitLength n + 64
      (Fp.roundFin Fp.fp32 0 0 false (2 * (m * 2 ^ s / n) + (if m * 2 ^ s % n = 0 then 0 else 1)) (e - f - s - 1)).1
  | _, _ => 0

/-- The greatest of a list of values. -/
def maxOf : Fp.Val → List Fp.Val → Fp.Val
  | a, [] => a
  | a, b :: bs => maxOf (if Fp.compareVal a b < 0 then b else a) bs

/-- `row_weights`, of the selected values. -/
def weights (vs : List Fp.Val) : List Nat :=
  match vs with
  | [] => []
  | v :: rest =>
    let smax := maxOf v rest
    if (vs.any Fp.isNaN) || Fp.isInf smax then vs.map fun _ => 0x7FC00000
    else
      let es := vs.map fun x => match (Fp.addVal 0 x (Fp.negVal smax)).1 with
        | .fin n m e => if m = 0 then 0x3F800000 else expBits n m e
        | _ => 0
      let sum := (es.drop 1).foldl (fun acc x => (Fp.add Fp.fp32 0 acc x).1) (es.headD 0)
      es.map fun x => quotient x sum

/-! ### Output (R332 to R337) -/

/-- A value slot. -/
def slot (t x : Nat) : Nat := if isIntType t then unsigned 32 (signed (typeWidth t) x) else x

def record (d : SelDesc) (p : Nat × Nat) : List Byte := leBytes 4 (slot (ty d) p.2) ++ leBytes (recSize d - 4) p.1

def header (n poisoned status : Nat) : List Byte :=
  leBytes 8 n ++ leBytes 4 (Nat.min poisoned (2 ^ 32 - 1)) ++ leBytes 4 status

/-- The k best of row r, as (column, bits). -/
def rowBest (d : SelDesc) (found : List (Nat × Nat)) (r : Nat) : List (Nat × Nat) :=
  best (better d) (k d) ((found.filter fun p => p.1 / cols d == r).map fun p => (p.1 % cols d, p.2))

/-- The blocks of `SELR` after its header. -/
def blocks (d : SelDesc) (found : List (Nat × Nat)) : List Byte :=
  let rs := (List.range (rows d)).map (rowBest d found)
  let pad := fun (n : Nat) (fill : Nat) (xs : List Nat) => xs ++ List.replicate (n - xs.length) fill
  let idx := rs.flatMap fun ps => pad (k d) 0xFFFFFFFF (ps.map (·.1))
  let wts := rs.flatMap fun ps => pad (k d) 0 (weights (ps.map fun p => Fp.value (fmtOf (ty d)) p.2))
  let hist := (List.range (cols d)).map fun c => (rs.filter fun ps => ps.any fun p => p.1 == c).length
  (idx ++ wts ++ hist).flatMap (leBytes 4)

/-- The whole output of a request, from the present elements it found and the number of its poisoned sectors. -/
def output (d : SelDesc) (found : List (Nat × Nat)) (poisoned : Nat) : List Byte :=
  if poisoned ≠ 0 ∧ skip d = false then header 0 poisoned 3
  else match d.kind with
    | 0 =>
      let ps := best (fun p q => decide (p.1 < q.1)) found.length found
      header ps.length poisoned (if room d < ps.length then 2 else if ps.isEmpty then 1 else 0) ++
        (ps.take (room d)).flatMap (record d)
    | 1 =>
      let ps := best (better d) (k d) found
      header ps.length poisoned (if ps.isEmpty then 1 else 0) ++ ps.flatMap (record d)
    | _ => header (rows d) poisoned 0 ++ blocks d found

end Sel

/-! ### Issue (R328) -/

def select (i : Instr) (kind x r a : Nat) (s : State) : Out :=
  issue i [a] [] s fun s sid k =>
    withClean s sid k [a] <|
      withDesc s sid k (k.nat a) false (.next (observeFray s sid 2)) fun s raw =>
        let d : SelDesc := ⟨kind, raw⟩
        match firstOfTraps [
          if Sel.ok d then none else some causeBuffer,
          if isSpread (Sel.base d) then some causeSegment else none,
          if engineCheck s k (Sel.base d) (Sel.span d) needRd then none else some causeSegment,
          if engineCheck s k (Sel.out d) (Sel.outMax d) needWr then none else some causeSegment,
          if engineCheck s k (Sel.barrier d) 32 needBar then none else some causeSegment,
          if Sel.base d % Sel.esize d ≠ 0 ∨ Sel.stride d % Sel.esize d ≠ 0 ∨ Sel.barrier d % 32 ≠ 0 then
            some causeAlignment else none] with
        | some t => .next (trap s sid t)
        | none =>
          let segs := segsOf s k.ctx k.core
          issueOp s sid k false (Sel.barrier d) r (x == 1) fun o => { o with
            src := resolve segs (Sel.base d), dst := resolve segs (Sel.out d), sel := some d }

/-- `SELP` (R327, R334). -/
def execSelp (x r a : Nat) (s : State) : Out := select (.selp x r a) 0 x r a s
/-- `SELK` (R327, R334). -/
def execSelk (x r a : Nat) (s : State) : Out := select (.selk x r a) 1 x r a s
/-- `SELR` (R327, R335). -/
def execSelr (x r a : Nat) (s : State) : Out := select (.selr x r a) 2 x r a s

/-! ### The scan (R326, R336, R338) -/

/-- A selection at work: begun, its barrier probed. -/
def selectRuns (s : State) (op : Nat) : Option (EngineOp × SelDesc) :=
  match Tab.find s.ops op with
  | some o => match o.sel with
    | some d => if o.state = .active ∧ o.mode.isSome then some (o, d) else none
    | none => none
  | none => none

/-- SELECTION_REQUEST_START (R326): the oldest queued request of the die, with fewer than 32 in progress. -/
def execSelectionRequestStart (op : Nat) (s : State) : Out :=
  match Tab.find s.ops op with
  | none => .next s
  | some o =>
    let mine := s.ops.filter fun p => !isCopy p.2 && dieOf p.2.core == dieOf o.core
    let first := mine.all fun p => p.2.state != .queued || decide (op ≤ p.1)
    if !isCopy o && o.state == .queued && first && decide ((mine.filter fun p => p.2.state == .active).length < 32) then
      .next (s.putOp op { o with state := .active })
    else .next s

/-- The place of an element. -/
def elementAt (s : State) (o : EngineOp) (d : SelDesc) (i : Nat) : EngFound :=
  engineAt s o.ctx (addp o.src (Sel.offset d i)) needRd

/-- The elements not yet read. -/
def unread (o : EngineOp) (d : SelDesc) : List Nat := (List.range (Sel.total d)).filter fun i => !o.written.contains i

/-- The engine that can read an element now: its stack, or 8 + p for the merger of another package p over an open path
(R338). -/
def stackAt (s : State) (o : EngineOp) (d : SelDesc) (i : Nat) : Option Nat := match elementAt s o d i with
  | .at l => if l.pkg = s.pkg then some l.die else if pathOpen s l.pkg && pathClear s l.pkg then some (8 + l.pkg) else none
  | _ => none

/-- The 4 KiB block of virtual addresses that holds an element. -/
def blockOf (o : EngineOp) (d : SelDesc) (i : Nat) : Nat := addp o.src (Sel.offset d i) / 4096

/-- One element read (R238, R336). -/
def readElement (s : State) (d : SelDesc) (o : EngineOp) (i : Nat) : EngineOp :=
  let o1 := { o with written := i :: o.written }
  match elementAt s o d i with
  | .at l =>
    let r := readLoc s l (Sel.esize d)
    match r.code with
    | some _ =>
      let sector := addp o.src (Sel.offset d i) / 32
      { o1 with bad := if o.bad.contains sector then o.bad else sector :: o.bad }
    | none =>
      let x := leNat r.bytes
      if d.kind = 0 ∧ Sel.selects d x = false then o1 else { o1 with found := (i, x) :: o.found }
  | _ => o

/-- The elements that an engine is to scan next for a request: those of its next 4 KiB piece (R326). None once a mark stops the
request (R341), before what its die has seen is at the home (R224), or while the share is with another package (R167). -/
def nextPiece (s : State) (o : EngineOp) (d : SelDesc) (stack : Nat) : List Nat :=
  if o.stopping || o.cut.isSome || (stack < 8 && !homeReady s (dieOf o.core) stack) || (8 ≤ stack && o.away.isSome && o.away != some (stack - 8)) then []
  else
    match (unread o d).filter fun i => stackAt s o d i == some stack with
    | [] => []
    | i :: is => (i :: is).filter fun j => blockOf o d j == blockOf o d i

/-- The dies whose requests have work for an engine (R326). -/
def servedDies (s : State) (stack : Nat) : List Nat :=
  ((s.ops.filter fun p => match selectRuns s p.1 with
    | some (o, d) => !(nextPiece s o d stack).isEmpty
    | none => false).map fun p => dieOf p.2.core).dedup

/-- It is a die's turn at an engine: no die with work there comes before it in the rotation from the one served last (R326). -/
def dieTurn (s : State) (stack die : Nat) : Bool :=
  let away := fun d : Nat => (d + 7 - Tab.get s.served stack 7) % 8
  (servedDies s stack).all fun d => decide (away die ≤ away d)

/-- The first piece that goes to another package takes the share there (R167). -/
def engageFar (s : State) (o : EngineOp) (stack : Nat) : State × EngineOp :=
  if 8 ≤ stack ∧ o.away = none then
    let s1 := addRemote s o.ctx o.scope (stack - 8) (2 ^ o.share)
    (s1.setLinks { s1.links with flits := s1.links.flits ++ [(stack - 8, 1, 0)] }, { o with away := some (stack - 8) })
  else (s, o)

/-- SELECTION_PIECE_SCAN (R326): a stack's engine scans the next 4 KiB piece of the region that lies on it, in its rotation among
the dies. -/
def execSelectionPieceScan (op stack : Nat) (s : State) : Out :=
  match selectRuns s op with
  | none => .next s
  | some (o, d) =>
    let piece := nextPiece s o d stack
    if piece.isEmpty || !dieTurn s stack (dieOf o.core) then .next s
    else
      let e := engageFar s o stack
      let o1 := piece.foldl (fun o j => readElement s d o j) e.2
      let s1 := piece.foldl (fun s j => match elementAt s o d j with
        | .at l => noteDamage s o.ctx l.key (Sel.esize d)
        | _ => s) e.1
      .next { s1.putOp op { o1 with
        engaged := if o.engaged.contains stack then o.engaged else stack :: o.engaged
        arrived := o.arrived.filter fun x => x != stack } with served := Tab.put s.served stack (dieOf o.core) }

/-- SELECTION_PARTIAL_ARRIVAL (R338): an engine that has scanned all its pieces delivers its partial result; another package's
merger returns the share with it. -/
def execSelectionPartialArrival (op stack : Nat) (s : State) : Out :=
  match selectRuns s op with
  | none => .next s
  | some (o, d) =>
    if o.engaged.contains stack && !o.arrived.contains stack &&
        (unread o d).all (fun i => stackAt s o d i != some stack) then
      let back := if 8 ≤ stack then recallShare s o else (s, o)
      .next (back.1.putOp op { back.2 with arrived := stack :: o.arrived })
    else .next s

/-- The places of a request's output (R337). -/
def outWay (s : State) (o : EngineOp) (n : Nat) : UnitWay :=
  (List.range n).foldr (fun j w => UnitWay.both true (match engineAt s o.ctx (addp o.dst j) needWr with
    | .unresolvable => .fail 2
    | .resolvable p => .resolvable p
    | .at l => if !pathOpen s l.pkg then .fail 3 else if byteReady s o l then .go [l] [] else .wait) w) (.go [] [])

/-- The merger has every partial result. -/
def mergeReady (o : EngineOp) (d : SelDesc) : Bool := (unread o d).isEmpty && o.engaged.all fun x => o.arrived.contains x

/-- The path to the package of an address's page is dead. -/
def pathDeadAt (s : State) (ctx addr : Nat) : Bool :=
  !isSpread addr && match findPage s ctx addr with
    | some (_, p) => !pathOpen s (leafPkg p.leaf)
    | none => false

/-- The link to a package of the region, read or not, or of the output has become dead, or did while the package held the share
(R168, R339). -/
def selectCut (s : State) (o : EngineOp) (d : SelDesc) : Bool :=
  o.away == some noPackage ||
    (o.written.any fun i => pathDeadAt s o.ctx (addp o.src (Sel.offset d i))) ||
    (List.range (Sel.outMax d / 65536 + 2)).any fun i =>
      let at_ := addp o.dst (Nat.min (65536 * i) (Sel.outMax d - 1))
      if isSpread at_ then !pathOpen s (ptrPkg at_) else pathDeadAt s o.ctx at_

/-- The bytes that a request is about to write, once everything is merged; none before. -/
def outBytes (o : EngineOp) (d : SelDesc) : Nat :=
  if mergeReady o d then (Sel.output d o.found o.bad.length).length else 0

/-- The code of an unresolvable fault of the region or of the output that is written, a link that has become dead since the request
began among them (R339). -/
def selectFault (s : State) (o : EngineOp) (d : SelDesc) : Option Code :=
  firstSome (o.cut :: ((unread o d).map fun i => match elementAt s o d i with
    | .unresolvable => some (2 : Code)
    | .resolvable _ => none
    | .at l => if pathOpen s l.pkg then none else some (3 : Code)) ++
    [match outWay s o (outBytes o d) with
      | .fail c => some c
      | _ => none,
    if selectCut s o d then some (3 : Code) else none])

/-- SELECTION_OUTPUT_WRITE (R337, R340): the output and the final arrival, unless a mark has stopped the request (R341) or it is to
fail (R339). -/
def execSelectionOutputWrite (op : Nat) (s : State) : Out :=
  match selectRuns s op with
  | none => .next s
  | some (o, d) =>
    if !mergeReady o d || o.stopping || (selectFault s o d).isSome then .next s
    else
      let bytes := Sel.output d o.found o.bad.length
      match outWay s o bytes.length with
      | .go _ dst =>
        let poisoned := !o.bad.isEmpty && !Sel.skip d
        let o1 := { o with done := bytes.length }
        .next (endOp (carryBytes (putRuns s dst bytes) dst) op o1 (if poisoned then .frayed else .complete) (if poisoned then 7 else 0))
      | _ => .next s

/-- SELECTION_FAIL (R339). -/
def execSelectionFail (op : Nat) (s : State) : Out :=
  match selectRuns s op with
  | none => .next s
  | some (o, d) => match selectFault s o d with
    | some c => .next (endOp s op { o with done := 0 } .frayed c)
    | none => .next s

/-- SELECTION_STOP (R341): a marked request stops before its first output write. -/
def execSelectionStop (op : Nat) (s : State) : Out :=
  match Tab.find s.ops op with
  | none => .next s
  | some o =>
    if isCopy o || !o.stopping then .next s
    else if o.mode.isSome then .next (endOp s op { o with done := 0 } .short 0)
    else .next (stopUnbegun s op o)

/-- The first element that waits for a page and has no parked request. -/
def faultedElement (s : State) (o : EngineOp) (d : SelDesc) : List Nat → Option (Nat × Nat)
  | [] => none
  | i :: is => if o.parked.any fun p => p.1 == i then faultedElement s o d is
    else match elementAt s o d i with
      | .resolvable p => some (i, p)
      | _ => faultedElement s o d is

/-- The request of an operation that meets a resolvable fault now. -/
def faultOf (s : State) (o : EngineOp) : Option (Nat × Nat) :=
  if o.state ≠ .active then none
  else if o.mode.isNone then
    match o.probe s with
    | .resolvable p => if o.parked.any fun q => q.2 == p then none else some (0, p)
    | _ => none
  else match o.sel with
    | none => faultedUnit s o (openUnits o)
    | some d =>
      match faultedElement s o d (unread o d) with
      | some x => some x
      | none => match outWay s o (outBytes o d) with
        | .resolvable p => if o.parked.any fun q => q.2 == p then none else some (Sel.total d, p)
        | _ => none

/-- ENGINE_FAULT_PARK (R310, R339): the request parks in the fault queue of the page's home die, if it has room, and the memory
manager is asked for the page. -/
def execEngineFaultPark (op : Nat) (s : State) : Out :=
  match Tab.find s.ops op with
  | none => .next s
  | some o => match faultOf s o with
    | some (u, p) =>
      if faultRoom s p then .next (askRepair (s.putOp op { o with parked := o.parked ++ [(u, p)] }) o.ctx p) else .next s
    | none => .next s

end Sys2Proof.Machine
end

