-- ==== Sys2Proof/Machine/System.lean ====
section
/-! DEFINITION. System instructions (R121 to R125), `KLAUNCH` and launches (R401, R405), hint words and pairs (R83, R88,
R89), and the steps in which a fetched word is no instruction (R80, R81, R120). -/

namespace Sys2Proof.Machine

/-- `NOP` (R124). -/
def execNop (s : State) : Out := issue .nop [] [] s fun s sid k => retire s sid k

/-- `TRAP` (R121). -/
def execTrap (n : Nat) (s : State) : Out := issue (.trap n) [] [] s fun s sid _ => .next (trap s sid causeTrap)

/-- `BKPT` (R121). -/
def execBkpt (n : Nat) (s : State) : Out := issue (.bkpt n) [] [] s fun s sid _ => .next (trap s sid causeBkpt)

/-- `TIME` (R122). -/
def execTime (d : Nat) (s : State) : Out :=
  issue (.time d) [] [d] s fun s sid k => retire s sid (k.writeG d (BitVec.ofNat 64 (timeBase s)))

/-- A right of a context (R392): bit 0 pin, 1 snap, 2 slot, 3 signed. -/
def ctxRight (s : State) (ctx bit : Nat) : Bool := match Tab.find s.ctxs ctx with
  | some c => bitOf c.rights bit
  | none => false

/-- `SNAP` (R123). -/
def execSnap (s : State) : Out :=
  issue .snap [] [] s fun s sid k =>
    if ctxRight s k.ctx 1 then retire (snapTrigger s) sid k else .next (trap s sid causeRight)

/-! ### Control registers (Table 05-7) -/

/-- The contents of a control register. -/
def ctlValue (s : State) (k : Strand) (n : Nat) : Nat :=
  if n = 0 then k.pc
  else if n = 1 then k.st.toNat
  else if n = 2 then k.sc % 2 ^ 32
  else if n = 3 then k.ep
  else if n = 4 then k.share % 32
  else if n = 5 then k.st.ec.toNat
  else if n = 6 then k.st.ff.toNat
  else if n = 7 then k.vcount
  else if n = 8 then Config.capFrame.toNat
  else if n = 9 then (trapEntry s k).getD 0
  else if n < 0x20 then field ((segsOf s k.ctx k.core).getD ((n - 0x10) / 2) 0) (64 * (n % 2)) 64
  else if n < 0x30 then
    let b := boundOf s k.core (n - 0x20)
    b.high * 2 ^ 32 + b.low
  else
    let b := boundOf s k.core (n - 0x30)
    b.tag * 2 ^ 32 + b.mode

/-- Flags that earlier instructions of a strand have still to merge (R48). -/
def flagsPending (s : State) (sid : Nat) (k : Strand) : Bool :=
  !mvuClear s sid k || s.flights.any fun p => match p.2 with
    | .atomic a _ => a.sid == sid && a.op == 10
    | .atomicRet x _ _ _ _ => x == sid
    | _ => false

/-- `CTLR` (R125, R127). A read of st sets st.X as the record of sc lies in the extension of its die's table (R158). -/
def execCtlr (d n : Nat) (s : State) : Out :=
  issue (.ctlr d n) [] [d] s fun s sid k =>
    if (n = 1 ∨ n = 6) ∧ flagsPending s sid k then .next (s.putStrand sid (k.wait .request))
    else
      let k1 := if n = 1 then k.setSt { k.st with x := inExtension s (scopeKey k.ctx k.sc) } else k
      retire s sid (k1.writeG d (BitVec.ofNat 64 (ctlValue s k1 n)))

/-- `CTLW` (R125): the number decides before the register's fray. -/
def execCtlw (a n : Nat) (s : State) : Out :=
  issue (.ctlw a n) [a] [] s fun s sid k =>
    if n ≠ 3 ∧ n ≠ 5 ∧ n ≠ 6 then .next (trap s sid causeRight)
    else withClean s sid k [a] <|
      if n = 3 then retire s sid { k with ep := k.nat a / 4 * 4 }
      else if n = 5 then retire s sid (k.setSt { k.st with ec := (k.val a).truncate 8 })
      else if flagsPending s sid k then .next (s.putStrand sid (k.wait .request))
      else retire s sid (k.setSt { k.st with ff := (k.val a).truncate 5 })

/-! ### Launches (R401) -/

/-- The quads of a context's mask in ascending order. -/
def quadsOf (c : Context) : List Nat := (List.range 1024).filter (bitOf c.quads)

/-- The core to which record i of a launch goes. -/
def launchCore (qs : List Nat) (i : Nat) : Nat := qs.getD (i % Nat.max 1 qs.length) 0 * 4

/-- One record of a launch pushed onto its core's spool; none while no ticket of the die is free. -/
def launchRecord (s : State) (ctx kernel entry root core : Nat) (args : List Word) : Option State :=
  match freeTicket s ctx (dieOf core) with
  | none => none
  | some ix =>
    let key := ctx * 2 ^ 22 + dieOf core * 2 ^ 19 + ix
    let r : Spawn := {
      entry := entry, args := args, frays := [none, none, none, none], ticket := ticketValue s key
      scope := root, share := 24, kernel := kernel }
    some (pushSpool (s.setGroups { s.groups with tickets := Tab.put s.groups.tickets key ⟨none, []⟩ }) ctx core r)

def launchRecords (ctx kernel entry root : Nat) (qs : List Nat) (args : List Word) : Nat → State → Option State
  | 0, s => some s
  | n + 1, s => match launchRecords ctx kernel entry root qs args n s with
    | none => none
    | some s1 => launchRecord s1 ctx kernel entry root (launchCore qs n) args

/-- `launch` (R401): the new kernel root's handle and the state; none while no index or ticket is free. -/
def launch (s : State) (ctx kernel n : Nat) (args : List Word) (info : Launch) : Option (Nat × State) :=
  match Tab.find s.ctxs ctx, Tab.find s.kernels (ctx * 2 ^ 32 + kernel), takeIndex s ctx 8 0 with
  | some c, some x, some key =>
    let h := handleAt s key
    let born : Bool := match findScope s ctx c.root with
      | some p => p.state == .cancelling
      | none => false
    let r : Scope := {
      units := 2 ^ 32 - n * 2 ^ 24, handle := h, parent := c.root, opener := 0, landing := 0
      child := 0, sibling := 0, succeeder := 0, remote := 0, remotes := [], withheld := 0
      root := true, eager := false, selv := false
      state := if born then .cancelling else .open
      result := if born then .cancelled else .ok, fray := 0, saved := 0 }
    let s1 := linkChild (s.putScope key r) ctx c.root h
    let s2 := s1.putKernel (ctx * 2 ^ 32 + kernel)
      { x with state := .running, roots := x.roots ++ [h], launches := x.launches + 1 }
    let s3 := { s2 with launches := Tab.put s2.launches key info }
    (launchRecords ctx kernel (x.image + 4 * x.entry) h (quadsOf c) args n s3).map fun s4 => (h, s4)
  | _, _, _ => none

/-- A kernel can be launched (Table 23-3). -/
def launchable (s : State) (ctx kernel : Nat) : Bool := match Tab.find s.kernels (ctx * 2 ^ 32 + kernel) with
  | some x => x.state == .resident || x.state == .running
  | none => false

/-- The checks of a launch block (R405 item 3). -/
def blockTrap (s : State) (k : Strand) (raw : Nat) : Option Nat :=
  let n := field raw 256 16
  let res := field raw 320 64
  let bar := field raw 384 64
  if field raw 272 48 ≠ 0 ∨ field raw 448 64 ≠ 0 ∨ n = 0 ∨ 256 < n ∨ res % 8 ≠ 0 ∨ bar % 32 ≠ 0 then some causeBuffer
  else if (res ≠ 0 ∧ strandCheck s k res 8 needWr = false) ∨ (bar ≠ 0 ∧ strandCheck s k bar 32 needBar = false) then
    some causeSegment
  else none

/-- `KLAUNCH` (R405). -/
def execKlaunch (d a b : Nat) (s : State) : Out :=
  issue (.klaunch d a b) [a, b] [d] s fun s sid k =>
    withClean s sid k [a, b] <|
      if k.nat b % 64 ≠ 0 then .next (trap s sid causeAlignment)
      else
        withAccess s sid k (k.nat b) 64 64 needRd false fun way =>
          let l := way.loc
          if !homeServes s (dieOf k.core) l 64 then .next (s.putStrand sid (k.wait .request))
          else
            let r := readLoc s l 64
            let s := learn (noteLoc s k.ctx l 64) (dieOf k.core) l
            match r.code with
            | some c => .next (observeFray s sid c)
            | none =>
              let raw := leNat r.bytes
              let kernel := k.nat a % 2 ^ 32
              if launchable s k.ctx kernel = false then .next (trap s sid causeStale)
              else match blockTrap s k raw with
                | some c => .next (trap s sid c)
                | none =>
                  if !releaseReady s sid k 3 then .next (s.putStrand sid (k.wait .request))
                  else
                    let args := (List.range 4).map fun j => BitVec.ofNat 64 (field raw (64 * j) 64)
                    let segs := segsOf s k.ctx k.core
                    let place := fun p : Nat => if p = 0 then none else some (resolve segs p)
                    match launch s k.ctx kernel (field raw 256 16) args
                        ⟨kernel, none, place (field raw 320 64), place (field raw 384 64)⟩ with
                    | none => .next (s.putStrand sid (k.wait .request))
                    | some (h, s1) => retire s1 sid (k.writeG d (BitVec.ofNat 64 h))

/-! ### Hint words (R82, R83) -/

/-- A hint word joins the run of its unit and has no effect of its own; a repeated kind is illegal at the first word. -/
def hintWord (i : Instr) (kind : Run → Option Nat) (put : Run → Run) (s : State) : Out :=
  match s.cur with
  | none => .fault .noStrand
  | some sid =>
    match Tab.find s.strands sid with
    | none => .fault .noStrand
    | some k =>
      let r := k.run.getD ⟨k.pc, none, none, none⟩
      if fits i && legalWith none i && (kind r).isNone then
        .next (s.putStrand sid { k with run := some (put r), pc := (k.pc + 4) % 2 ^ 64, stall := .none })
      else .next (trap s sid causeIllegal)

/-- `HINT.IMM` (R84). -/
def execHintImm (x : Nat) (s : State) : Out := hintWord (.hintImm x) (·.imm) (fun r => { r with imm := some x }) s

/-- `HINT.LAT` (R85). -/
def execHintLat (l : Nat) (s : State) : Out := hintWord (.hintLat l) (·.lat) (fun r => { r with lat := some l }) s

/-- `HINT.MOD` (R86). -/
def execHintMod (sat p r : Nat) (s : State) : Out :=
  hintWord (.hintMod sat p r) (·.mod) (fun x => { x with mod := some (256 * sat + 8 * p + r) }) s

/-! ### Pairs (R88, R89) -/

/-- The scratchpad offset of dictionary entry i, and its key on a core. -/
def dictOff (i : Nat) : Nat := 0xF000 + 4 * i
def dictKey (s : State) (ctx core i : Nat) : Nat :=
  scratchKey ctx (s.pkg * 2 ^ 28 + homeCore s ctx core * 2 ^ 16 + dictOff i)

def isHintOrPair : Instr → Bool
  | .hintImm _ => true
  | .hintLat _ => true
  | .hintMod _ _ _ => true
  | .pair _ _ => true
  | _ => false

/-- The majors of a second entry (R88). -/
def secondMajor (w : Nat) : Bool :=
  let m := w / 2 ^ 26
  decide ((0x01 ≤ m ∧ m ≤ 0x0B) ∨ (0x20 ≤ m ∧ m ≤ 0x27) ∨ m = 0x2B)

/-- The trap of an entry that depends on its word and the strand alone. -/
def entryTrap (k : Strand) (w : Nat) : Option Nat := match decodeWord w with
  | .error _ => some causeIllegal
  | .ok i =>
    if !(fits i && legalWith none i) || isHintOrPair i then some causeIllegal
    else match vregsOf i with
      | some vs => if k.vcount = 0 ∨ vregsOk k vs = false then some causeVector else none
      | none => none

/-- A register of the second entry, not written by the first, that is not ready: to be read, or awaiting a return. -/
def secondWaits (k : Strand) (w0 w1 : Nat) : Option Park := match decodeWord w0, decodeWord w1 with
  | .ok i, .ok j =>
    let own := fun r => (destsOf i).contains r
    match firstEmpty k ((secondReads j).filter fun r => !own r) with
    | some r => some (.reg r)
    | none => (firstPending k ((destsOf j).filter fun r => !own r)).map Park.ret
  | _, _ => none

/-- The vector registers that a second entry names: a gang load may still owe one (R89, R293). -/
def secondVregs (w : Nat) : List Nat := match decodeWord w with
  | .ok i => (vregsOf i).getD []
  | .error _ => []

/-- A dictionary word can be read on a core: its bank and region are ready (R31, R33). -/
def dictReady (s : State) (k : Strand) (i : Nat) : Bool :=
  padReady s k.ctx (homeCore s k.ctx k.core) (dictOff i) 4 true

/-- `PAIR` (R88, R89): both entries checked, and queued to execute at this word. Where several checks fail, poison comes before
an illegal entry, and the first entry's traps before the second's (DESIGN CHOICE: no order is stated; log 76). -/
def execPair (i j : Nat) (s : State) : Out :=
  issue (.pair i j) [] [] s fun s sid k =>
    let n := match kernelOf s k with
      | some x => x.dict.length
      | none => 0
    if n ≤ i ∨ n ≤ j then .next (trap s sid causeIllegal)
    else if !dictReady s k i || !dictReady s k j then .next (s.putStrand sid (k.wait .request))
    else
      let r0 := readAt s (dictKey s k.ctx k.core i) 4
      let r1 := readAt s (dictKey s k.ctx k.core j) 4
      let s := noteDamage (noteDamage s k.ctx (dictKey s k.ctx k.core i) 4) k.ctx (dictKey s k.ctx k.core j) 4
      if r0.code.isSome ∨ r1.code.isSome then .next (observeFray s sid 1)
      else
        let w0 := leNat r0.bytes
        let w1 := leNat r1.bytes
        match firstOfTraps [entryTrap k w0, if secondMajor w1 then none else some causeIllegal, entryTrap k w1] with
        | some c => .next (trap s sid c)
        | none => if vecPending s sid (secondVregs w1) then .next (s.putStrand sid (k.wait .request)) else match secondWaits k w0 w1 with
          | some (.reg r) =>
            let p := cancelPoint s sid
            if p.2 then .next (p.1.modStrand sid fun k => k.park (.reg r)) else .next p.1
          | some why => .next (s.putStrand sid (k.park why))
          | none => .next (s.putStrand sid { k with pair := [w0, w1], stall := .none })

/-! ### Words that are no instruction -/

/-- An observer of the strand that is issuing. -/
def onIssuer (s : State) (f : State → Nat → State) : Out := match s.cur with
  | none => .fault .noStrand
  | some sid => .next (f s sid)

/-- ILLEGAL_INSTRUCTION (R80). -/
def execIllegalInstruction (s : State) : Out := onIssuer s fun s sid => trap s sid causeIllegal

/-- POISONED_INSTRUCTION_FETCH (R81): the fray's code is 1; that of a fetch over a dead path, which no table lists, is 3
(DESIGN CHOICE, log 74). -/
def execPoisonedInstructionFetch (code : Nat) (s : State) : Out :=
  onIssuer s fun s sid => observeFray s sid (BitVec.ofNat 4 code)

/-- TARGET_FETCH_SEGMENT_TRAP (R120): ep holds the target. -/
def execTargetFetchSegmentTrap (s : State) : Out := onIssuer s fun s sid => trap s sid causeSegment

end Sys2Proof.Machine
end

