-- ==== Sys2Proof/Machine/EvStrand.lean ====
section
/-! DEFINITION. The device's own steps on strands: retention and storage regions (R30 to R34), placement and stealing (R142
to R144, R402, R403), migration (R138), retirement (R129, R150), the delivery of messages (R147) and the eager count
(R171). -/

namespace Sys2Proof.Machine

/-- A core that runs nothing. The rotation pointer of a core that has never issued is 7, so that slot 0 comes first
(DESIGN CHOICE: R135 gives no initial value; log 5). -/
def Core.blank : Core := ⟨0, .idle, [], 7, [], [], none, [], none, 0, [], [], [], none, [], 0⟩

/-! ### Retention and storage regions (R30 to R34) -/

/-- A bank is idle: no `LDT` that has started has still to read it (R30). -/
def bankIdle (s : State) (core bank : Nat) : Bool := s.quads.all fun q => match q.2.busy with
  | some (_, o) =>
    o.kind != .ldt || physCore s (o.sid / 32768) (ptrCore o.a) != core || (ldtOffsets o).all fun off => field off 3 4 != bank
  | none => true

/-- BANK_RETENTION_ENTRY (R30): the entry of an idle bank begins; accesses wait from now on (R31). -/
def execBankRetentionEntry (core bank : Nat) (s : State) : Out :=
  let key := core * 16 + bank
  if core < 4096 ∧ bank < 16 ∧ Tab.has s.prot.banks key = false ∧ bankIdle s core bank then
    .next (s.setProt { s.prot with banks := Tab.put s.prot.banks key .entering })
  else .next s

/-- BANK_RETENTION_EXIT (R30, R31): entry runs to its end before exit starts. -/
def execBankRetentionExit (core bank : Nat) (s : State) : Out :=
  let key := core * 16 + bank
  if Tab.find s.prot.banks key = some .retained then
    .next (s.setProt { s.prot with banks := Tab.put s.prot.banks key .leaving })
  else .next s

/-- RETENTION_TRANSITION_DONE (R30): content and meaning are unchanged (R31). -/
def execRetentionTransitionDone (core bank : Nat) (s : State) : Out :=
  let key := core * 16 + bank
  match Tab.find s.prot.banks key with
  | some .entering => .next (s.setProt { s.prot with banks := Tab.put s.prot.banks key .retained })
  | some .leaving => .next (s.setProt { s.prot with banks := Tab.del s.prot.banks key })
  | _ => .next s

/-- A region whose claimed contents are saved passes to its claimant, which has its own restored first (R33). -/
def Region.handOver (r : Region) (old : Nat) : Region :=
  match r.owner with
  | none => { r with saving := none, saved := old :: r.saved }
  | some img =>
    if r.saved.contains img then
      { owner := some img, saving := none, saved := old :: r.saved.erase img, restoring := some img }
    else { r with saving := none, saved := old :: r.saved }

/-- A running image takes a region (R33): one that no image holds, or one that it claims. -/
def Region.take (r : Region) (img : Nat) : Region :=
  if r.owner = some img then r
  else match r.saving, r.owner with
    | some _, _ => { r with owner := some img }
    | none, some old => { r with owner := some img, saving := some old }
    | none, none =>
      if r.saved.contains img then { r with owner := some img, saved := r.saved.erase img, restoring := some img }
      else { r with owner := some img }

/-- A context runs on a core of a quad. -/
def runsInQuad (s : State) (quad ctx : Nat) : Bool :=
  (List.range 4).any fun i => match Tab.find s.cores (quad * 4 + i) with
    | some c => c.mode != .idle && c.ctx == ctx
    | none => false

/-- The regions of a quad's typed buffers for a context that is switched onto one of its cores (R33). Where two contexts run in one
quad, neither claims from the other: the later one is served at its save area (DESIGN CHOICE, log 77). -/
def takeBuffers (t : Tab Region) (s : State) (quad ctx : Nat) : Tab Region :=
  (List.range 112).foldl (fun t i =>
    let key := 2 ^ 16 + quad * 128 + i
    let r := Tab.get t key ⟨none, [], none, none⟩
    match r.owner with
    | some other => if other ≠ ctx ∧ runsInQuad s quad other then t else Tab.put t key (r.take ctx)
    | none => Tab.put t key (r.take ctx)) t

/-- The regions of a core's scratchpad for an image that is switched onto it, and those of its quad's buffers for the image's
context (R33). -/
def takeRegions (s : State) (core img : Nat) : State :=
  let pads := (List.range 16).foldl (fun t i =>
    let key := core * 16 + i
    Tab.put t key ((Tab.get t key ⟨none, [], none, none⟩).take img)) s.prot.regions
  s.setProt { s.prot with regions := takeBuffers pads s (quadOf core) (img / 4096) }

/-- The banks over which a scratchpad region lies, all of its core's, are out of retention: its save and its restore wait for them
(R31). -/
def regionAwake (s : State) (region : Nat) : Bool := decide (2 ^ 16 ≤ region) || banksReady s (region / 16) 0 128

/-- REGION_SAVE_DONE (R33 item 3). -/
def execRegionSaveDone (region : Nat) (s : State) : Out :=
  if regionAwake s region = false then .next s
  else match Tab.find s.prot.regions region with
  | some r => match r.saving with
    | some old => .next (s.setProt { s.prot with regions := Tab.put s.prot.regions region (r.handOver old) })
    | none => .next s
  | none => .next s

/-- REGION_RESTORE_DONE (R33 item 4). -/
def execRegionRestoreDone (region : Nat) (s : State) : Out :=
  match Tab.find s.prot.regions region with
  | some r =>
    if r.restoring.isSome && r.saving.isNone && regionAwake s region then
      .next (s.setProt { s.prot with regions := Tab.put s.prot.regions region { r with restoring := none } })
    else .next s
  | none => .next s

/-! ### Spawn records (R140) -/

/-- The 64 bytes of a spawn record (Table 06-6). -/
def Spawn.bytes (r : Spawn) : List Byte :=
  let code := fun i : Nat => ((r.frays.getD i none).map (·.toNat)).getD 0
  leBytes 8 r.entry ++ ((List.range 4).flatMap fun i => leBytes 8 (r.args.getD i 0).toNat) ++ leBytes 8 r.ticket ++ leBytes 4 r.scope ++
    leBytes 1 (r.share % 32) ++
    leBytes 1 ((List.range 4).foldl (fun acc i => acc + (r.frays.getD i none).isSome.toNat * 2 ^ i) 0) ++
    leBytes 2 ((List.range 4).foldl (fun acc i => acc + code i * 2 ^ (4 * i)) 0) ++ leBytes 4 r.kernel ++ leBytes 4 0

/-! ### Placement (R130, R133, R142, R144) -/

/-- A core that runs a context. -/
def runningCore (s : State) (core : Nat) : Option Core := match Tab.find s.cores core with
  | some c => if c.mode = .running then some c else none
  | none => none

/-- The directory entry that a strand placed in a slot takes (R133): its slot's coordinates, or the lowest that is free. -/
def takeEntry (s : State) (ctx home slot : Nat) : Option Nat :=
  let free := fun i => !Tab.has s.strands (ctx * 32768 + home * 8 + i)
  if free slot then some (home * 8 + slot)
  else ((List.range 8).find? free).map (home * 8 + ·)

/-- A strand that a core holds, placed or switched out. -/
def heldAt (s : State) (ctx core : Nat) (k : Strand) : Bool :=
  k.ctx == ctx && k.core == core && k.phase != .migrating && Tab.has s.strands (ctx * 32768 + k.entry)

/-- A core holds a strand of another kernel of a context (R403). -/
def otherKernel (s : State) (ctx core kernel : Nat) : Bool :=
  s.strands.any fun p => heldAt s ctx core p.2 && p.2.kernel != kernel

/-- A migration arrival of another kernel waits at a core (R403). -/
def otherArrival (s : State) (c : Core) (kernel : Nat) : Bool :=
  c.arrivals.any fun sid => match Tab.find s.strands sid with
    | some k => k.ctx == c.ctx && k.kernel != kernel
    | none => false

/-- The vector registers that the strands of a context own on a core (R131). -/
def ownedVregs (s : State) (ctx core : Nat) : Nat :=
  s.strands.foldl (fun acc p => if heldAt s ctx core p.2 then acc + p.2.vcount else acc) 0

/-- The vector registers that a kernel declares (R126). -/
def declaredVregs (s : State) (ctx kernel : Nat) : Nat := match Tab.find s.kernels (ctx * 2 ^ 32 + kernel) with
  | some x => x.vregs
  | none => 0

/-- What a kernel's first strand on a core after a launch needs: the banks and regions that its dictionary's words are written to serve
them now (R31, R33, R402). -/
def kernelReady (s : State) (core ctx kernel : Nat) : Bool :=
  match Tab.find s.cores core, Tab.find s.kernels (ctx * 2 ^ 32 + kernel) with
  | some c, some x => (c.kernel == some kernel && c.launch == x.launches) ||
      (List.range x.dict.length).all fun i => padReady s ctx (homeCore s ctx core) (dictOff i) 4 true
  | _, _ => true

/-- The messages held for a record's ticket find room on the die of its strand (R147, Table 22-2, log 71). -/
def mailFits (s : State) (core : Nat) (c : Core) (r : Spawn) : Bool :=
  let held := ((Tab.find s.groups.tickets (ticketKey c.ctx r.ticket)).map (·.mail.length)).getD 0
  field r.ticket 48 3 == dieOf core || decide (held ≤ 16) || decide (messageRecords s c.ctx (dieOf core) + (held - 16) < 65536)

/-- A slot of a core is idle for a record (R142), and the core can load the record's kernel (R402). -/
def idleFor (s : State) (core slot : Nat) (c : Core) (r : Spawn) : Bool :=
  !Tab.has c.slots slot && decide (slot < 8) && (takeEntry s c.ctx (homeCore s c.ctx core) slot).isSome &&
    decide (ownedVregs s c.ctx core + declaredVregs s c.ctx r.kernel ≤ 64) &&
    !otherKernel s c.ctx core r.kernel && !otherArrival s c r.kernel && kernelReady s core c.ctx r.kernel && mailFits s core c r

/-- The words of a dictionary written to the scratchpad region that holds it (R87, R402). -/
def stageDict (s : State) (ctx core : Nat) : Nat → List Nat → State
  | _, [] => s
  | i, w :: ws => stageDict (putBytes s (dictKey s ctx core i) (leBytes 4 w)) ctx core (i + 1) ws

/-- The 16 positions of a slot-table image (R287). -/
def slotNibbles (img : Nat) : List Nat := (List.range 16).map fun p => field img (4 * p) 4

/-- KERNEL_STATE_LOAD (R402, R403): when a core first runs a strand of a kernel after a launch. -/
def loadKernelState (s : State) (core ctx kernel : Nat) : State :=
  match Tab.find s.cores core, Tab.find s.kernels (ctx * 2 ^ 32 + kernel) with
  | some c, some x =>
    if c.kernel = some kernel ∧ c.launch = x.launches then s
    else
      let s1 := stageDict s ctx core 0 x.dict
      let q := quadAt s1 (quadOf core)
      (s1.putQuad (quadOf core) { q with
        tiles := x.tiles, slotTable := (x.slotImage.map slotNibbles).getD (List.replicate 16 8), pos := 0, rr := 0 }).putCore
        core { c with kernel := some kernel, launch := x.launches, bounds := x.bounds }
  | _, _ => s

/-- A fresh context for a strand that is placed (R130). -/
def Strand.fresh (ctx entry gen core slot vregs : Nat) (r : Spawn) : Strand :=
  let arg := fun i : Nat => (⟨r.args.getD i 0, true, (r.frays.getD i none).isSome, (r.frays.getD i none).getD 0, false⟩ : GReg)
  let regs : Vector GReg 16 := Vector.ofFn fun i : Fin 16 => if i.val < 4 then arg i.val else GReg.empty
  { ctx := ctx, entry := entry, gen := gen, ticket := r.ticket, kernel := r.kernel, core := core, slot := slot
    phase := .placed, out := false, stall := .none, regs := regs, vcount := vregs
    vregs := Vector.replicate 32 ⟨0, 0, 0⟩, masks := Vector.replicate 8 ⟨0, false, 0⟩
    pc := r.entry, ep := 0
    st := { mode := 0, ec := 0, fc := 0, sd := 0, x := false, a := decide (0 < vregs), p := false, c := false, t := false, ff := 0 }
    sc := r.scope, share := r.share, eager := 0, counts := false, run := none, pair := [], recheck := false, again := false
    since := 0, ibuf := [], vccTarget := none, gang := none, gangAborted := false, mail := [], lost := [], yieldTo := [], yieldBy := 0
    opened := 0, worst := .complete, errs := [], acq := false }

/-- Placement of a record in an idle slot (R130, R133, R146); the arguments of one that cannot be corrected are frayed with code 1
(R29). -/
def placeRecord (s0 : State) (core slot : Nat) (c : Core) (r0 : Spawn) : State :=
  let s := noteArray c.ctx s0 (recordWord c.ctx r0)
  let r := if arraySpoiled s0 (recordWord c.ctx r0) then { r0 with frays := List.replicate 4 (some 1) } else r0
  match takeEntry s c.ctx (homeCore s c.ctx core) slot with
  | none => s
  | some e =>
    let sid := c.ctx * 32768 + e
    let key := ticketKey c.ctx r.ticket
    let mail := ((Tab.find s.groups.tickets key).map (·.mail)).getD []
    let k := Strand.fresh c.ctx e (Tab.get s.groups.dirGen sid 0) core slot (declaredVregs s c.ctx r.kernel) r
    let s1 := s.setGroups { s.groups with tickets := Tab.put s.groups.tickets key ⟨some sid, []⟩ }
    let counts := ((findScope s c.ctx r.scope).map (·.eager)).getD false
    let s2 := (s1.putStrand sid { k with mail := mail, counts := counts, since := s.cycle }).modCore core fun c => { c with slots := Tab.put c.slots slot sid }
    wakeSpace (loadKernelState s2 core c.ctx r.kernel)

/-- The youngest record of a core's own spool for which a slot is idle, with its place (R142). -/
def popChoice (s : State) (core slot : Nat) (c : Core) : Option (Nat × Spawn) :=
  let rs := Tab.get s.groups.spools (spoolKey c.ctx (homeCore s c.ctx core)) []
  ((List.range rs.length).reverse.findSome? fun i => match rs[i]? with
    | some r => if idleFor s core slot c r then some (i, r) else none
    | none => none)

/-- A record taken out of a spool. -/
def takeRecord (s : State) (ctx victim i : Nat) : State :=
  let key := spoolKey ctx victim
  let rs := (Tab.get s.groups.spools key []).eraseIdx i
  s.setGroups { s.groups with
    spools := if rs.isEmpty then Tab.del s.groups.spools key else Tab.put s.groups.spools key rs }

/-- The first arrival that a core can take (R138 item 5, R402, R403). -/
def nextArrival (s : State) (core : Nat) (c : Core) : Option Nat :=
  c.arrivals.find? fun sid => match Tab.find s.strands sid with
    | some k => k.ctx == c.ctx && !otherKernel s c.ctx core k.kernel && kernelReady s core k.ctx k.kernel
    | none => false

/-- RECORD_POP (R142): arrivals are taken before pops. -/
def execRecordPop (core slot : Nat) (s : State) : Out :=
  match runningCore s core with
  | none => .next s
  | some c =>
    if (nextArrival s core c).isSome then .next s
    else match popChoice s core slot c with
      | none => .next s
      | some (i, r) => .next (placeRecord (takeRecord s c.ctx (homeCore s c.ctx core) i) core slot c r)

/-- The victims at a distance, in order of their number (R143 item 1, which asks for a fixed order and gives none: DESIGN CHOICE, log
5). -/
def victimsAt (core d : Nat) : List Nat :=
  (List.range 4096).filter fun v => v != core && (match d with
    | 1 => quadOf v == quadOf core
    | 2 => clusterOf v == clusterOf core && quadOf v != quadOf core
    | 3 => dieOf v == dieOf core && clusterOf v != clusterOf core
    | _ => dieOf v != dieOf core)

/-- The victims after the round-robin pointer of the distance. -/
def victimOrder (core d ptr : Nat) : List Nat :=
  let vs := victimsAt core d
  vs.filter (ptr < ·) ++ vs.filter (· ≤ ptr)

/-- The oldest record of a victim that a thief's slot may take at a distance. -/
def stealChoice (s : State) (core slot d victim : Nat) (c : Core) : Option (Nat × Spawn) :=
  let rs := Tab.get s.groups.spools (spoolKey c.ctx victim) []
  (List.range rs.length).findSome? fun i => match rs[i]? with
    | some r =>
      let reach := ((Tab.find s.kernels (c.ctx * 2 ^ 32 + r.kernel)).map (·.steal)).getD 0
      if d ≤ reach && idleFor s core slot c r then some (i, r) else none
    | none => none

/-- The distances in order, from the nearest (R143): the distance, the victim, and the record's place. Before its first steal at a
distance a core's pointer is its own number (DESIGN CHOICE: R143 gives no initial value; log 5). -/
def stealFrom (s : State) (core slot : Nat) (c : Core) : List Nat → Option (Nat × Nat × Nat × Spawn)
  | [] => none
  | d :: ds =>
    match (victimOrder core d (Tab.get c.steal d core)).findSome? fun v =>
        (stealChoice s core slot d v c).map fun p => (d, v, p.1, p.2) with
    | some x => some x
    | none => stealFrom s core slot c ds

/-- RECORD_STEAL (R143): a slot that finds nothing in its own spool. -/
def execRecordSteal (core slot : Nat) (s : State) : Out :=
  match runningCore s core with
  | none => .next s
  | some c =>
    if (nextArrival s core c).isSome || (popChoice s core slot c).isSome then .next s
    else match stealFrom s core slot c [1, 2, 3, 4] with
      | none => .next s
      | some (d, v, i, r) =>
        let s1 := (takeRecord s c.ctx v i).modCore core fun x => { x with steal := Tab.put x.steal d v }
        .next (placeRecord s1 core slot c r)

/-- STRAND_SETUP_DONE (Table 06-2, R144): a record of a scope that has marked its members is never issued. The setup takes the
cycle after the placement (R137). -/
def execStrandSetupDone (sid : Nat) (s : State) : Out :=
  match Tab.find s.strands sid with
  | some k =>
    if k.phase = .placed ∧ k.out = false ∧ k.since < s.cycle then
      if scopeMarked s k.ctx k.sc then .next (enterCancelling s sid k)
      else .next (deliverHeld (s.putStrand sid { k with phase := .running }) sid)
    else .next s
  | none => .next s

/-! ### Migration (R138, R139) -/

/-- No register of a strand awaits a return. -/
def nonePending (k : Strand) : Bool := k.regs.toList.all fun g => !g.pend

/-- The state of a register in the control block: 0 empty, 1 full and clean, 2 full and frayed (Table 06-5). -/
def GReg.tag (x : GReg) : Nat := if x.full then (if x.fray then 2 else 1) else 0

/-- The register that a state, a code and eight bytes describe. -/
def GReg.ofTag (tag code v : Nat) : GReg :=
  ⟨BitVec.ofNat 64 v, decide (tag ≠ 0), decide (tag = 2), if tag = 2 then BitVec.ofNat 4 code else 0, false⟩

/-- The 256-bit control block of a migration message (Table 06-5). -/
def Strand.control (k : Strand) : Nat :=
  let r := fun (f : Nat → Nat) => (List.range 16).foldl (fun acc i => acc + f i) 0
  let x := k.st
  k.pc / 4 * 2 ^ 194 + k.share % 32 * 2 ^ 189 + k.entry % 2 ^ 15 * 2 ^ 174 + x.mode.toNat * 2 ^ 158 + x.ec.toNat * 2 ^ 150 +
    x.fc.toNat * 2 ^ 142 + x.sd % 16 * 2 ^ 138 + x.x.toNat * 2 ^ 137 + x.a.toNat * 2 ^ 136 + x.p.toNat * 2 ^ 135 +
    x.c.toNat * 2 ^ 134 + x.t.toNat * 2 ^ 133 + x.ff.toNat * 2 ^ 128 + k.sc % 2 ^ 32 * 2 ^ 96 +
    r (fun i => (k.g i).tag * 2 ^ (64 + 2 * i)) + r (fun i => (if (k.g i).tag = 2 then (k.g i).code.toNat else 0) * 2 ^ (4 * i))

/-- The migration message as 20 doublewords: g0 to g15, then the control block, its low doubleword first (R139). -/
def Strand.message (k : Strand) : List Nat :=
  (List.range 16).map k.nat ++ (List.range 4).map fun i => field k.control (64 * i) 64

/-- The strand that a migration message describes; ep does not travel and is free (log 10). -/
def Strand.unpack (k : Strand) (ws : List Nat) (ep : Word) : Strand :=
  let c := ws.getD 16 0 + ws.getD 17 0 * 2 ^ 64 + ws.getD 18 0 * 2 ^ 128 + ws.getD 19 0 * 2 ^ 192
  { k with
    pc := field c 194 62 * 4, share := field c 189 5, entry := field c 174 15, sc := field c 96 32
    ep := ep.toNat / 4 * 4, ibuf := []
    st := { mode := BitVec.ofNat 16 (field c 158 16), ec := BitVec.ofNat 8 (field c 150 8), fc := BitVec.ofNat 8 (field c 142 8)
            sd := field c 138 4, x := bitOf c 137, a := bitOf c 136, p := bitOf c 135, c := bitOf c 134, t := bitOf c 133
            ff := BitVec.ofNat 5 (field c 128 5) }
    regs := Vector.ofFn fun i : Fin 16 => GReg.ofTag (field c (64 + 2 * i.val) 2) (field c (4 * i.val) 4) (ws.getD i.val 0) }

/-- MIGRATION_DEPART (R138 items 3 and 4): the registers are read, and the message takes with it what the die it leaves has seen (R211). -/
def execMigrationDepart (sid : Nat) (s0 : State) : Out :=
  let s := noteLeaving s0 [sid]
  match Tab.find s.strands sid with
  | some k => match k.stall with
    | .leave dest =>
      if k.phase = .running ∧ k.out = false ∧ nonePending k ∧ memBusy s sid = false then
        let s1 := s.modCore k.core fun c => { c with slots := Tab.del c.slots k.slot }
        .next ((s1.putStrand sid { k with phase := .migrating, stall := .none, ibuf := [] }).send
          (.migration sid (physCore s k.ctx dest) k.message (clockOf s (dieOf k.core))))
      else .next s0
    | _ => .next s0
  | none => .next s0

/-- An arrival taken into a slot: a cancellation point, after which the access is issued (R138 items 5 and 6). -/
def takeArrival (s : State) (core slot sid : Nat) : State :=
  match Tab.find s.strands sid with
  | none => s
  | some k =>
    let s1 := s.modCore core fun c => { c with slots := Tab.put c.slots slot sid, arrivals := c.arrivals.erase sid }
    let s2 := s1.putStrand sid { k with core := core, slot := slot, phase := .running, out := false, eager := 0 }
    deliverHeld (cancelPoint (loadKernelState s2 core k.ctx k.kernel) sid).1 sid

/-- A strand that arrives waits in the core's queue; it counts as switched out where its context is not resident (R138), and
its locks may then earn a donation (R203). -/
def queueArrival (s : State) (core sid : Nat) : State :=
  let c := Tab.get s.cores core Core.blank
  let s1 := s.putCore core { c with arrivals := c.arrivals ++ [sid] }
  match Tab.find s1.strands sid with
  | none => s1
  | some k =>
    let out := !(c.mode == .running && c.ctx == k.ctx)
    let s2 := s1.putStrand sid { k with out := out }
    if out then donateHeld s2 [sid] else s2

/-- The free slot that an arrival takes: the lowest (DESIGN CHOICE: R138 says a free slot; log 5). -/
def freeSlot (c : Core) : Option Nat := (List.range 8).find? fun i => !Tab.has c.slots i

/-- MIGRATION_ARRIVAL (R138 item 5). -/
def execMigrationArrival (id : Nat) (s : State) : Out :=
  match Tab.find s.flights id with
  | some (.migration sid dest ws vec) =>
    let s0 := ((s.delFlight id).nextFree.modStrand sid fun k =>
      let j := k.unpack ws s.free
      -- a cancel that came on the way has marked it (R129, R165)
      j.setSt { j.st with c := j.st.c || k.st.c })
    let s1 := queueArrival (raiseClock s0 (dieOf dest) vec) dest sid
    match runningCore s1 dest with
    | none => .next s1
    | some c => match freeSlot c with
      | some slot => if nextArrival s1 dest c = some sid then .next (takeArrival s1 dest slot sid) else .next s1
      | none => .next s1
  | _ => .next s

/-- ARRIVAL_QUEUE_TAKE (R138 item 5). -/
def execArrivalQueueTake (core slot : Nat) (s : State) : Out :=
  match runningCore s core with
  | none => .next s
  | some c =>
    if slot < 8 ∧ Tab.has c.slots slot = false then
      match nextArrival s core c with
      | some sid => .next (takeArrival s core slot sid)
      | none => .next s
    else .next s

/-! ### Retirement (R129, R133, R146, R150, R202) -/

/-- The locks that a strand holds fray with code 9 (R202), as soon as their banks serve it (R31). -/
def frayHeldLocks (s : State) (sid : Nat) (k : Strand) : State :=
  let keys := (s.sync.holders.filter fun p => p.2 == sid).map (·.1)
  keys.foldl (fun s key =>
    let s1 := s.setSync { s.sync with holders := Tab.del s.sync.holders key }
    if keyServes s key 32 then finishLock s1 k.ctx (k.sc % 2 ^ 32) key true
    else s1.send (.lockUpdate k.ctx (k.sc % 2 ^ 32) key true)) s

/-- The ticket of a strand is freed (R146). -/
def freeTicketOf (s : State) (k : Strand) : State :=
  let key := ticketKey k.ctx k.ticket
  s.setGroups { s.groups with
    tickets := Tab.del s.groups.tickets key
    ticketGen := Tab.put s.groups.ticketGen key ((Tab.get s.groups.ticketGen key 0 + 1) % 2 ^ 16) }

/-- A strand is retired: its locks fray, its share returns, its messages bounce, its entry, ticket and slot are free. -/
def retireStrand (s : State) (sid : Nat) (k : Strand) : State :=
  let s1 := frayHeldLocks (leaveGangAborting s k) sid k
  let s2 := dropMsgs (returnShare s1 k.ctx k.sc k.share) k.mail 1
  let s3 := freeTicketOf s2 k
  let s4 := s3.setGroups { s3.groups with dirGen := Tab.put s3.groups.dirGen sid ((k.gen + 1) % 2 ^ 16) }
  wakeSpace ((s4.modCore k.core fun c => { c with slots := Tab.del c.slots k.slot }).delStrand sid)

/-- A cancelling strand's loads, atomics, claims and acknowledgments have returned, and the return of its share, a release at `.pkg`
(R180), can be made. -/
def retirable (s : State) (sid : Nat) (k : Strand) : Bool :=
  nonePending k && !memBusy s sid && !holdsLoad s sid && releaseReady s sid k 3

/-- STRAND_RETIRE (Table 06-2). -/
def execStrandRetire (sid : Nat) (s : State) : Out :=
  match Tab.find s.strands sid with
  | some k =>
    if k.phase = .cancelling ∧ k.out = false ∧ retirable s sid k then .next (retireStrand s sid k) else .next s
  | none => .next s

/-! ### Messages (R147, R148) -/

/-- The strand that a message's target names now, by ticket or by handle; none before placement and for another package. -/
def messageTarget (s : State) (m : Msg) : Option Nat :=
  if field m.target 51 13 ≠ s.pkg then none
  else if bitOf m.target 35 then (Tab.find s.groups.tickets (ticketKey m.ctx m.target)).bind (·.strand)
  else strandOf s m.ctx m.target

/-- Two messages are for the same register of the same strand, however their senders named it (R148). -/
def sameTarget (s : State) (x m : Msg) : Bool :=
  x.ctx == m.ctx && x.reg % 16 == m.reg % 16 &&
    (x.target == m.target || ((messageTarget s x).isSome && messageTarget s x == messageTarget s m))

/-- No earlier message of the same sender to the same register is still on its way (R148). -/
def messageFirst (s : State) (id : Nat) (m : Msg) : Bool :=
  s.flights.all fun p => decide (id ≤ p.1) || (match p.2 with
    | .msg x => x.sender != m.sender || x.senderGen != m.senderGen || !sameTarget s x m
    | _ => true)

/-- The strand may still issue in this cycle: a write of its own then comes before a message that arrives now (Table 06-8). -/
def mayIssueNow (s : State) (k : Strand) : Bool := k.phase == .running && (match Tab.find s.cores k.core with
  | some c => !issuedNow s c
  | none => false)

/-- A message reaches a strand: in the spill queue while it is switched out, otherwise held or delivered (Table 06-7), at the end of
the cycle where the strand may still issue in it (Table 06-8). -/
def messageTo (s : State) (sid : Nat) (m : Msg) : State :=
  match Tab.find s.strands sid with
  | none => dropMsg s m 1
  | some k =>
    if k.out then spillTo s sid k (.msg m)
    else
      let s1 := s.putStrand sid { k with mail := k.mail ++ [m] }
      if mayIssueNow s k then s1 else deliverHeld s1 sid

/-- The cycle ends: what its messages found is delivered (Table 06-8). -/
def deliverDue (s : State) : State :=
  ((s.strands.filter fun p => !p.2.mail.isEmpty).map (·.1)).foldl deliverHeld s

/-- A message that another package takes: which of the fates of Table 06-7 it has there is the turn's choice (log 16). -/
def messageAbroad (s : State) (id : Nat) (m : Msg) : State :=
  match s.pick % 3 with
  | 0 => ackMsg ((s.delFlight id).send (.share m.ctx m.scope m.units (field m.target 51 13))) m 0 false 0
  | 1 => dropMsg (s.delFlight id) m 1
  | _ => s.setLinks { s.links with sent := s.links.sent.map fun e => if e.id = id then { e with there := true } else e }

/-- A message that is forwarded to a strand on another die than its ticket's finds room there (R389, Table 22-2, log 71). -/
def messageFits (s : State) (sid : Nat) (m : Msg) : Bool :=
  sid % 32768 / 4096 == field m.target 48 3 || messageRoom s m.ctx (sid % 32768 / 4096)

/-- MESSAGE_ARRIVAL (R147, Table 06-7). -/
def execMessageArrival (id : Nat) (s : State) : Out :=
  match Tab.find s.flights id with
  | some (.msg m) =>
    if messageFirst s id m = false then .next s
    else
      let s1 := s.delFlight id
      let pkg := field m.target 51 13
      if !pathOpen s pkg then
        .next (ackMsg (s1.nextFree.send (.share m.ctx m.scope m.units (field m.target 51 13))) m s.free.toNat true 3)
      else if scopeMarked s m.ctx m.scope then .next (dropMsg s1 m 2)
      else if pkg ≠ s.pkg then .next (messageAbroad s id m)
      else if bitOf m.target 35 then
        let key := ticketKey m.ctx m.target
        match Tab.find s.groups.tickets key with
        | none => .next (dropMsg s1 m 1)
        | some t =>
          if Tab.get s.groups.ticketGen key 0 ≠ m.target % 2 ^ 16 then .next (dropMsg s1 m 1)
          else match t.strand with
            | some sid => .next (if messageFits s sid m then messageTo s1 sid m else s)
            | none => .next (s1.setGroups { s1.groups with tickets := Tab.put s1.groups.tickets key { t with mail := t.mail ++ [m] } })
      else match strandOf s m.ctx m.target with
        | some sid => .next (messageTo s1 sid m)
        | none => .next (dropMsg s1 m 1)
  | _ => .next s

/-- SEND_ACK_RETURN (R152). -/
def execSendAckReturn (id : Nat) (s : State) : Out :=
  match Tab.find s.flights id with
  | some (.ack sid gen fill) => .next (fillStrand (s.delFlight id) sid gen [fill])
  | _ => .next s

/-! ### The eager count (R171) -/

/-- A strand in an eager scope has reached the count. -/
def eagerDue (k : Strand) : Bool :=
  decide (4096 ≤ k.eager) && k.counts && k.run.isNone && k.pair.isEmpty

/-- EAGER_COUNT_EXPIRY (R171): the next instruction is preceded by a cancellation point. -/
def execEagerCountExpiry (sid : Nat) (s : State) : Out :=
  match Tab.find s.strands sid with
  | some k =>
    if k.phase = .running ∧ k.out = false ∧ eagerDue k then .next (cancelPoint s sid).1 else .next s
  | none => .next s

end Sys2Proof.Machine
end

