-- ==== Sys2Proof/Machine/EvScope.lean ====
section
/-! DEFINITION. The device's own steps on scopes: returns, borrows, cancels and child links on their way to a home (R162, R164,
R167, R168). -/

namespace Sys2Proof.Machine

/-- Units come home from another package: what its entry no longer counts is discarded (R168). -/
def Scope.takeRemote (r : Scope) (units pkg : Nat) : Scope :=
  let held := Tab.get r.remotes pkg 0
  if units ≤ held then { r with units := r.units + units, remotes := Tab.put r.remotes pkg (held - units) } else r

/-- No return that another package sent before this one has still to be taken (R425, R428). -/
def returnFirst (s : State) (id pkg : Nat) : Bool := pkg == s.pkg || s.flights.all fun p => decide (id ≤ p.1) || (match p.2 with
  | .share _ _ _ from_ => from_ != pkg
  | _ => true)

/-- SHARE_RETURN (R162, R167): the units are added, and a scope of which the home holds every unit closes (R175). Those of one other
package are taken in the order in which it sent them (R425). -/
def execShareReturn (id : Nat) (s : State) : Out :=
  match Tab.find s.flights id with
  | some (.share ctx scope units pkg) =>
    if !returnFirst s id pkg then .next s else
    let s1 := s.delFlight id
    match findScope s1 ctx scope with
    | none => .next s1
    | some r =>
      let r1 := if pkg = s.pkg then { r with units := r.units + units } else r.takeRemote units pkg
      .next (closeIfEmpty (if pkg = s.pkg then s1.putScope (scopeKey ctx scope) r1
        else (lowerProxy s1 ctx scope pkg units).putList (scopeKey ctx scope) r1) ctx scope)
  | _ => .next s

/-- The exponent of a grant from what the home holds, the borrower's unit included; none while it must wait (R162). -/
def grantExp (have_ : Nat) : Option Nat :=
  if 2 ^ 16 ≤ have_ then some 16 else if have_ < 2 then none else some (Nat.log2 have_)

/-- BORROW_REQUEST (R162): at the scope's home. -/
def execBorrowRequest (id : Nat) (s : State) : Out :=
  match Tab.find s.flights id with
  | some (.borrowReq sid ctx scope) =>
    match findScope s ctx scope with
    | none => .next s
    | some r => match grantExp (r.units + 1) with
      | none => .next s
      | some j =>
        .next (((s.delFlight id).putScope (scopeKey ctx scope) { r with units := r.units + 1 - 2 ^ j }).send (.borrowGrant sid j))
  | _ => .next s

/-- BORROW_GRANT (R162): the strand goes on with its split; a switched-out strand's wake is spilled (R389). -/
def execBorrowGrant (id : Nat) (s : State) : Out :=
  match Tab.find s.flights id with
  | some (.borrowGrant sid j) =>
    let s1 := s.delFlight id
    match Tab.find s.strands sid with
    | some k => .next (if k.out ∧ k.phase = .parked .borrow then spillTo s1 sid k (.grant j) else s1.modStrand sid (·.granted j))
    | none => .next s1
  | _ => .next s

/-- CANCEL_ARRIVAL (R164): a cancel reaches its scope's home. -/
def execCancelArrival (id : Nat) (s : State) : Out :=
  match Tab.find s.flights id with
  | some (.cancel ctx scope) => .next (cancelScope (s.delFlight id) ctx scope)
  | _ => .next s

/-- CHILD_LINK_ARRIVAL (R164): a child's link reaches its parent's home. -/
def execChildLinkArrival (id : Nat) (s : State) : Out :=
  match Tab.find s.flights id with
  | some (.childLink ctx parent child) => .next (linkChild (s.delFlight id) ctx parent child)
  | _ => .next s

end Sys2Proof.Machine
end

