-- ==== Sys2Proof/Machine/EvMem.lean ====
section
/-! DEFINITION. The device's own steps on memory: cross-die writes (R223), the die-to-die links (R225), row remaps (R364) and
scrubs (R365). -/

namespace Sys2Proof.Machine

/-! ### Cross-die writes (R223) -/

/-- A die may apply a stamped write: it has applied all that the stamp covers. -/
def mayApply (a : List Nat) (src : Nat) (vec : List Nat) : Bool :=
  vec.getD src 0 == (a.getD src 0 + 1) % 2 ^ 32 &&
    (List.range 8).all fun j => j == src || serialLe (vec.getD j 0) (a.getD j 0)

/-- The place of a stamped write is out of retention and free (R31, R364); an invalidation has none. -/
def writeReady (s : State) (w : MemWrite) : Bool := w.bytes.isEmpty || keyServes s w.key w.bytes.length

/-- CROSS_DIE_WRITE_APPLY (R223): the die's caches lose the line; its home performs the write. -/
def execCrossDieWriteApply (id : Nat) (s : State) : Out :=
  match Tab.find s.flights id with
  | some (.stamped src dst _ vec w) =>
    if mayApply (appliedOf s dst) src vec && writeReady s w then
      let s1 := (s.delFlight id).setSync { s.sync with
        applied := Tab.put s.sync.applied dst ((appliedOf s dst).set src (vec.getD src 0))
        vclock := Tab.put s.sync.vclock dst (clockMax (clockOf s dst) vec) }
      let s2 := dropRange s1 (fun c => c / 16 == dst) w.key w.span
      .next (if w.bytes.isEmpty then s2 else writeHome s2 w)
    else .next s
  | _ => .next s

/-! ### Die-to-die links (R225) -/

/-- A die-to-die link: link i joins dies i and i + 1 of the chain (log 75). -/
def linkOk (link : Nat) : Bool := decide (link < 7)

/-- D2D_FLIT_RETRY (R225): the retry is delivered, or fails once more; which is the turn's choice (log 16). -/
def execD2dFlitRetry (link : Nat) (s : State) : Out :=
  let n := Tab.get s.links.d2d link 0
  if !linkOk link || decide (64 ≤ n) then .next s
  else if s.pick % 2 = 0 then .next (s.setLinks { s.links with d2d := Tab.del s.links.d2d link })
  else .next (s.setLinks { s.links with d2d := Tab.put s.links.d2d link (n + 1) })

/-- PACKAGE_FAULT (R225): after 64 failed retries; the fault is recorded, and the package is held for reset. -/
def execPackageFault (link : Nat) (s : State) : Out :=
  if linkOk link ∧ 64 ≤ Tab.get s.links.d2d link 0 then
    .next (s.setSys { s.sys with packageFault := true, faultLink := some link })
  else .next s

/-! ### Memory repair (R364) -/

/-- An HBM byte of this package. -/
def ownHbm (s : State) (key : Nat) : Bool := decide (key < scratchBase) && key / 2 ^ 39 == s.pkg

/-- The first physical address of a row of a controller under a swizzle (Table 21-2). -/
def rowStart (pkg controller row swz : Nat) : Nat :=
  let g := 256 * 4 ^ (swz % 4)
  let stack := controller / 8
  let ch := controller % 8 * 16 + row / 2 ^ 21
  let r := row % 2 ^ 21
  pkg * 2 ^ 39 + (match swz / 4 % 4 with
    | 0 => (r * 1024 + (ch * 8 + stack)) * g
    | 1 => (r * 1024 + ((ch * 8 + stack) ^^^ (r % 1024))) * g
    | 2 => stack * 2 ^ 36 + (r * 128 + ch) * g
    | _ => stack * 2 ^ 36 + (r * 128 + (ch ^^^ (r % 128))) * g)

/-- The pages whose frame holds bytes of a row. -/
def pagesOfRow (s : State) (controller row : Nat) : List Nat :=
  (s.xlat.pages.filter fun p =>
    let l := p.2.leaf
    let a := rowStart s.pkg controller row (leafSwz l)
    leafValid l && leafState l != 0 && leafState l != 3 && decide (leafFrame l ≤ a ∧ a < leafFrame l + leafSize l)).map (·.1)

/-- A record for the boot journal waits for its commit (R443). -/
def stageJournal (s : State) (kind value : Nat) : State :=
  s.setSys { s.sys with staged := s.sys.staged ++ [(kind, value)] }

/-- The damaged units that satisfy a test. -/
def damagedWhere (s : State) (p : Nat → Bool) : List Nat := (s.prot.damage.map (·.1)).filter p

/-- A row is to be remapped: its corrected errors have reached 16, as an uncorrectable sector that is found counts too (R364). -/
def rowDue (s : State) (key : Nat) : Bool := decide (16 ≤ Tab.get s.prot.rowErrors key 0)

/-- ROW_REMAP (R364): the base die remaps a row that is due, to a spare row that no entry has; accesses to the row park from now
on. A full CAM refuses, and the memory manager is to retire the pages. -/
def execRowRemap (controller row spare : Nat) (s : State) : Out :=
  let key := controller * 2 ^ 25 + row
  let mine := s.prot.remap.filter fun p => p.1 / 2 ^ 25 == controller
  if 64 ≤ controller ∨ 2 ^ 25 ≤ row ∨ Tab.has s.prot.remap key ∨ rowDue s key = false ∨ (mine.any fun p => p.2 == spare) then .next s
  else if 1024 ≤ mine.length then
    let s1 := logFray s 7 0 0 0 (rowStart s.pkg controller row 0) 0
    .next (s1.setXlat { s1.xlat with retire := (pagesOfRow s controller row ++ s1.xlat.retire).dedup })
  else
    .next (s.setProt { s.prot with remap := Tab.put s.prot.remap key spare, remapping := key :: s.prot.remapping })

/-- One unit copied or scrubbed: corrected, or found, if it was not before, and written as poison with code 1 (R363, R365). -/
def repairUnit (s : State) (u : Nat) : State :=
  match Tab.find s.prot.damage u with
  | none => s
  | some .correctable => noteUnit 0 s u
  | some .uncorrectable => poisonUnit 1 (noteUnit 0 s u) u
  | some .reported => poisonUnit 1 s u

/-- ROW_REMAP_DONE (R364): the row is copied, and the entry goes to the boot journal as kind 1. -/
def execRowRemapDone (controller row : Nat) (s : State) : Out :=
  let key := controller * 2 ^ 25 + row
  if s.prot.remapping.contains key then
    let us := damagedWhere s fun u => ownHbm s u && rowKeyOf s u == key
    let s1 := us.foldl repairUnit s
    let s2 := s1.setProt { s1.prot with
      remapping := s1.prot.remapping.erase key, rowErrors := Tab.del s1.prot.rowErrors key }
    .next (stageJournal (logFray s2 6 0 0 0 (rowStart s.pkg controller row 0) 0) 1 (key * 2 ^ 25 + Tab.get s.prot.remap key 0))
  else .next s

/-- HBM_SCRUB_PASS (R365): with its end the counts of corrected errors that have not reached 16 begin again (R364). -/
def execHbmScrubPass (stack : Nat) (s : State) : Out :=
  let us := damagedWhere s fun u => ownHbm s u && stackOf u (swizzleOf s u) == stack
  let s1 := us.foldl repairUnit s
  .next (s1.setProt { s1.prot with
    rowErrors := s1.prot.rowErrors.filter fun p => p.1 / 2 ^ 28 != stack || decide (16 ≤ p.2) })

/-- The die whose SRAM holds a unit: a scratchpad of this package, or a typed buffer. -/
def sramDie (s : State) (u : Nat) : Option Nat :=
  if u < scratchBase ∨ storageBase ≤ u then none
  else if u < bufferBase then if keyPkg u = s.pkg then some (dieOf (keyCore u)) else none
  else some ((u - bufferBase) / 2 ^ 20 % 4096 / 128)

/-- The bank of a scratchpad word is out of retention: a scrub comes to the others when they are (R31). -/
def bankAwake (s : State) (u : Nat) : Bool :=
  decide (u < scratchBase ∨ bufferBase ≤ u) || banksReady s (physCore s (keyCtx u) (keyCore u)) (u % 2 ^ 16) 8

/-- The register words of a strand as a scrub finds them (R365). -/
def scrubStrand (s : State) (p : Nat × Strand) : State := noteWords s p.1 (p.2.errs.map (·.1))

/-- SRAM_SCRUB_PASS (R365): the words of the memories, of the register files and vector stores, and of the die's other arrays. -/
def execSramScrubPass (die : Nat) (s : State) : Out :=
  let s1 := (damagedWhere s fun u => sramDie s u == some die && bankAwake s u).foldl repairUnit s
  let s2 := (s.strands.filter fun p => dieOf p.2.core == die && !p.2.out).foldl scrubStrand s1
  .next (((s2.prot.arrays.map (·.1)).filter fun a => a / 2 ^ 98 == die).foldl (noteArray 0) s2)

end Sys2Proof.Machine
end

