-- ==== Sys2Proof/Machine/EvPage.lean ====
section
/-! DEFINITION. The device's own steps on pages: the walker (R373), the life of a page (R372), advice (R378), shootdowns (R376),
and the commands of the memory-manager core (R369). -/

namespace Sys2Proof.Machine

/-! ### Mailboxes (R440) -/

/-- The response of a firmware core to a command: status 0 done, 1 refused, 2 unknown code. -/
def respond (s : State) (core tag status value : Nat) : State :=
  raiseMsix (s.setSys { s.sys with mailboxes := Tab.put s.sys.mailboxes core ⟨tag % 2 ^ 16, status, value⟩ }) core

def refuse (s : State) (core tag : Nat) : State := respond s core tag 1 0

/-- The firmware cores run: booted, powered, and the package not held for reset (R225, R442, R448). -/
def firmwareUp (s : State) : Bool := decide (s.sys.boot = 9) && !s.sys.packageFault && !s.sys.powerFail

/-- A command of a mailbox: nothing takes it while the firmware does not run. -/
def command (s : State) (body : State) : Out := .next (if firmwareUp s then body else s)

/-- The commands submitted to a firmware core and not yet taken (R440). -/
def submitted (s : State) (core : Nat) : List FirmCommand := Tab.get s.sys.doorbells core []
def State.putSubmitted (s : State) (core : Nat) (q : List FirmCommand) : State :=
  let t := if q.isEmpty then Tab.del s.sys.doorbells core else Tab.put s.sys.doorbells core q
  s.setSys { s.sys with doorbells := t }

/-- A command met while its core works on another waits for its turn (R440). -/
def later (s : State) (core : Nat) (c : FirmCommand) : State := s.putSubmitted core (submitted s core ++ [c])

/-- A command that its core has taken and cannot carry out yet stays the next (R440). -/
def retake (s : State) (core : Nat) (c : FirmCommand) : State := s.putSubmitted core (c :: submitted s core)

/-- The memory-manager core still works on a MAP (R376): a core takes its commands one at a time (R440). -/
def managerBusy (s : State) : Bool := s.xlat.shootdowns.any fun x => x.tag.isSome

/-! ### Contents of a page on the move -/

/-- The byte range [from, from + n) cleared. -/
def clearRange (s : State) (a n : Nat) : State :=
  let inside := fun k : Nat => decide (a ≤ k ∧ k < a + n)
  dropRange ((s.setMem (s.mem.filter fun c => !inside c.1)).setProt { s.prot with
    poison := s.prot.poison.filter fun p => !inside p.1, damage := s.prot.damage.filter fun p => !inside p.1 }) (fun _ => true) a n

/-- The bytes and poison of [a, a + n) in [b, b + n), in place of what stands there (R372). -/
def putRange (s : State) (a b n : Nat) (from_ : State) : State :=
  let inside := fun k : Nat => decide (a ≤ k ∧ k < a + n)
  let s1 := clearRange s b n
  (s1.setMem ((from_.mem.filter fun c => inside c.1).foldl (fun m c => m.write (c.1 - a + b) c.2) s1.mem)).setProt { s1.prot with
    poison := (from_.prot.poison.filter fun p => inside p.1).foldl (fun t p => Tab.put t (p.1 - a + b) p.2) s1.prot.poison }

/-- A range copied: what its reads find of errors is corrected, or found and carried as poison with code 1, where it is read (R32, R348,
R364). -/
def copyRange (s : State) (a b n : Nat) : State :=
  let s1 := (damagedWhere s fun u => decide (a ≤ u ∧ u < a + n)).foldl repairUnit s
  putRange s1 a b n s1

/-- The same, after which nothing is left in the old place. -/
def moveRange (s : State) (a b n : Nat) : State :=
  let s1 := (damagedWhere s fun u => decide (a ≤ u ∧ u < a + n)).foldl repairUnit s
  putRange (clearRange s1 a n) a b n s1

/-- The channel offsets that a frame covers in its stacks' storage under a swizzle, first and after the last; and its stack where
the swizzle keeps it on one (Table 21-2). -/
def footprint (frame size swz : Nat) : Nat × Nat × Option Nat :=
  let g := 256 * 4 ^ (swz % 4)
  if swz / 8 % 2 = 0 then
    let a := frame % 2 ^ 39
    (a / (1024 * g) * g, ceilDiv (a + size) (1024 * g) * g, none)
  else
    let a := frame % 2 ^ 36
    (a / (128 * g) * g, ceilDiv (a + size) (128 * g) * g, some (field frame 36 3))

/-- Two frames of one package share no sector: frames of different swizzles lie in disjoint regions of the stacks' storage
(R368). -/
def apartStorage (f n swz f' n' swz' : Nat) : Bool :=
  if swz = swz' then true
  else
    let a := footprint f n swz
    let b := footprint f' n' swz'
    decide (a.2.1 ≤ b.1 ∨ b.2.1 ≤ a.1) || (a.2.2.isSome && b.2.2.isSome && a.2.2 != b.2.2)

/-- A frame that a page of a size and swizzle may take: aligned, in the package, which is one of the domain (R422), held by no page,
and apart from the frames of other swizzles (R368). -/
def frameOk (s : State) (frame size pkg swz : Nat) : Bool :=
  frame % size == 0 && frame / 2 ^ 39 == pkg && decide (pkg ≤ 4607) && s.xlat.pages.all fun p =>
    let n := leafSize p.2.leaf
    let apart := fun f : Nat => decide (f + n ≤ frame ∨ frame + size ≤ f) &&
      (f / 2 ^ 39 != pkg || apartStorage frame size swz f n (leafSwz p.2.leaf))
    (leafState p.2.leaf == 0 || leafState p.2.leaf == 3 || apart (leafFrame p.2.leaf)) &&
      (leafState p.2.leaf != 2 || apart p.2.target)

/-- Engine requests that are parked on a page ask for it when it comes into a state that only a repair ends (R310, R380). -/
def askParked (s : State) (key : Nat) : State :=
  if (parkedPages s).contains key then askRepair s (pageCtx key) key else s

/-! ### Objects in a page on the move (R192, R200, R202 to R205) -/

/-- A page has a frame (Table 21-3). -/
def framed (leaf : Nat) : Bool := leafValid leaf && leafState leaf != 0 && leafState leaf != 3

/-- Where the bytes of a page lie: in its frame, or in storage. -/
def pageBase (key leaf : Nat) : Nat := if framed leaf then leafFrame leaf else storageKey (pageCtx key) (pageVa key)

/-- Another page has the frame of a leaf too (R368). -/
def sharesFrame (s : State) (key leaf : Nat) : Bool :=
  framed leaf && s.xlat.pages.any fun p => p.1 != key && framed p.2.leaf &&
    decide (leafFrame p.2.leaf < leafFrame leaf + leafSize leaf ∧ leafFrame leaf < leafFrame p.2.leaf + leafSize p.2.leaf)

/-- The entries of a list of waiters for which a test holds, and the others. -/
def splitQueues (goes : Waiter → Bool) (a b n : Nat) (t : Tab (List Waiter)) : Tab (List Waiter) :=
  let inside := fun p : Nat × List Waiter => decide (a ≤ p.1 ∧ p.1 < a + n)
  (t.filter inside).foldl (fun t p =>
    let gone := p.2.filter goes
    let left := p.2.filter fun w => !goes w
    let t1 := if left.isEmpty then Tab.del t p.1 else Tab.put t p.1 left
    if gone.isEmpty then t1 else Tab.put t1 (p.1 - a + b) gone) t

/-- What a home holds of the barriers, locks and doublewords of a page whose bytes go to a new place goes with them: the waiters and
their queues, the holders and donations, the monitors, and what is on its way to them; of a frame that other pages have too, what is
of the page's own context (`all` false; log 88). -/
def moveObjects (s : State) (all : Bool) (ctx a b n leaf : Nat) : State :=
  let goes := fun (c k : Nat) => if (all || c == ctx) && decide (a ≤ k ∧ k < a + n) then k - a + b else k
  let mine := fun w : Waiter => all || w.sid / 32768 == ctx
  let held := fun (t : Tab Nat) => (t.filter fun p => goes (p.2 / 32768) p.1 != p.1)
  let s1 := s.setSync { s.sync with
    waiters := splitQueues mine a b n s.sync.waiters
    queues := splitQueues mine a b n s.sync.queues
    holders := (held s.sync.holders).foldl (fun t p => Tab.put (Tab.del t p.1) (p.1 - a + b) p.2) s.sync.holders
    donations := (s.sync.donations.filter fun p => goes p.2.1 p.1 != p.1).foldl
      (fun t p => Tab.put (Tab.del t p.1) (p.1 - a + b) p.2) s.sync.donations
    monitors := s.sync.monitors.map fun m =>
      let key := goes (m.sid / 32768) m.loc.key
      if key = m.loc.key then m
      else { m with loc := if framed leaf then pageLoc leaf (m.loc.key - a) else { m.loc with key := key, leaf := leaf } } }
  s1.setFlights (s1.flights.map fun p => (p.1, match p.2 with
    | .donation key c pr h => .donation (goes c key) c pr h
    | .lockUpdate c sc key f => .lockUpdate c sc (goes c key) f
    | .frayNotice x pkg e => .frayNotice { x with op := goes x.ctx x.op } pkg e
    | f => f))

/-- A page whose bytes have gone to the place that its new leaf names. -/
def setPage (s : State) (key : Nat) (old : Nat) (p : Page) : State :=
  let all := !sharesFrame s key old
  moveObjects (putPage s key p) all (pageCtx key) (pageBase key old) (pageBase key p.leaf) (leafSize old) p.leaf

/-- A page's bytes go to a new place; they stay in the old one for another page that has its frame. -/
def movePage (s : State) (key leaf b : Nat) : State :=
  if sharesFrame s key leaf then copyRange s (pageBase key leaf) b (leafSize leaf) else moveRange s (pageBase key leaf) b (leafSize leaf)

/-- The frame of a leaf lies apart from the frames of every other page of its package that has another swizzle (R368). -/
def swizzlesOk (s : State) (key leaf : Nat) : Bool :=
  !framed leaf || s.xlat.pages.all fun p =>
    let apart := fun f : Nat => f / 2 ^ 39 != leafFrame leaf / 2 ^ 39 ||
      apartStorage (leafFrame leaf) (leafSize leaf) (leafSwz leaf) f (leafSize p.2.leaf) (leafSwz p.2.leaf)
    p.1 == key || ((!framed p.2.leaf || apart (leafFrame p.2.leaf)) && (leafState p.2.leaf != 2 || apart p.2.target))

/-! ### Shootdown (R376) -/

/-- TLB entries and fetch buffers of a page invalidated. -/
def invalidate (s : State) (ctx va size : Nat) : State :=
  let s1 := s.setXlat { s.xlat with tlb := s.xlat.tlb.map fun p => (p.1, p.2.filter fun e =>
    !(e.ctx == ctx && decide (e.va < va + size ∧ va < e.va + leafSize e.leaf))) }
  s1.setStrands (s1.strands.map fun p => (p.1, if p.2.ctx = ctx then { p.2 with ibuf := [] } else p.2))

/-- An access that has passed the port with the old leaf has still to be performed, or parked (R376). -/
def oldHeld (s : State) (leaf : Nat) : Bool :=
  let inside := fun k : Nat => decide (leafFrame leaf ≤ k ∧ k < leafFrame leaf + leafSize leaf)
  s.flights.any fun p => match p.2 with
    | .stamped _ _ _ _ w => !w.bytes.isEmpty && inside w.key
    | .barrier _ _ l _ => inside l.key
    | .remoteLoad _ _ key _ _ _ => inside key
    | .vecLoad _ _ _ _ _ left _ _ => left.any fun e => inside e.2
    | .remoteStore _ _ w _ => inside w.key
    | .atomic a false => inside a.loc.key && !atomicParks s a
    | .claim c => c.stage != 8 && inside c.claim.loc.key && !atomicParks s c.claim
    | _ => false

/-- The change of a page's leaf that withdraws something: written, and invalidated everywhere; it completes later. -/
def shootdown (s : State) (key : Nat) (p : Page) (leaf : Nat) (tag : Option Nat) : State :=
  let s1 := invalidate (putPage s key { p with leaf := leaf }) (pageCtx key) (pageVa key) (leafSize p.leaf)
  s1.setXlat { s1.xlat with shootdowns := s1.xlat.shootdowns ++ [⟨pageCtx key, pageVa key, p.leaf, tag⟩] }

/-- A page's shootdown has not completed. -/
def shooting (s : State) (ctx va : Nat) : Bool := s.xlat.shootdowns.any fun x => x.ctx == ctx && x.va == va

/-- A leaf that takes something away from another (R376). -/
def withdraws (old new : Nat) : Bool :=
  let usable := fun l => leafState l == 1 || leafState l == 5
  let framed := fun l => usable l || leafState l == 4
  !leafValid new || (usable old && !usable new) || leafSize old != leafSize new ||
    (framed old && (leafFrame old != leafFrame new || leafSwz old != leafSwz new)) ||
    (List.range 4).any fun i => bitOf old (56 + i) && !bitOf new (56 + i)

/-- A leaf that differs from another in rights taken away, in its swizzle, or in being unmapped: the changes that are no event of
Table 21-5 (R372, R376). -/
def narrows (old new : Nat) : Bool :=
  withdraws old new && (!leafValid new ||
    (leafState old == leafState new && leafFrame old == leafFrame new && leafSize old == leafSize new &&
      bitOf old 55 == bitOf new 55 && bitOf old 52 == bitOf new 52 && (List.range 4).all fun i => bitOf old (56 + i) || !bitOf new (56 + i)))

/-- A leaf entry that holds no reserved value (Table 21-1); a valid one names a package of the domain (R422), and the bits below its
frame's size are zero. -/
def leafWellFormed (l va : Nat) : Bool :=
  decide (l < 2 ^ 64 ∧ leafState l ≤ 5) && field l 53 2 != 3 && field l 36 12 == 0 && (!leafValid l ||
    (decide (leafFrame l / 2 ^ 39 ≤ 4607) && va % leafSize l == 0 &&
      (leafState l == 0 || leafState l == 3 || leafFrame l % leafSize l == 0)))

/-- Every strand that is faulted-out on a page is sent a wake. -/
def wakeFaulted (s : State) (key : Nat) : State :=
  (s.strands.filter fun p => p.2.phase == .faultedOut key).foldl (fun s p => s.send (.repairWake p.1 p.2.gen)) s

/-- Every strand that is faulted-out on a page that is no more is sent a wake. -/
def wakeUnmapped (s : State) : State :=
  (s.strands.filter fun p => match p.2.phase with
    | .faultedOut q => ((Tab.find s.xlat.pages q).map fun x => leafValid x.leaf) != some true
    | _ => false).foldl (fun s p => s.send (.repairWake p.1 p.2.gen)) s

/-- A page whose leaf the memory manager has written: what waited for its repair goes on, or asks for it anew (R373, R374). -/
def settlePage (s : State) (key : Nat) : State :=
  match Tab.find s.xlat.pages key with
  | some p =>
    if leafValid p.leaf ∧ (leafState p.leaf = 0 ∨ leafState p.leaf = 3) then askParked s key
    else wakeFaulted (s.setXlat { s.xlat with repairs := s.xlat.repairs.erase key }) key
  | none => s

/-- SHOOTDOWN (R376): the memory-manager core writes a leaf that withdraws something; one that clears ac alone needs none
(Table 21-1). -/
def execShootdown (ctx va leaf : Nat) (s : State) : Out :=
  match findPage s ctx va with
  | some (key, p) =>
    if bitOf p.leaf 52 ∧ leaf + 2 ^ 52 = p.leaf then .next (putPage s key { p with leaf := leaf })
    else if narrows p.leaf leaf && leafWellFormed leaf (pageVa key) && leafState p.leaf != 2 && !shooting s ctx (pageVa key) &&
        swizzlesOk s key leaf then
      let s1 := shootdown s key p leaf none
      .next (if leafValid leaf then s1 else settlePage s1 key)
    else .next s
  | none => .next s

/-- The page of an unmapped leaf is gone. -/
def dropUnmapped (s : State) : State :=
  s.setXlat { s.xlat with pages := s.xlat.pages.filter fun p => leafValid p.2.leaf || shooting s (pageCtx p.1) (pageVa p.1) }

/-- SHOOTDOWN_COMPLETE (R376 items 3 and 4). -/
def execShootdownComplete (ctx va : Nat) (s : State) : Out :=
  match s.xlat.shootdowns.find? fun x => x.ctx == ctx && x.va == va with
  | none => .next s
  | some x =>
    if oldHeld s x.old then .next s
    else
      let s1 := dropUnmapped (s.setXlat { s.xlat with shootdowns := s.xlat.shootdowns.erase x })
      -- a MAP responds when the last of its shootdowns is complete
      .next (match x.tag with
        | some t => if managerBusy s1 then s1 else respond s1 3 t 0 0
        | none => s1)

/-! ### The walker (R373, R374) -/

/-- PAGE_WALK (R373, R374): the access is reissued, the strand is faulted-out, or it observes a fray with code 2. -/
def execPageWalk (sid : Nat) (s : State) : Out :=
  match Tab.find s.strands sid with
  | none => .next s
  | some k => match k.stall with
    | .walk va need =>
      if k.out = true ∨ k.phase ≠ .running then .next s
      else
        let bad := .next (observeFray (abandonWaita (s.putStrand sid { k with stall := .none }) sid) sid 2)
        match findPage s k.ctx va with
        | none => bad
        | some (key, p) =>
          if !leafRights p.leaf need then bad
          else if leafState p.leaf = 1 ∨ leafState p.leaf = 4 ∨ leafState p.leaf = 5 then
            .next (fillFrom (s.putStrand sid (k.wait .none)) (clusterOf k.core) key p)
          else
            .next (askRepair (s.putStrand sid { k.wait .none with phase := .faultedOut key, again := false }) k.ctx key)
    | _ => .next s

/-! ### Repair (R372, R373, R375) -/

/-- PAGE_FAULT_REQUEST (R373): a repair begins, or the page is found usable. -/
def execPageFaultRequest (id : Nat) (s : State) : Out :=
  match Tab.find s.flights id with
  | some (.faultReq _ key) =>
    let s1 := s.delFlight id
    match Tab.find s.xlat.pages key with
    | none => .next (wakeFaulted s1 key)
    | some p =>
      if leafState p.leaf = 0 ∨ leafState p.leaf = 3 then
        .next (if s1.xlat.repairs.contains key then s1 else s1.setXlat { s1.xlat with repairs := key :: s1.xlat.repairs })
      else if leafState p.leaf = 2 then .next s1
      else .next (wakeFaulted s1 key)
  | _ => .next s

/-- A page not present or spilled made resident in a frame: zero-filled, or with its contents back from storage (R372). -/
def makeResident (s : State) (key frame : Nat) (p : Page) : State :=
  let n := leafSize p.leaf
  let s1 := if leafState p.leaf = 3 then movePage s key p.leaf frame else clearRange s frame n
  wakeFaulted (setPage (s1.setXlat { s1.xlat with repairs := s1.xlat.repairs.erase key }) key p.leaf
    { p with leaf := withFrame (withState p.leaf 1) frame }) key

/-- A spilled page that storage cannot return: a fresh frame whose every sector holds poison with code 1 (R372). -/
def makePoisoned (s : State) (key frame : Nat) (p : Page) : State :=
  let n := leafSize p.leaf
  let s1 := clearRange (clearRange s frame n) (storageKey (pageCtx key) (pageVa key)) n
  let s2 := (unitsOf frame n).foldl (poisonUnit 1) s1
  wakeFaulted (setPage (s2.setXlat { s2.xlat with repairs := s2.xlat.repairs.erase key }) key p.leaf
    { p with leaf := withFrame (withState p.leaf 4) frame }) key

/-- An absent page is repaired: whether storage can return a spilled one is the turn's choice (R375, log 16). -/
def repairPage (s : State) (key frame : Nat) (p : Page) : State :=
  if leafState p.leaf = 3 ∧ s.pick % 2 = 1 then makePoisoned s key frame p else makeResident s key frame p

/-- PAGE_REPAIR_DONE (R373, R375). -/
def execPageRepairDone (ctx va frame : Nat) (s : State) : Out :=
  match findPage s ctx va with
  | some (key, p) =>
    if s.xlat.repairs.contains key && frameOk s frame (leafSize p.leaf) (leafPkg p.leaf) (leafSwz p.leaf) &&
        (leafState p.leaf == 0 || leafState p.leaf == 3) then
      .next (repairPage s key frame p)
    else .next s
  | none => .next s

/-- A faulted-out strand reissues its access. -/
def repairWakes (s : State) (sid gen : Nat) : State := s.modStrand sid fun k => match k.phase with
  | .faultedOut _ => if k.gen = gen then { k with phase := .running } else k
  | _ => k

/-- REPAIR_WAKE (R373): the strand reissues; a switched-out strand's wake is spilled (R389). -/
def execRepairWake (id : Nat) (s : State) : Out :=
  match Tab.find s.flights id with
  | some (.repairWake sid gen) =>
    let s1 := s.delFlight id
    match Tab.find s.strands sid with
    | some k => .next (if k.out ∧ k.gen = gen then spillTo s1 sid k (.repair gen) else repairWakes s1 sid gen)
    | none => .next s1
  | _ => .next s

/-! ### Migration and spilling (R372) -/

/-- PAGE_MIGRATION_START (R372): the leaf goes to migrating by a shootdown; the former state is held beside it. A pinned page moves
only when its frame is retired. -/
def execPageMigrationStart (ctx va frame : Nat) (s : State) : Out :=
  match findPage s ctx va with
  | some (key, p) =>
    if (leafState p.leaf == 1 || (leafState p.leaf == 5 && s.xlat.retire.contains key)) &&
        frameOk s frame (leafSize p.leaf) (frame / 2 ^ 39) (leafSwz p.leaf) &&
        !shooting s ctx (pageVa key) then
      .next (shootdown s key { p with former := leafState p.leaf, target := frame } (withState p.leaf 2) none)
    else .next s
  | none => .next s

/-- PAGE_MIGRATION_COPY_END (R372): after the shootdown, every byte stands in the new frame. -/
def execPageMigrationCopyEnd (ctx va : Nat) (s : State) : Out :=
  match findPage s ctx va with
  | some (key, p) =>
    if leafState p.leaf = 2 ∧ shooting s ctx (pageVa key) = false then
      let s1 := movePage (s.setXlat { s.xlat with retire := s.xlat.retire.erase key }) key p.leaf p.target
      .next (wakeFaulted (setPage s1 key p.leaf { p with leaf := withFrame (withState p.leaf p.former) p.target }) key)
    else .next s
  | none => .next s

/-- A resident cold page of the package is spilled before one that is not (Table 21-6). -/
def spillsFirst (s : State) (p : Page) : Bool :=
  p.cold || s.xlat.pages.all fun q => !(q.2.cold && leafState q.2.leaf == 1)

/-- PAGE_SPILL (R372): once no access holds the old leaf. -/
def execPageSpill (ctx va : Nat) (s : State) : Out :=
  match findPage s ctx va with
  | some (key, p) =>
    if leafState p.leaf = 1 ∧ oldHeld s p.leaf = false ∧ spillsFirst s p ∧ shooting s ctx (pageVa key) = false then
      let s1 := movePage s key p.leaf (storageKey ctx (pageVa key))
      let leaf := withFrame (withState p.leaf 3) (leafPkg p.leaf * 2 ^ 39)
      .next (askParked (invalidate (setPage s1 key p.leaf { p with leaf := leaf, cold := false }) ctx (pageVa key) (leafSize p.leaf)) key)
    else .next s
  | none => .next s

/-! ### Advice (R378) -/

/-- A page's contents are lost (R372). -/
def discardPage (s : State) (key : Nat) (p : Page) : State :=
  let n := leafSize p.leaf
  let s1 := if sharesFrame s key p.leaf then s else clearRange s (pageBase key p.leaf) n
  let leaf := withFrame (withState p.leaf 0) (leafPkg p.leaf * 2 ^ 39)
  askParked (invalidate (setPage s1 key p.leaf { p with leaf := leaf, cold := false }) (pageCtx key) (pageVa key) n) key

/-- One advice event on a page (Table 21-6): the state after it; none while it must wait. -/
def adviseOn (s : State) (key : Nat) (p : Page) (code frame : Nat) : Option State :=
  let st := leafState p.leaf
  let absent := st == 0 || st == 3
  let ok := frameOk s frame (leafSize p.leaf) (leafPkg p.leaf) (leafSwz p.leaf)
  let set := fun n : Nat => putPage s key { p with leaf := withState p.leaf n }
  match code with
  | 0 => if !absent then (if st = 2 then none else some s) else if ok then some (repairPage s key frame p) else none
  | 1 =>
    if st = 2 then none
    else if !bitOf p.leaf 58 || st = 0 || st = 5 then some s
    else if st ≠ 3 ∧ oldHeld s p.leaf then none
    else some (discardPage s key p)
  | 2 => some (if st = 1 then putPage s key { p with cold := true } else s)
  | 3 =>
    if !ctxRight s (pageCtx key) 0 then some s
    else if st = 1 then some (set 5)
    else if st = 2 then some (putPage s key { p with former := 5 })
    else if absent then
      if ok then
        let s1 := repairPage s key frame p
        some (match Tab.find s1.xlat.pages key with
          | some q => if leafState q.leaf = 1 then putPage s1 key { q with leaf := withState q.leaf 5 } else s1
          | none => s1)
      else none
    else some s
  | 4 =>
    if st = 5 then some (set 1)
    else if st = 2 then some (putPage s key { p with former := 1 })
    else some s
  | _ => some (if st = 4 then invalidate (set 1) (pageCtx key) (pageVa key) (leafSize p.leaf) else s)

/-- PAGE_ADVICE_EVENT (R378): a page that is no longer mapped is passed over. -/
def execPageAdviceEvent (id frame : Nat) (s : State) : Out :=
  match Tab.find s.flights id with
  | some (.advice _ key code) =>
    match Tab.find s.xlat.pages key with
    | none => .next (s.delFlight id)
    | some p =>
      if !leafValid p.leaf then .next (s.delFlight id)
      else match adviseOn (s.delFlight id) key p code frame with
        | some s1 => .next s1
        | none => .next s
  | _ => .next s

/-! ### Commands of the memory-manager core (R369, Table 27-1) -/

/-- The pages of a context that overlap a range. -/
def overlapping (s : State) (ctx va n : Nat) : List (Nat × Page) :=
  s.xlat.pages.filter fun p => pageCtx p.1 == ctx && leafValid p.2.leaf &&
    decide (pageVa p.1 < va + n ∧ va < pageVa p.1 + leafSize p.2.leaf)

/-- The change of a mapped page that a leaf of the same extent and state makes: rights, the frame, the swizzle and the marks (R376). -/
def sameState (old new : Nat) : Bool := leafState old == leafState new && leafSize old == leafSize new

/-- A mapped page gets a leaf of its own state and extent; its shootdown, if it needs one, answers `tag`. -/
def rewriteLeaf (s : State) (tag key leaf : Nat) (p : Page) : State :=
  let p1 := if leafFrame p.leaf = leafFrame leaf then p else ⟨p.leaf, if leafState leaf = 5 then 5 else 1, false, leafFrame leaf⟩
  if withdraws p.leaf leaf then settlePage (shootdown s key p1 leaf (some tag)) key
  else settlePage (putPage s key { p1 with leaf := leaf }) key

/-- MAP (R369): a change that withdraws something is made by shootdowns, which the response awaits (R376). A page that migrates is
not changed before its copy ends. A leaf of another state or extent is no event of a page (R372): the pages that it covers are unmapped
first, and it maps a new page when that is complete (log 29). -/
def execMap (tag ctx va leaf : Nat) (s : State) : Out :=
  command s <|
    let key := pageKey ctx va
    let c : FirmCommand := ⟨0x30, tag, [ctx, va, leaf]⟩
    if managerBusy s then retake s 3 c
    else if Tab.has s.ctxs ctx = false ∨ 2 ^ 61 ≤ va ∨ leafWellFormed leaf va = false ∨ swizzlesOk s key leaf = false then
      refuse s 3 tag
    else
      let olds := overlapping s ctx va (leafSize leaf)
      if olds.any fun p => shooting s ctx (pageVa p.1) || leafState p.2.leaf == 2 then retake s 3 c
      else if leafValid leaf = false then
        let s1 := olds.foldl (fun s p => wakeFaulted (shootdown s p.1 p.2 0 (some tag)) p.1) s
        if managerBusy s1 then s1 else respond (wakeUnmapped s1) 3 tag 0 0
      else match olds.find? fun p => p.1 == key && sameState p.2.leaf leaf with
        | some (_, p) =>
          let s1 := rewriteLeaf s tag key leaf p
          if managerBusy s1 then s1 else respond s1 3 tag 0 0
        | none =>
          if olds.isEmpty then
            respond (wakeUnmapped (settlePage (putPage s key ⟨leaf, if leafState leaf = 5 then 5 else 1, false, leafFrame leaf⟩) key)) 3 tag 0 0
          else retake (olds.foldl (fun s p => shootdown s p.1 p.2 0 none) s) 3 c

/-- LEAF (R369): the leaf entry of a virtual page, 0 where none is valid. -/
def execLeaf (tag ctx va : Nat) (s : State) : Out :=
  command s <|
    if managerBusy s then retake s 3 ⟨0x31, tag, [ctx, va]⟩
    else if Tab.has s.ctxs ctx = false then refuse s 3 tag
    else match findPage s ctx va with
      | some (_, p) => respond s 3 tag 0 p.leaf
      | none => respond s 3 tag 0 0

end Sys2Proof.Machine
end

