-- ==== Sys2Proof/Machine/EvContext.lean ====
section
/-! DEFINITION. The device's own steps on contexts: scheduling, pre-emption and resumption (R383 to R390), donation (R203), and
the commands of the context-scheduling core (Table 22-5) and of the boot core (R444). -/

namespace Sys2Proof.Machine

def imageKey (ctx home : Nat) : Nat := ctx * 4096 + home

/-! ### Work and priority (R384) -/

/-- The distance of a thief from a victim (R143): 0 for the core itself. -/
def distance (a b : Nat) : Nat :=
  if a = b then 0 else if quadOf a = quadOf b then 1 else if clusterOf a = clusterOf b then 2
  else if dieOf a = dieOf b then 3 else 4

/-- What a context's spill queues hold for some strands, in order of arrival. -/
def spilledFor (s : State) (ctx : Nat) (sids : List Nat) : List (Nat × Spilled) :=
  (s.groups.spill.filter fun p => p.1 / 8 == ctx).flatMap fun p => p.2.filter fun x => sids.contains x.1

/-- The core that holds a context's slots, or would hold those of its image, and the strands in them. -/
def slotsAt (s : State) (ctx core : Nat) : Tab Nat := match Tab.find s.cores core with
  | some c => if c.ctx = ctx ∧ c.mode ≠ .idle then c.slots else ((Tab.find s.images (imageKey ctx core)).map (·.slots)).getD []
  | none => ((Tab.find s.images (imageKey ctx core)).map (·.slots)).getD []

/-- A record is placeable at a core (R142): it is within its kernel's reach, and the context has there a free slot, an entry, and the
vector registers, with no strand of another kernel. -/
def placeableAt (s : State) (ctx core victim : Nat) (r : Spawn) : Bool :=
  let slots := slotsAt s ctx core
  decide (distance core victim ≤ ((Tab.find s.kernels (ctx * 2 ^ 32 + r.kernel)).map (·.steal)).getD 0) &&
    ((List.range 8).any fun i => !Tab.has slots i && (takeEntry s ctx core i).isSome) &&
    decide (ownedVregs s ctx core + declaredVregs s ctx r.kernel ≤ 64) && !otherKernel s ctx core r.kernel

/-- A spilled item ends the park of its strand, or its fault (R384, R389). -/
def endsPark (k : Strand) : Spilled → Bool
  | .msg m => (match k.phase with
    | .parked (.reg r) => r % 16 == m.reg % 16 && receivable k m.reg
    | _ => false)
  | .mark => k.st.sd == 0 && (match k.phase with
    | .parked (.reg _) => true
    | .parked (.bwait _) => true
    | .parked (.lock _) => true
    | .parked (.waita _) => true
    | _ => false)
  | .bwait gen d _ _ => k.gen == gen && k.phase == .parked (.bwait d)
  | .waita => (match k.phase with
    | .parked (.waita _) => true
    | _ => false)
  | .repair gen => k.gen == gen && (match k.phase with
    | .faultedOut _ => true
    | _ => false)
  | .space => k.phase == .parked .space
  | .index => k.phase == .parked .index
  | .grant _ => k.phase == .parked .borrow
  | .closed _ => true

/-- A strand counts as work on its core (R384): it is ready (R134), parked with its condition met, or, in an image, retirable or waiting
only for operations of the image's saved queue, which its resumption alone performs (DESIGN CHOICE, log 82). -/
def strandWork (s : State) (ctx sid : Nat) (queue : List MvuOp) : Bool := match Tab.find s.strands sid with
  | none => false
  | some k =>
    (k.phase == .running && k.stall == .none) || ((spilledFor s ctx [sid]).any fun x => endsPark k x.2) ||
      (k.out && ((k.phase == .cancelling && retirable s sid k) ||
        ((k.phase == .cancelling || k.phase == .running) && queue.any fun o => o.sid == sid)))

/-- A context has work on a core (R384): a strand there is ready, or parked with its condition met, or arriving, or a record is
placeable. -/
def hasWork (s : State) (ctx core : Nat) : Bool :=
  let queue := ((Tab.find s.images (imageKey ctx core)).map (·.dispatch)).getD []
  let arriving := match Tab.find s.cores core with
    | some c => c.arrivals.any fun sid => sid / 32768 == ctx
    | none => false
  ((slotsAt s ctx core).any fun p => strandWork s ctx p.2 queue) || arriving ||
    s.groups.spools.any fun p => p.1 / 4096 == ctx && p.2.any (placeableAt s ctx core (p.1 % 4096))

/-- The priority of a context, raised by the donations that stand to its strands (R203). -/
def effectivePrio (s : State) (ctx : Nat) : Nat :=
  s.sync.donations.foldl (fun p d => if d.2.1 = ctx then Nat.max p d.2.2 else p) (priorityOf s ctx)

/-- A context that the scheduler may run: resident, with no SUSPEND in progress, on a core of its mask. -/
def eligible (s : State) (ctx core : Nat) : Bool := match Tab.find s.ctxs ctx with
  | some c => c.state == .resident && c.suspending.isNone && c.tearing.isNone && bitOf c.quads (quadOf core)
  | none => false

/-- The contexts of equal priority that have had their quantum on a core since the others had theirs (R384). -/
def spentAt (s : State) (core : Nat) : List Nat := ((Tab.find s.cores core).map (·.spent)).getD []

/-- A donation stands to a strand of a context that is switched out from a core: its priority (R203). -/
def donatedOut (s : State) (ctx core : Nat) : Option Nat :=
  (s.sync.donations.find? fun d => d.2.1 == ctx && (match (Tab.find s.sync.holders d.1).bind (Tab.find s.strands) with
    | some k => k.out && k.ctx == ctx && k.core == core
    | none => false)).map (·.2.2)

/-- A donation stands to a strand of a core that runs: it keeps running (R203). -/
def donatedHere (s : State) (c : Core) : Bool :=
  s.sync.donations.any fun d => match Tab.find s.sync.holders d.1 with
    | some sid => c.slots.any fun p => p.2 == sid
    | none => false

/-- A context comes before another on a core (R384): it has work there and a higher priority, or an equal one and the turn; or a
donation of at least that priority stands to it there (R203). -/
def comesBefore (s : State) (core a b : Nat) : Bool :=
  (match donatedOut s a core with
    | some p => decide (effectivePrio s b ≤ p) && (donatedOut s b core).isNone
    | none => false) ||
  (hasWork s a core && (decide (effectivePrio s b < effectivePrio s a) ||
    (effectivePrio s b == effectivePrio s a && (donatedOut s b core).isNone && (spentAt s core).contains b &&
      !(spentAt s core).contains a)))

/-- No context comes before one on a core (R384). -/
def highestThere (s : State) (ctx core : Nat) : Bool :=
  s.ctxs.all fun p => p.1 == ctx || !(eligible s p.1 core && comesBefore s core p.1 ctx)

/-- The record of spent quanta once a context takes the core: it begins anew when all have had theirs. -/
def takesTurn (spent : List Nat) (ctx : Nat) : List Nat := if spent.contains ctx then [] else spent

/-- The scheduler pre-empts a running core (R384): another context with work there has higher priority, or the running one has none
left; or a donation stands to another, of no lower priority, while none keeps this one running (R203). -/
def preemptDue (s : State) (core : Nat) : Bool := match runningCore s core with
  | none => false
  | some c => s.ctxs.any fun p => p.1 != c.ctx && eligible s p.1 core &&
      ((hasWork s p.1 core && (decide (effectivePrio s c.ctx < effectivePrio s p.1) || !hasWork s c.ctx core)) ||
        (match donatedOut s p.1 core with
          | some n => decide (effectivePrio s c.ctx ≤ n) && !donatedHere s c
          | none => false))

def coreFree (s : State) (core : Nat) : Bool := decide (core < 4096) && (match Tab.find s.cores core with
  | some c => c.mode == .idle
  | none => true)

/-! ### Giving and resuming (R383, R388, R390) -/

/-- One spilled item is applied to its strand (R389). -/
def applySpilled (s : State) (sid : Nat) : Spilled → State
  | .msg m => messageTo s sid m
  | .mark => markStrand s sid
  | .bwait gen d result vec => bwaitReply s sid gen d result vec
  | .waita => s.modStrand sid (·.leaveWaita)
  | .repair gen => repairWakes s sid gen
  | .space => s.modStrand sid fun k => if k.phase = .parked .space then { k with phase := .running } else k
  | .index => s.modStrand sid fun k => if k.phase = .parked .index then { k with phase := .running } else k
  | .grant j => s.modStrand sid (·.granted j)
  | .closed r => match Tab.find s.strands sid with
    | some k => match k.phase with
      | .parked (.close d) => finishClose s k.ctx r sid d
      | _ => s
    | none => s

/-- An item of the spill queues leaves them and is applied, unless one before it has discarded it. -/
def applyNext (ctx : Nat) (s : State) (x : Nat × Spilled) : State :=
  if s.groups.spill.any fun p => p.1 / 8 == ctx && p.2.contains x then
    applySpilled (s.setGroups { s.groups with spill := s.groups.spill.map fun p =>
      (p.1, if p.1 / 8 = ctx then p.2.erase x else p.2) }) x.1 x.2
  else s

/-- Strands are switched in: the spill queues are redelivered in order (R129, R389). -/
def redeliver (s : State) (ctx : Nat) (sids : List Nat) : State :=
  wakeSpace ((spilledFor s ctx sids).foldl (applyNext ctx) s)

/-- Arrivals that waited for a context at a core count as migrating again (R138). -/
def readmit (s : State) (core ctx : Nat) : State := match Tab.find s.cores core with
  | some c =>
    let sids := c.arrivals.filter fun sid => sid / 32768 == ctx
    redeliver (sids.foldl (fun s sid => s.modStrand sid fun k => { k with out := false }) s) ctx sids
  | none => s

/-- IMAGE_GIVEN (R383): the scheduler gives a core of a resident context's mask a new image. -/
def execImageGiven (ctx core : Nat) (s : State) : Out :=
  if eligible s ctx core && coreFree s core && !Tab.has s.images (imageKey ctx core) && hasWork s ctx core &&
      highestThere s ctx core then
    let c := Tab.get s.cores core Core.blank
    .next (readmit (takeRegions (s.putCore core { Core.blank with
      ctx := ctx, mode := .running, ptr := c.ptr, last := c.last, steal := c.steal, arrivals := c.arrivals
      spent := takesTurn c.spent ctx, began := s.cycle }) core
      (imageKey ctx core)) core ctx)
  else .next s

/-- A core's share of its quad's slot table: the positions that name it (R387). -/
def shareOf (table : List Nat) (core : Nat) : List Nat := table.map fun x => if x = core % 4 then x else 8

/-- The tile table as a core's share (R387): the quad's, where it is the one that the core's kernel loaded; where another core's load
stands, the core has no share of it (R288, R403; DESIGN CHOICE, log 81). -/
def tileShare (s : State) (c : Core) (q : Quad) : Option (Tab Nat) :=
  match c.kernel.bind fun n => Tab.find s.kernels (c.ctx * 2 ^ 32 + n) with
  | some x => if q.tiles = x.tiles then some q.tiles else none
  | none => none

/-- A quad's tables when a share comes back (R388 item 1): its positions name their core again, and no others do; its tile table
stands for the quad, as with every load (R403). -/
def Quad.giveBack (q : Quad) (im : Image) (core : Nat) : Quad := { q with
  slotTable := q.slotTable.zipWith (fun now was => if was = core % 4 then was else if now = core % 4 then 8 else now) im.slotTable
  tiles := im.tiles.getD q.tiles }

/-- An image resumes on a core (R388): state, spill queue, dispatch queue, slots. -/
def resumeImage (s : State) (ctx home core : Nat) (im : Image) : State :=
  let c := Tab.get s.cores core Core.blank
  let q := quadAt s (quadOf core)
  let s1 := (s.putCore core { c with
    ctx := ctx, mode := .running, slots := im.slots, kernel := im.kernel, launch := im.launch, bounds := im.bounds
    dispatch := im.dispatch, able := [], oldSegs := none, spent := takesTurn c.spent ctx, began := s.cycle }).putQuad (quadOf core) (q.giveBack im home)
  let left : Image := { im with slots := [], dispatch := [], runsOn := some core }
  let images := if core = home then Tab.del s1.images (imageKey ctx home) else Tab.put s1.images (imageKey ctx home) left
  let s2 := { s1 with images := images }
  let sids := im.slots.map (·.2)
  let s3 := sids.foldl (fun s sid => s.modStrand sid fun k => { k with out := false, eager := 0, core := core }) s2
  readmit (redeliver (takeRegions s3 core (imageKey ctx home)) ctx sids) core ctx

/-- A donation stands to a strand of an image (R203). -/
def donatedTo (s : State) (im : Image) : Bool :=
  s.sync.donations.any fun d => match Tab.find s.sync.holders d.1 with
    | some sid => im.slots.any fun p => p.2 == sid
    | none => false

/-- IMAGE_RESUME (R388): on the core from which it was saved, or under donation on another of the quad (R390). -/
def execImageResume (ctx home core : Nat) (s : State) : Out :=
  match Tab.find s.images (imageKey ctx home) with
  | some im =>
    let donated := donatedTo s im
    if im.runsOn.isNone && eligible s ctx core && coreFree s core && (hasWork s ctx home || donated) && highestThere s ctx core &&
        (core == home || (donated && quadOf core == quadOf home)) then
      .next (resumeImage s ctx home core im)
    else .next s
  | none => .next s

/-- DONATION_EVENT (R203): the scheduling core runs the holder's context on its core or a free one of the quad; for a
suspended context the donation waits (R396). -/
def execDonationEvent (id core : Nat) (s : State) : Out :=
  match Tab.find s.flights id with
  | some (.donation key ctx _ holder) =>
    if Tab.find s.sync.holders key ≠ some holder ∨ Tab.has s.sync.donations key = false then .next (s.delFlight id)
    else match Tab.find s.strands holder with
      | none => .next (s.delFlight id)
      | some k =>
        if k.out = false then .next (s.delFlight id)
        else match Tab.find s.images (imageKey ctx k.core) with
          | some im =>
            if eligible s ctx core && coreFree s core && im.runsOn.isNone && quadOf core == quadOf k.core then
              .next (resumeImage (s.delFlight id) ctx k.core core im)
            else .next s
          | none => .next s
  | _ => .next s

/-! ### Pre-emption (R385, R289) -/

/-- An operation whose slot is stalled on a check: it has not issued (R289). -/
def unissued (o : MvuOp) : Bool := o.waits && o.kind != .mrd

/-- A slot stalled on a check is stopped before issue. -/
def unissueSlot (s : State) (sid : Nat) : State := s.modStrand sid fun k => match k.stall with
  | .mvu => k.wait .none
  | _ => k

/-- A mesh interrupt reaches a core: it stops issue, and operations under a check are abandoned (R385, R289). -/
def meshInterrupt (s : State) (core : Nat) : State :=
  match runningCore s core with
  | none => s
  | some c =>
    let q := quadAt s (quadOf core)
    let busy := match q.busy with
      | some (x, o) => if x = core ∧ unissued o then [o] else []
      | none => []
    let ops := c.dispatch.filter unissued ++ busy
    let s1 := s.putCore core { c with mode := .preempting, dispatch := c.dispatch.filter fun o => !unissued o }
    let s2 := if busy.isEmpty then s1 else s1.putQuad (quadOf core) { q with busy := none }
    ops.foldl (fun s o => unissueSlot s o.sid) s2

/-- MESH_INTERRUPT (R384, R385): the scheduler sends it to a core that another context is to have. -/
def execMeshInterrupt (core : Nat) (s : State) : Out := .next (if preemptDue s core then meshInterrupt s core else s)

/-- The state of a slot as its image keeps it: an unresolved walk, a retried request and a hint run that has no instruction yet
issue again (R83, R385). -/
def Strand.switchOut (k : Strand) (home : Nat) : Strand :=
  let k1 := match k.stall with
    | .walk _ _ => k.wait .none
    | .request => k.wait .none
    | _ => if k.run.isSome then k.rewind else k
  { k1 with out := true, core := home, ibuf := [] }

/-- A SUSPEND that waits ends when no core holds a running image (R394). -/
def finishSuspend (s : State) (ctx : Nat) : State :=
  match Tab.find s.ctxs ctx with
  | some c => match c.suspending with
    | some tag =>
      if s.cores.any fun p => p.2.ctx == ctx && p.2.mode != .idle then s
      else respond (s.putCtx ctx { c with state := .suspended, suspending := none }) 2 tag 0 0
    | none => s
  | none => s

/-- A SETSEG that waits ends when every running core has applied it (R391). -/
def finishSetseg (s : State) (ctx : Nat) : State :=
  match Tab.find s.ctxs ctx with
  | some c => match c.setseg with
    | some tag =>
      if s.cores.any fun p => p.2.ctx == ctx && p.2.mode != .idle && p.2.oldSegs.isSome then s
      else respond (s.putCtx ctx { c with setseg := none }) 2 tag 0 0
    | none => s
  | none => s

/-- What the MVU still does for a core: none, an `MMAG` between group steps, or an operation to run to its end (R289). -/
def splitBusy (q : Quad) (core : Nat) : Option (List MvuOp) := match q.busy with
  | some (x, o) => if x ≠ core then some [] else if o.kind = .mmag ∧ o.nextStep.isSome then some [o] else none
  | none => some []

/-- A strand can be switched out now: it is not being placed, which the next cycle ends (R137), and it is neither between the entries of
a pair nor within a hint run (R83, R89, R129). One that is cancelling goes with its image and is retired when that resumes. -/
def settled (k : Strand) : Bool := k.phase != .placed && k.pair.length != 1 && k.run.isNone

def settledAt (s : State) (sid : Nat) : Bool := match Tab.find s.strands sid with
  | some k => settled k
  | none => true

/-- PREEMPT_RELEASE (R385): the image is saved, a gang aborts, and the core is released. -/
def execPreemptRelease (core : Nat) (s : State) : Out :=
  match Tab.find s.cores core with
  | none => .next s
  | some c =>
    let q := quadAt s (quadOf core)
    match splitBusy q core with
    | none => .next s
    | some mmag =>
      if c.mode ≠ .preempting ∨ (c.slots.any fun p => !settledAt s p.2) then .next s
      else
        let home := homeCore s c.ctx core
        let sids := c.slots.map (·.2)
        let gangs := (sids.filterMap fun sid => (Tab.find s.strands sid).bind gangOf).dedup
        let s1 := gangs.foldl abortGang (noteLeaving s sids)
        let im : Image := {
          slots := c.slots, kernel := c.kernel, launch := c.launch, bounds := c.bounds, dispatch := mmag ++ c.dispatch
          tiles := tileShare s c q, slotTable := shareOf q.slotTable home, runsOn := none }
        let s2 := (sids ++ c.arrivals.filter fun x => x / 32768 == c.ctx).foldl (fun s sid =>
          s.modStrand sid fun k => k.switchOut (if k.phase = .migrating then k.core else home)) s1
        let s3 := { s2 with images := Tab.put s2.images (imageKey c.ctx home) im }
        let s4 := (s3.putCore core { Core.blank with ptr := c.ptr, last := c.last, steal := c.steal, arrivals := c.arrivals, spent := c.spent }).putQuad
          (quadOf core) (if mmag.isEmpty then quadAt s3 (quadOf core) else { quadAt s3 (quadOf core) with busy := none })
        .next (donateHeld (finishSetseg (finishSuspend s4 c.ctx) c.ctx) (sids ++ c.arrivals))

/-- QUANTUM_EXPIRY (R384): the running context has had its quantum, in microseconds of 2,500 cycles, and another context of equal
priority with work takes the core; not while a donation keeps the running one there (R203). -/
def execQuantumExpiry (core : Nat) (s : State) : Out :=
  match runningCore s core with
  | none => .next s
  | some c =>
    let quantum := ((Tab.find s.ctxs c.ctx).map (·.quantum)).getD 0
    if quantum ≠ 0 ∧ c.began + 2500 * quantum ≤ s.cycle ∧ donatedHere s c = false ∧ (s.ctxs.any fun p => p.1 != c.ctx && effectivePrio s p.1 == effectivePrio s c.ctx &&
        eligible s p.1 core && hasWork s p.1 core) then
      .next (meshInterrupt (s.putCore core { c with spent := c.ctx :: c.spent.erase c.ctx }) core)
    else .next s

/-- SEGMENT_INTERRUPT (R391): the core takes the new segment registers at an instruction boundary. -/
def execSegmentInterrupt (core : Nat) (s : State) : Out :=
  match Tab.find s.cores core with
  | some c =>
    if c.oldSegs.isSome then .next (finishSetseg (s.putCore core { c with oldSegs := none }) c.ctx) else .next s
  | none => .next s

/-! ### Commands of the context-scheduling core (Table 22-5) -/

/-- A command of the scheduling core, which takes none while a SUSPEND, SETSEG or TEARDOWN is in progress (R440). -/
def scheduling (c : FirmCommand) (s : State) (body : State) : Out :=
  command s (if s.ctxs.any fun p => p.2.suspending.isSome || p.2.setseg.isSome || p.2.tearing.isSome then retake s 2 c else body)

/-- The registers of a segment table, and whether they keep Table 02-3 and the package limit of R422. -/
def segsFrom (raw : Nat) : List Nat := (List.range 8).map fun i => field raw (128 * i) 128
def segsOk (segs : List Nat) : Bool :=
  (segs.all fun r => field r 122 2 == 0) && decide (field (segs.getD 7 0) 61 61 ≤ 4608)

/-- An item in flight belongs to a context. -/
def flightCtx (s : State) (f : Flight) : Option Nat := match f with
  | .loadRet sid _ _ _ => some (sid / 32768)
  | .remoteLoad sid _ _ _ _ _ => some (sid / 32768)
  | .remoteStore sid _ _ _ => some (sid / 32768)
  | .wrote sid _ _ => some (sid / 32768)
  | .vecLoad sid _ _ _ _ _ _ _ => some (sid / 32768)
  | .vecRet sid _ _ _ _ => some (sid / 32768)
  | .atomic a _ => some (a.sid / 32768)
  | .atomicRet sid _ _ _ _ => some (sid / 32768)
  | .claim c => some (c.claim.sid / 32768)
  | .claimReply c _ => some (c.claim.sid / 32768)
  | .msg m => some m.ctx
  | .ack sid _ _ => some (sid / 32768)
  | .share c _ _ _ => some c
  | .borrowReq _ c _ => some c
  | .borrowGrant sid _ => some (sid / 32768)
  | .cancel c _ => some c
  | .childLink c _ _ => some c
  | .barrier sid _ _ _ => some (sid / 32768)
  | .bwaitRet sid _ _ _ _ => some (sid / 32768)
  | .lockRet sid _ _ _ _ => some (sid / 32768)
  | .lockUpdate c _ _ _ => some c
  | .arrival a _ => some a.ctx
  | .arrived a _ => some a.ctx
  | .donation _ c _ _ => some c
  | .stamped _ _ sid _ _ => some (sid / 32768)
  | .migration sid _ _ _ => some (sid / 32768)
  | .faultReq c _ => some c
  | .repairWake sid _ => some (sid / 32768)
  | .advice c _ _ => some c
  -- a notice outlives its context (R424)
  | .frayNotice _ _ _ => none
  | .proxyCancel c _ _ => if s.ctxs.any fun p => p.1 == c then some c else none

/-- The lowest context number that is free: no context has it and nothing of its last holder is on its way (R395 item 7). -/
def freeCtx (s : State) : Option Nat := (List.range 64).find? fun c =>
  !Tab.has s.ctxs c && s.flights.all fun p => flightCtx s p.2 != some c

/-- The reserved fields of a context descriptor are zero, and its limits hold (R381, R382). -/
def descriptorOk (raw : Nat) : Bool :=
  let quads := field raw 1024 1024
  segsOk (segsFrom raw) && decide (quads ≠ 0) && field raw 2048 64 % 2 ^ 21 == 0 &&
    decide (576 + 3 * popCount 1024 quads ≤ 4 * field raw 2112 32) && field raw 2144 4 == 0 && field raw 2156 4 == 0 &&
    field raw 2176 1920 == 0

/-- The context that a descriptor defines, with its root (R393). -/
def contextFrom (raw root : Nat) : Context := {
  state := .defined, segs := segsFrom raw, quads := field raw 1024 1024, cmem := field raw 2048 64, csize := field raw 2112 32
  prio := field raw 2148 4, quantum := field raw 2160 16, rights := field raw 2152 4, key := 0, keySet := false, root := root
  events := [], posted := 0, suspending := none, setseg := none, tearing := none }

/-- The context root's record (R393). -/
def rootScope (h : Nat) : Scope := {
  units := 2 ^ 32, handle := h, parent := 0, opener := 0, landing := 0, child := 0, sibling := 0, succeeder := 0
  remote := 0, remotes := [], withheld := 0, root := true, eager := false, selv := true, state := .open, result := .ok
  fray := 0, saved := 0 }

/-- A table without the entries of a context, whose numbers lie in [ctx * n, (ctx + 1) * n). -/
def dropOf {α : Type} (t : Tab α) (ctx n : Nat) : Tab α := t.filter fun p => p.1 / n != ctx

/-- Nothing of an earlier context of the number is left: generations, tickets, spools, save areas, tags (R133, R146, R34, R24). -/
def cleanNumber (s : State) (ctx : Nat) : State :=
  let g := s.groups
  let s1 := s.setGroups {
    scopes := dropOf g.scopes ctx (2 ^ 17)
    recent := g.recent.map fun p => (p.1, p.2.filter fun key => key / 2 ^ 17 != ctx)
    scopeGen := dropOf g.scopeGen ctx (2 ^ 17), dirGen := dropOf g.dirGen ctx 32768
    tickets := dropOf g.tickets ctx (2 ^ 22), ticketGen := dropOf g.ticketGen ctx (2 ^ 22)
    spools := dropOf g.spools ctx 4096, spill := dropOf g.spill ctx 8 }
  let s1 := { s1 with quads := s1.quads.map fun (p : Nat × Quad) => (p.1, { p.2 with tags := dropOf p.2.tags ctx 64 }) }
  clearRange (clearRange (clearRange s1 (scratchBase + ctx * 2 ^ 41) (2 ^ 41)) (bufferBase + ctx * 2 ^ 32) (2 ^ 32))
    (storageBase + ctx * 2 ^ 61) (2 ^ 61)

/-- The quads that the start has left out, with a fused-off bank of their own or of their cluster: they are in no quad mask
(Table 27-3, step 3). -/
def fusedMask (s : State) : Nat := s.sys.fused.foldl (fun m u =>
  m ||| (if u < 2 ^ 16 then 2 ^ (u / 64) else 255 * 2 ^ (8 * ((u - 2 ^ 16) / 64)))) 0

/-- A descriptor with the quads that are left out taken from its mask. -/
def withoutFused (s : State) (raw : Nat) : Nat :=
  let quads := field raw 1024 1024
  raw - (quads &&& fusedMask s) * 2 ^ 1024

/-- DEFINE (R381, R393): the value returned is the context number. -/
def execDefine (tag addr : Nat) (s : State) : Out :=
  scheduling ⟨0x01, tag, [addr]⟩ s <|
    let r := readAt s addr 512
    let raw := withoutFused s (leNat r.bytes)
    let s := noteDamage s 0 addr 512
    match freeCtx s with
    | none => refuse s 2 tag
    | some c =>
      if r.code.isSome ∨ descriptorOk raw = false then refuse s 2 tag
      else
        let s1 := cleanNumber s c
        let h := handleAt s1 (c * 2 ^ 17)
        respond ((s1.putScope (c * 2 ^ 17) (rootScope h)).putCtx c (contextFrom raw h)) 2 tag 0 c

/-- SETSEG (R391): running cores keep the old table until their segment interrupt. -/
def execSetseg (tag ctx addr : Nat) (s : State) : Out :=
  scheduling ⟨0x02, tag, [ctx, addr]⟩ s <|
    let r := readAt s addr 128
    let segs := segsFrom (leNat r.bytes)
    let s := noteDamage s 0 addr 128
    match Tab.find s.ctxs ctx with
    | none => refuse s 2 tag
    | some c =>
      if r.code.isSome ∨ segsOk segs = false then refuse s 2 tag
      else
        let s1 := { s with cores := s.cores.map fun (p : Nat × Core) =>
          (p.1, if p.2.ctx = ctx ∧ p.2.mode ≠ CoreMode.idle ∧ p.2.oldSegs = none then { p.2 with oldSegs := some c.segs } else p.2) }
        finishSetseg (s1.putCtx ctx { c with segs := segs, setseg := some tag }) ctx

/-- SETPRIO (R392). -/
def execSetprio (tag ctx prio quantum : Nat) (s : State) : Out :=
  scheduling ⟨0x03, tag, [ctx, prio, quantum]⟩ s <|
    match Tab.find s.ctxs ctx with
    | none => refuse s 2 tag
    | some c =>
      if 15 < prio ∨ 2 ^ 16 ≤ quantum then refuse s 2 tag
      else respond (s.putCtx ctx { c with prio := prio, quantum := quantum }) 2 tag 0 0

/-- SUSPEND (R394). -/
def execSuspend (tag ctx : Nat) (s : State) : Out :=
  scheduling ⟨0x04, tag, [ctx]⟩ s <|
    match Tab.find s.ctxs ctx with
    | none => refuse s 2 tag
    | some c =>
      if c.state ≠ .resident then refuse s 2 tag
      else
        let mine := (s.cores.filter fun p => p.2.ctx == ctx && p.2.mode == .running).map (·.1)
        finishSuspend (mine.foldl meshInterrupt (s.putCtx ctx { c with suspending := some tag })) ctx

/-- RESUME (R383). -/
def execResume (tag ctx : Nat) (s : State) : Out :=
  scheduling ⟨0x05, tag, [ctx]⟩ s <|
    match Tab.find s.ctxs ctx with
    | none => refuse s 2 tag
    | some c =>
      if c.state ≠ .suspended then refuse s 2 tag
      else respond (s.putCtx ctx { c with state := .resident }) 2 tag 0 0

/-- MENDROOT (R393): only a root without an open child. -/
def execMendroot (tag ctx : Nat) (s : State) : Out :=
  scheduling ⟨0x07, tag, [ctx]⟩ s <|
    match Tab.find s.ctxs ctx with
    | none => refuse s 2 tag
    | some c => match findScope s ctx c.root with
      | none => refuse s 2 tag
      | some r =>
        if s.groups.scopes.any fun p => p.1 / 2 ^ 17 == ctx && p.2.parent == c.root && p.2.state != .closed then refuse s 2 tag
        else respond (s.putScope (scopeKey ctx c.root) { r with state := .open, result := .ok, fray := 0 }) 2 tag 0 0

/-! ### Keys (R444) -/

/-- KEYSET (R444): the boot core holds the 56 bytes of the LMS public key at the address (log 9); words that are poisoned or
uncorrectable are no key (DESIGN CHOICE, log 9). -/
def execKeyset (tag ctx addr : Nat) (s : State) : Out :=
  command s <|
    match Tab.find s.ctxs ctx with
    | none => refuse s 0 tag
    | some c =>
      let s := noteDamage s 0 addr 56
      if (readAt s addr 56).code.isSome then refuse s 0 tag
      else respond (s.putCtx ctx { c with key := readNat s addr 56, keySet := true }) 0 tag 0 0

end Sys2Proof.Machine
end

