-- ==== Sys2Proof/Machine/Lms.lean ====
section
/-! DEFINITION. LMS signatures over SHA-256 (R400 item 4), which the manual names and does not define: as RFC 8554 and FIPS 180-4 give them
(PRESUMED, log 9). -/

namespace Sys2Proof.Machine

/-! ### SHA-256 -/

namespace Sha

abbrev W := BitVec 32

def k0 : List W := [
  0x428a2f98, 0x71374491, 0xb5c0fbcf, 0xe9b5dba5, 0x3956c25b, 0x59f111f1, 0x923f82a4, 0xab1c5ed5,
  0xd807aa98, 0x12835b01, 0x243185be, 0x550c7dc3, 0x72be5d74, 0x80deb1fe, 0x9bdc06a7, 0xc19bf174,
  0xe49b69c1, 0xefbe4786, 0x0fc19dc6, 0x240ca1cc, 0x2de92c6f, 0x4a7484aa, 0x5cb0a9dc, 0x76f988da,
  0x983e5152, 0xa831c66d, 0xb00327c8, 0xbf597fc7, 0xc6e00bf3, 0xd5a79147, 0x06ca6351, 0x14292967]

def k1 : List W := [
  0x27b70a85, 0x2e1b2138, 0x4d2c6dfc, 0x53380d13, 0x650a7354, 0x766a0abb, 0x81c2c92e, 0x92722c85,
  0xa2bfe8a1, 0xa81a664b, 0xc24b8b70, 0xc76c51a3, 0xd192e819, 0xd6990624, 0xf40e3585, 0x106aa070,
  0x19a4c116, 0x1e376c08, 0x2748774c, 0x34b0bcb5, 0x391c0cb3, 0x4ed8aa4a, 0x5b9cca4f, 0x682e6ff3,
  0x748f82ee, 0x78a5636f, 0x84c87814, 0x8cc70208, 0x90befffa, 0xa4506ceb, 0xbef9a3f7, 0xc67178f2]

def start : List W := [
  0x6a09e667, 0xbb67ae85, 0x3c6ef372, 0xa54ff53a, 0x510e527f, 0x9b05688c, 0x1f83d9ab, 0x5be0cd19]

/-- A word of four bytes, the first the most significant. -/
def word (bs : List Byte) : W := BitVec.ofNat 32 (bs.foldl (fun x b => 256 * x + b.toNat) 0)

/-- The most significant byte first. -/
def bigEndian (n x : Nat) : List Byte := (leBytes n x).reverse

/-- The words of a block. -/
def words (bs : List Byte) : List W := (List.range 16).map fun i => word ((bs.drop (4 * i)).take 4)

/-- The message schedule, the latest word first, `n` words further. -/
def schedule : Nat → List W → List W
  | 0, ws => ws
  | n + 1, ws =>
    let at_ := fun i => ws.getD i 0
    let s0 := (at_ 14).rotateRight 7 ^^^ (at_ 14).rotateRight 18 ^^^ (at_ 14) >>> 3
    let s1 := (at_ 1).rotateRight 17 ^^^ (at_ 1).rotateRight 19 ^^^ (at_ 1) >>> 10
    schedule n ((at_ 15 + s0 + at_ 6 + s1) :: ws)

/-- One round on the eight working words, with its constant and schedule word. -/
def round (h : List W) (kw : W × W) : List W := match h with
  | [a, b, c, d, e, f, g, hh] =>
    let s1 := e.rotateRight 6 ^^^ e.rotateRight 11 ^^^ e.rotateRight 25
    let t1 := hh + s1 + ((e &&& f) ^^^ (~~~e &&& g)) + kw.1 + kw.2
    let s0 := a.rotateRight 2 ^^^ a.rotateRight 13 ^^^ a.rotateRight 22
    let t2 := s0 + ((a &&& b) ^^^ (a &&& c) ^^^ (b &&& c))
    [t1 + t2, a, b, c, d + t1, e, f, g]
  | h => h

def block (h : List W) (bs : List Byte) : List W :=
  let ws := (schedule 48 (words bs).reverse).reverse
  (h.zip (((k0 ++ k1).zip ws).foldl round h)).map fun p => p.1 + p.2

/-- The blocks of a padded message. -/
def blocks : Nat → List W → List Byte → List W
  | 0, h, _ => h
  | n + 1, h, bs => blocks n (block h (bs.take 64)) (bs.drop 64)

/-- SHA-256 of a list of bytes, as 32 bytes. -/
def hash (m : List Byte) : List Byte :=
  let pad := (119 - m.length % 64) % 64
  let padded := m ++ [0x80] ++ List.replicate pad 0 ++ bigEndian 8 (8 * m.length)
  (blocks (padded.length / 64) start padded).flatMap fun w => bigEndian 4 w.toNat

end Sha

/-! ### LMS -/

namespace Lms

/-- The number in big-endian bytes at an offset. -/
def num (bs : List Byte) (off n : Nat) : Nat := ((bs.drop off).take n).foldl (fun x b => 256 * x + b.toNat) 0

/-- The `i`-th 32-byte string from an offset. -/
def part (bs : List Byte) (off i : Nat) : List Byte := (bs.drop (off + 32 * i)).take 32

/-- The width w, the count p and the shift ls of a one-time signature's type. -/
def otsParams : Nat → Option (Nat × Nat × Nat)
  | 1 => some (1, 265, 7)
  | 2 => some (2, 133, 6)
  | 3 => some (4, 67, 4)
  | 4 => some (8, 34, 0)
  | _ => none

/-- The height of a tree's type. -/
def height (type : Nat) : Option Nat := if 5 ≤ type ∧ type ≤ 9 then some (5 * (type - 4)) else none

/-- The `i`-th digit of w bits of a string. -/
def coef (bs : List Byte) (w i : Nat) : Nat := (bs.getD (i * w / 8) 0).toNat / 2 ^ (8 - w * (i % (8 / w)) - w) % 2 ^ w

/-- The checksum of a hash. -/
def checksum (q : List Byte) (w ls : Nat) : Nat :=
  ((List.range (256 / w)).foldl (fun x i => x + (2 ^ w - 1 - coef q w i)) 0) * 2 ^ ls

/-- A hash chain run on from step `j`, `n` steps. -/
def chain (head : List Byte) : Nat → Nat → List Byte → List Byte
  | 0, _, x => x
  | n + 1, j, x => chain head n (j + 1) (Sha.hash (head ++ Sha.bigEndian 1 j ++ x))

/-- The one-time public key that a signature over a message leads to. -/
def otsKey (head m sig : List Byte) (w p ls : Nat) : List Byte :=
  let q := Sha.hash (head ++ [0x81, 0x81] ++ part sig 4 0 ++ m)
  let d := q ++ Sha.bigEndian 2 (checksum q w ls)
  Sha.hash (head ++ [0x80, 0x80] ++ (List.range p).flatMap fun i =>
    chain (head ++ Sha.bigEndian 2 i) (2 ^ w - 1 - coef d w i) (coef d w i) (part sig 36 i))

/-- The root that a leaf's node leads to by its path, `n` levels up. -/
def climb (id path : List Byte) : Nat → Nat → Nat → List Byte → List Byte
  | 0, _, _, x => x
  | n + 1, i, node, x =>
    let pair := if node % 2 = 1 then part path 0 i ++ x else x ++ part path 0 i
    climb id path n (i + 1) (node / 2) (Sha.hash (id ++ Sha.bigEndian 4 (node / 2) ++ [0x83, 0x83] ++ pair))

/-- A signature over a message verifies with a public key of 56 bytes. -/
def verify (key m sig : List Byte) : Bool :=
  let id := (key.drop 8).take 16
  let q := num sig 0 4
  match otsParams (num key 4 4), height (num key 0 4) with
  | some (w, p, ls), some h =>
    num sig 4 4 == num key 4 4 && sig.length == 12 + 32 * (p + 1) + 32 * h && num sig (40 + 32 * p) 4 == num key 0 4 && decide (q < 2 ^ h) &&
      (let leaf := 2 ^ h + q
       let k := otsKey (id ++ Sha.bigEndian 4 q) m (sig.drop 4) w p ls
       climb id (sig.drop (44 + 32 * p)) h 0 leaf (Sha.hash (id ++ Sha.bigEndian 4 leaf ++ [0x82, 0x82] ++ k)) == key.drop 24)
  | _, _ => false

end Lms

end Sys2Proof.Machine
end

