-- ==== Sys2Proof/Machine/EvKernel.lean ====
section
/-! DEFINITION. Kernels: LOAD and its checks (R397 to R400), UNLOAD, and the close of a kernel root (R404). -/

namespace Sys2Proof.Machine

/-! ### Memory as the firmware reads and writes it for a context -/

/-- A place that the firmware names can be accessed now: its bank and region (R31, R34), its row (R364), and another package behind
what has been sent there (R425). -/
def firmwareReady (s : State) (l : Loc) (n : Nat) : Bool := homeServes s l.die l n && pathClear s l.pkg

/-- What a read of the firmware yields: it waits for a page that is to come, or for a place that cannot serve it yet. -/
inductive FirmRead where
  | ok (raw : Nat)
  | wait (page : Option Nat)
  | bad
  deriving DecidableEq, Repr

/-- A read of `n` bytes. -/
def firmwareRead (s : State) (ctx addr : Nat) : Nat → FirmRead
  | 0 => .ok 0
  | n + 1 => match firmwareAt s ctx addr needRd with
    | .unresolvable => .bad
    | .resolvable p => .wait (some p)
    | .at l =>
      let r := readLoc s l 1
      if !firmwareReady s l 1 then .wait none
      else if r.code.isSome then .bad
      else match firmwareRead s ctx (addr + 1) n with
        | .ok x => .ok (leNat r.bytes + 256 * x)
        | e => e

/-- What reads of several ranges yield. -/
inductive FirmReads where
  | ok (raws : List Nat)
  | wait (page : Option Nat)
  | bad
  deriving DecidableEq, Repr

def firmwareReads (s : State) (ctx : Nat) : List (Nat × Nat) → FirmReads
  | [] => .ok []
  | (addr, n) :: rest => match firmwareRead s ctx addr n, firmwareReads s ctx rest with
    | .ok x, .ok xs => .ok (x :: xs)
    | .wait p, _ => .wait p
    | .bad, _ => .bad
    | .ok _, e => e

/-- What a read of the firmware finds damaged is corrected or recorded as any read's is (R29, R363). -/
def noteFirm (s : State) (ctx addr n : Nat) : State :=
  (List.range n).foldl (fun s i => match firmwareAt s ctx (addr + i) needRd with
    | .at l => noteLoc s ctx l 1
    | _ => s) s

/-- What the firmware waits for is asked for (R373). -/
def askFor (s : State) (ctx : Nat) : Option Nat → State
  | some p => askRepair s ctx p
  | none => s

/-- Bytes that the firmware writes for a context: none while their place is to come; lost where there is none, or no right to write
it (R374). -/
def firmwareWrite (s : State) (ctx addr : Nat) (bs : List Byte) : Option State :=
  match firmwareAt s ctx addr needWr with
  | .unresolvable => some s
  | .resolvable _ => none
  | .at l =>
    if !firmwareReady s l bs.length then none
    else some (if pathOpen s l.pkg then putBytes s l.key bs else s)

/-- The page whose repair a write of the firmware awaits is asked for. -/
def askWrite (s : State) (ctx addr : Nat) : State := match firmwareAt s ctx addr needWr with
  | .resolvable p => askRepair s ctx p
  | _ => s

/-- A context's kernels and queues go on: it is not suspended, and no SUSPEND or TEARDOWN of it is in progress (R394, R395). -/
def ctxRuns (s : State) (ctx : Nat) : Bool := match Tab.find s.ctxs ctx with
  | some c => c.state != .suspended && c.suspending.isNone && c.tearing.isNone
  | none => false

/-! ### The descriptor (Tables 23-1 and 23-2) -/

structure KernelDesc where
  image : Nat
  isize : Nat
  entry : Nat
  trapOff : Nat
  dcount : Nat
  vregs : Nat
  steal : Nat
  scratch : Nat
  gang : Nat
  simg : Bool
  sright : Bool
  bcount : Nat
  dict : Nat
  slot : Nat
  cpool : Nat
  csize : Nat
  siglen : Nat
  bounds : Nat
  sig : Nat
  tiles : Nat
  deriving DecidableEq, Repr

def kernelDesc (raw : Nat) : KernelDesc := {
  image := field raw 0 64, isize := field raw 64 32, entry := field raw 96 32, trapOff := field raw 128 32
  dcount := field raw 160 16, vregs := field raw 176 8, steal := field raw 184 8, scratch := field raw 192 32
  gang := field raw 224 8, simg := bitOf raw 233, sright := bitOf raw 232, bcount := field raw 240 16
  dict := field raw 256 64, slot := field raw 320 64, cpool := field raw 384 64, csize := field raw 448 32
  siglen := field raw 480 32, bounds := field raw 512 64, sig := field raw 576 64, tiles := field raw 640 128 }

/-- The most quads that one cluster has in a quad mask. -/
def widestCluster (quads : Nat) : Nat := (List.range 128).foldl (fun m i => Nat.max m (popCount 8 (field quads (8 * i) 8))) 0

def tileByte (d : KernelDesc) (t : Nat) : Nat := field d.tiles (8 * t) 8

/-- Check 1 (R397, R398). -/
def descriptorFields (raw : Nat) (c : Context) : Bool :=
  let d := kernelDesc raw
  field raw 234 6 == 0 && field raw 768 256 == 0 && d.image % 4 == 0 && d.isize % 4 == 0 && decide (4 ≤ d.isize) &&
    decide (d.entry < d.isize / 4) && decide (d.dcount ≤ 1024) &&
    (d.vregs == 0 || d.vregs == 8 || d.vregs == 16 || d.vregs == 32) && decide (d.steal ≤ 4) &&
    (d.gang == 0 || decide (2 ≤ d.gang ∧ d.gang ≤ 8)) && decide (d.gang ≤ widestCluster c.quads) && decide (d.bcount ≤ 16) &&
    decide (d.scratch ≤ if 0 < d.dcount then 61440 else 65536) &&
    (bitOf c.rights 2 || (!d.sright && !d.simg && d.slot == 0)) &&
    (!d.simg || (slotNibbles d.slot).all fun x => decide (x ≤ 3) || x == 8) &&
    (List.range 16).all fun t => field (tileByte d t) 4 3 == 0

/-- The rights and extent of a range of a context's segments (R397, R400 item 2). -/
def rangeOk (s : State) (c : Context) (ptr n need : Nat) : Bool :=
  n == 0 || (!isSpread ptr && segCheck s c.segs c.quads ptr n need)

/-- The constant pool's range carries rd and no wr: a part of check 1 (R398, R400 item 1). -/
def poolOk (s : State) (c : Context) (d : KernelDesc) : Bool :=
  rangeOk s c d.cpool d.csize needRd && (d.csize == 0 || !bitOf (c.segs.getD (selector d.cpool) 0) 126)

/-- Check 2 (R400). -/
def rangesOk (s : State) (c : Context) (d : KernelDesc) : Bool :=
  rangeOk s c d.image d.isize (needRd ||| needEx) && rangeOk s c d.dict (4 * d.dcount) needRd &&
    rangeOk s c d.bounds (16 * d.bcount) needRd

/-- Check 3 (R400): a word that may stand in a dictionary (R80, R88). -/
def dictWordOk (w : Nat) : Bool := match decodeWord w with
  | .ok i => fits i && legalWith none i && !isHintOrPair i
  | .error _ => false

/-- The bound presets: no reserved field, mode or repeated register (Table 23-2, R398). -/
def presetsOk (ps : List Nat) : Bool :=
  (ps.all fun p => field p 96 2 != 3 && field p 98 2 == 0 && field p 104 24 == 0) && decide ((ps.map fun p => field p 100 4).Nodup)

def presetBounds (ps : List Nat) : Tab Bound :=
  ps.foldl (fun t p => Tab.put t (field p 100 4) ⟨field p 0 32, field p 32 32, field p 96 2, field p 64 32⟩) []

/-- The enabled tiles with their selectors (R288). -/
def presetTiles (d : KernelDesc) : Tab Nat :=
  ((List.range 16).filter fun t => bitOf (tileByte d t) 7).map fun t => (t, tileByte d t % 16)

/-- The virtual ranges of the dictionary and the bound presets. -/
def tableRanges (c : Context) (d : KernelDesc) : List (Nat × Nat) :=
  [(virtAddr c.segs d.dict, 4 * d.dcount), (virtAddr c.segs d.bounds, 16 * d.bcount)]

/-- The virtual ranges of what is signed beside the descriptor, in its order, and of the signature (R400 item 4). -/
def signedRanges (c : Context) (d : KernelDesc) : List (Nat × Nat) :=
  [(virtAddr c.segs d.image, d.isize), (virtAddr c.segs d.dict, 4 * d.dcount), (virtAddr c.segs d.cpool, d.csize),
    (virtAddr c.segs d.bounds, 16 * d.bcount), (virtAddr c.segs d.sig, d.siglen)]

/-- The descriptor with bytes 72 to 79 zeroed. -/
def unsignedDesc (raw : Nat) : Nat := raw - field raw 576 64 * 2 ^ 576

/-- Check 4 of a context whose signed right is set needs a key and a signature in memory (R400 item 4, R444). -/
def canVerify (c : Context) (d : KernelDesc) : Bool := c.keySet && d.siglen != 0 && !isSpread d.sig

/-- Check 4 of what was read: the signed bytes one part after another (R400 item 4, R444; log 9). -/
def signatureOk (c : Context) (raw : Nat) : List Nat → Bool
  | [image, dict, pool, bounds, sig] =>
    let d := kernelDesc raw
    Lms.verify (leBytes 56 c.key) (leBytes 128 (unsignedDesc raw) ++ leBytes d.isize image ++ leBytes (4 * d.dcount) dict ++
      leBytes d.csize pool ++ leBytes (16 * d.bcount) bounds) (leBytes d.siglen sig)
  | _ => false

/-! ### LOAD and UNLOAD (R399) -/

/-- The verified kernel of a descriptor. -/
def verifiedKernel (addr : Nat) (d : KernelDesc) (words presets : List Nat) : Kernel := {
  state := .verified, desc := addr, image := d.image, isize := d.isize, entry := d.entry
  tvec := if d.trapOff = 2 ^ 32 - 1 then none else some (d.image + 4 * d.trapOff)
  dict := words, vregs := d.vregs, steal := d.steal, gang := d.gang, sright := d.sright
  slotImage := if d.simg then some d.slot else none, bounds := presetBounds presets, tiles := presetTiles d, roots := []
  launches := 0 }

/-- The lowest kernel number of a context that is free. -/
def freeKernel (s : State) (ctx : Nat) : Nat :=
  (firstFrom (2 ^ 32) (fun i => !Tab.has s.kernels (ctx * 2 ^ 32 + i)) (s.kernels.length + 1) 0).getD 0

/-- What a read of the firmware found damaged in several ranges is noted. -/
def noteRanges (s : State) (ctx : Nat) (ranges : List (Nat × Nat)) : State :=
  ranges.foldl (fun s r => noteFirm s ctx r.1 r.2) s

/-- A LOAD whose memory is to come waits for its turn again (R399, R440). -/
def loadLater (s : State) (tag ctx addr : Nat) (page : Option Nat) : State := later (askFor s ctx page) 1 ⟨0x13, tag, [addr, ctx]⟩

/-- The kernel passes check 3, and check 4 where its context asks it: the number is returned (R399, R400). -/
def verifyKernel (s : State) (tag ctx addr : Nat) (c : Context) (raw : Nat) (ws ps : List Nat) : State :=
  let d := kernelDesc raw
  let n := freeKernel s ctx
  let accept := fun s : State => respond (s.putKernel (ctx * 2 ^ 32 + n) (verifiedKernel addr d ws ps)) 1 tag 0 n
  if presetsOk ps = false then respond s 1 tag 1 1
  else if (ws.all dictWordOk) = false then respond s 1 tag 1 3
  else if bitOf c.rights 3 = false then accept s
  else if canVerify c d = false then respond s 1 tag 1 4
  else match firmwareReads s ctx (signedRanges c d) with
    | .wait p => loadLater s tag ctx addr p
    | .bad => respond (noteRanges s ctx (signedRanges c d)) 1 tag 1 4
    | .ok parts =>
      let s1 := noteRanges s ctx (signedRanges c d)
      if signatureOk c raw parts then accept s1 else respond s1 1 tag 1 4

/-- LOAD (R399, R400): the number is returned, or the number of the check that failed; a dictionary or presets that cannot be read
fail check 2 (log 57). -/
def execLoad (tag ctx addr : Nat) (s : State) : Out :=
  command s <|
    match Tab.find s.ctxs ctx with
    | none => refuse s 1 tag
    | some c =>
      let r := readAt s addr 128
      let raw := leNat r.bytes
      let d := kernelDesc raw
      let s := noteDamage s ctx addr 128
      if addr % 64 ≠ 0 ∨ r.code.isSome ∨ descriptorFields raw c = false ∨ poolOk s c d = false then respond s 1 tag 1 1
      else if rangesOk s c d = false then respond s 1 tag 1 2
      else match firmwareReads s ctx (tableRanges c d) with
        | .wait p => loadLater s tag ctx addr p
        | .ok [words, presets] =>
          verifyKernel (noteRanges s ctx (tableRanges c d)) tag ctx addr c raw
            ((List.range d.dcount).map fun i => field words (32 * i) 32) ((List.range d.bcount).map fun i => field presets (128 * i) 128)
        | _ => respond (noteRanges s ctx (tableRanges c d)) 1 tag 1 2

/-- The pages that a kernel's image overlaps, and those among them that no other kernel of the context uses. -/
def imagePages (s : State) (ctx : Nat) (x : Kernel) : List (Nat × Page) :=
  overlapping s ctx (virtAddr (((Tab.find s.ctxs ctx).map (·.segs)).getD []) x.image) x.isize

/-- Pages of the image that are usable cover it whole. -/
def imageCovered (s : State) (ctx : Nat) (x : Kernel) : Bool :=
  let va := virtAddr (((Tab.find s.ctxs ctx).map (·.segs)).getD []) x.image
  let ps := imagePages s ctx x
  (ps.all fun p => leafState p.2.leaf == 1 || leafState p.2.leaf == 5 || leafState p.2.leaf == 4) &&
    decide (x.isize ≤ ps.foldl (fun n p =>
      n + (Nat.min (va + x.isize) (pageVa p.1 + leafSize p.2.leaf) - Nat.max va (pageVa p.1))) 0)

/-- KERNEL_PINNING_DONE (R399): the pages of the image are pinned and the kernel is launchable; the repair of those that are to come
is asked for. -/
def execKernelPinningDone (ctx kernel : Nat) (s : State) : Out :=
  let key := ctx * 2 ^ 32 + kernel
  match Tab.find s.kernels key with
  | some x =>
    if x.state ≠ .verified then .next s
    else if imageCovered s ctx x then
      let pin := fun (s : State) (p : Nat × Page) =>
        if leafState p.2.leaf = 1 then putPage s p.1 { p.2 with leaf := withState p.2.leaf 5 } else s
      .next (((imagePages s ctx x).foldl pin s).putKernel key { x with state := .resident })
    else .next ((imagePages s ctx x).foldl (fun s p => askRepair s ctx p.1) s)
  | none => .next s

/-- No core, running or saved, has a retired kernel's state: what next has the number is loaded afresh (R402). -/
def unloadCores (s : State) (ctx kernel : Nat) : State :=
  let s1 := { s with cores := s.cores.map fun (p : Nat × Core) =>
    (p.1, if p.2.ctx = ctx ∧ p.2.kernel = some kernel then { p.2 with kernel := none } else p.2) }
  { s1 with images := s1.images.map fun (p : Nat × Image) =>
    (p.1, if p.1 / 4096 = ctx ∧ p.2.kernel = some kernel then { p.2 with kernel := none } else p.2) }

/-- A kernel is retired: its number is free and its pages are unpinned (R399). -/
def retireKernel (s : State) (ctx kernel : Nat) : State :=
  let key := ctx * 2 ^ 32 + kernel
  match Tab.find s.kernels key with
  | none => s
  | some x =>
    let s1 := unloadCores { s with kernels := Tab.del s.kernels key } ctx kernel
    let used := fun q : Nat => s1.kernels.any fun y =>
      y.1 / 2 ^ 32 == ctx && (imagePages s1 ctx y.2).any fun p => p.1 == q
    (imagePages s1 ctx x).foldl (fun s p =>
      if used p.1 then s
      else if leafState p.2.leaf = 5 then putPage s p.1 { p.2 with leaf := withState p.2.leaf 1 }
      else if leafState p.2.leaf = 2 then putPage s p.1 { p.2 with former := 1 } else s) s1

/-- UNLOAD (R399): a running kernel drains; one that is not yet resident, or drains already, refuses. -/
def execUnload (tag ctx kernel : Nat) (s : State) : Out :=
  command s <|
    let key := ctx * 2 ^ 32 + kernel
    match Tab.find s.kernels key with
    | none => refuse s 1 tag
    | some x => match x.state with
      | .resident => respond (retireKernel s ctx kernel) 1 tag 0 0
      | .running => respond (s.putKernel key { x with state := .draining }) 1 tag 0 0
      | _ => refuse s 1 tag

/-! ### The close of a kernel root (R404) -/

/-- A root of a kernel closes: with its last the kernel is resident again, or retired where it drains. -/
def closeKernelRoot (s : State) (ctx kernel root : Nat) : State :=
  let key := ctx * 2 ^ 32 + kernel
  match Tab.find s.kernels key with
  | none => s
  | some x =>
    let rest := x.roots.erase root
    let s1 := s.putKernel key { x with roots := rest, state := if rest.isEmpty ∧ x.state = .running then .resident else x.state }
    if rest.isEmpty ∧ x.state = .draining then retireKernel s1 ctx kernel else s1

/-- The clean arrival of n = 1 that a `KLAUNCH`'s close makes on its launch block's barrier. -/
def closeArrival (s : State) (ctx root selvedge : Nat) : Option Nat → State
  | none => s
  | some bar => s.send (.arrival {
      ctx := ctx, ptr := bar, bytes := 1, n := 1, code := 0, tainted := false, selvedge := selvedge, short := none, op := s.nextId
      done := 0, scope := root, final := true, share := none, firm := true } false)

/-- The result doubleword of a root, where its launch names an address for it. -/
def writeResult (s : State) (ctx : Nat) (r : Scope) : Option Nat → Option State
  | none => some s
  | some addr => firmwareWrite s ctx addr (leBytes 8 (resultWord r))

/-- A closed root whose result is written: its record goes, its kernel may go, and its arrival or its ring command is made. -/
def closeRoot (s : State) (ctx : Nat) (r : Scope) (l : Launch) : State :=
  let s1 := retireScope s ctx r
  let s2 := closeKernelRoot { s1 with launches := Tab.del s1.launches (scopeKey ctx r.handle) } ctx l.kernel r.handle
  closeArrival (match l.queue with
    | some (q, n) => doneCommand s2 q n (resultWord r)
    | none => s2) ctx r.handle (if r.selv then r.handle else selvedgeOf s ctx r.parent) l.barrier

/-- The record of a kernel root that has closed and whose result has still to be written. -/
def closedRoot (s : State) (ctx root : Nat) : Option Scope :=
  (Tab.find s.groups.scopes (scopeKey ctx root)).filter fun r => r.handle == root % 2 ^ 32 && r.state == .closed

/-- KERNEL_ROOT_CLOSE (R404): the result that the root had as it closed is written, then the arrival is made or the ring command is done;
not in a context that is suspended (R394). -/
def execKernelRootClose (ctx root : Nat) (s : State) : Out :=
  match closedRoot s ctx root, Tab.find s.launches (scopeKey ctx root) with
  | some r, some l =>
    if ctxRuns s ctx then
      match writeResult s ctx r l.result with
      | none => .next (askWrite s ctx (l.result.getD 0))
      | some s0 => .next (closeRoot s0 ctx r l)
    else .next s
  | _, _ => .next s

end Sys2Proof.Machine
end

