-- ==== Sys2Proof/Machine/EvQueue.lean ====
section
/-! DEFINITION. Host queues (R407 to R417): their life, wake writes, commands, completions and status. -/

namespace Sys2Proof.Machine

/-! ### Status (R415) -/

def QueueState.code : QueueState → Nat
  | .created => 0
  | .mapped => 1
  | .idle => 2
  | .running => 3
  | .unmapped => 4
  | .pagedOut => 5
  | .faulted => 6
  | .destroyed => 7

def segsOfCtx (s : State) (ctx : Nat) : List Nat := ((Tab.find s.ctxs ctx).map (·.segs)).getD []
def quadsOfCtx (s : State) (ctx : Nat) : Nat := ((Tab.find s.ctxs ctx).map (·.quads)).getD 0

/-- A range that a ring command or queue names passes its segment check: it is a segment pointer, never a spread pointer (R412). -/
def queueRange (s : State) (ctx ptr n need : Nat) : Bool :=
  !isSpread ptr && segCheckRange s (segsOfCtx s ctx) (quadsOfCtx s ctx) ptr n need

/-- The status block (Table 24-6). -/
def statusBytes (x : Queue) : List Byte :=
  leBytes 8 (x.head % 2 ^ 64) ++ leBytes 8 (x.done % 2 ^ 64) ++ [BitVec.ofNat 8 x.state.code, BitVec.ofNat 8 x.fault,
    BitVec.ofNat 8 x.lastFray] ++ List.replicate 13 0

/-- A queue put back with its status written, where that has changed or is still due (R415); a block whose page or place is to come
is written once it can be (log 30). -/
def putStatus (s : State) (q : Nat) (x : Queue) : State :=
  let addr := resolve (segsOfCtx s x.ctx) x.status
  if x.statusDue = false ∧ (Tab.find s.queues q).map statusBytes = some (statusBytes x) then s.putQueue q x
  else match firmwareWrite s x.ctx addr (statusBytes x) with
    | some s1 => s1.putQueue q { x with statusDue := false }
    | none => askWrite (s.putQueue q { x with statusDue := true }) x.ctx addr

/-- The status blocks that are due are written where they can be now. -/
def writeDue (s : State) : State := (s.queues.filter fun p => p.2.statusDue).foldl (fun s p => putStatus s p.1 p.2) s

/-! ### Slots (R409, R410) -/

def heldSlots (s : State) : Nat := (s.queues.filter fun p => p.2.held).length

/-- The queue that has waited in a state since the earliest cycle. -/
def longest (t : Tab Queue) : Option (Nat × Queue) := t.foldl (fun acc p => match acc with
  | some a => if a.2.since ≤ p.2.since then some a else some p
  | none => some p) none

/-- A queue's context is suspended. -/
def suspendedQueue (s : State) (x : Queue) : Bool := match Tab.find s.ctxs x.ctx with
  | some c => c.state == .suspended
  | none => false

/-- A running queue is parked on a `WAIT`: it has one started, and nothing further can start. -/
def parkedOnWait (x : Queue) : Bool := x.state == .running && x.started.any fun c => c.kind == 4 && !c.done

/-- The queue that gives up its slot to another: the one longest idle, else one parked on a `WAIT` for 1 ms (R410); a queue whose context
is suspended may be unmapped as if idle, and is for one that can start commands (DESIGN CHOICE, log 30). -/
def victimQueue (s : State) (for_ : Queue) : Option (Nat × Queue) :=
  match longest (s.queues.filter fun p => p.2.held && (p.2.state == .idle ||
      (p.2.state == .running && suspendedQueue s p.2 && !suspendedQueue s for_))) with
  | some v => some v
  | none => longest (s.queues.filter fun p => p.2.held && p.2.evictable && parkedOnWait p.2)

/-- A queue has commands to start, or started ones that only a mapped queue completes. -/
def wantsSlot (x : Queue) : Bool := x.head % x.size != x.tail || x.started.any fun c => c.kind == 4

/-- A queue leaves its slot; one with work waits for another. -/
def evictQueue (s : State) (q : Nat) (x : Queue) : State :=
  let y := { x with
    state := .unmapped, held := false, since := s.cycle, evictable := false, waiting := if wantsSlot x then some s.nextId else none }
  putStatus { s with nextId := s.nextId + 1 } q y

/-- A queue takes a slot, which its save area is then loaded into. -/
def takeSlot (s : State) (q : Nat) (x : Queue) : State := putStatus s q { x with state := .mapped, held := true, waiting := none }

/-- A queue waits for a slot that it can have now. -/
def servable (s : State) (x : Queue) : Bool :=
  x.waiting.isSome && x.state != .pagedOut && (decide (heldSlots s < 4096) || (victimQueue s x).isSome)

/-- The queue that has waited longest for a slot it can have, by the order of their wake writes (R410). -/
def nextWaiting (s : State) : Option (Nat × Queue) :=
  (s.queues.filter fun p => servable s p.2).foldl (fun acc p => match acc with
    | some a => if p.2.waiting.getD 0 < a.2.waiting.getD 0 then some p else some a
    | none => some p) none

/-- Slots that are free, or that other queues give up, go to the queues that wait, in the order of their wake writes (R410). -/
def serveSlots : Nat → State → State
  | 0, s => s
  | n + 1, s => match nextWaiting s with
    | none => s
    | some (q, x) =>
      if heldSlots s < 4096 then serveSlots n (takeSlot s q x)
      else match victimQueue s x with
        | some (v, y) => serveSlots n (takeSlot (evictQueue s v y) q x)
        | none => s

def serveSlot (s : State) : State := serveSlots s.queues.length s

/-- A queue waits for a slot, behind those that do already. -/
def mapQueue (s : State) (q : Nat) : State :=
  match Tab.find s.queues q with
  | none => s
  | some x => serveSlot { s.putQueue q { x with waiting := some (x.waiting.getD s.nextId) } with nextId := s.nextId + 1 }

/-! ### CREATE, DESTROY, RESUMEQ (R408, R409, R416) -/

def freeQueue (s : State) : Option Nat := firstFrom (2 ^ 20) (fun i => !Tab.has s.queues i) (Nat.min (2 ^ 20) (s.queues.length + 1)) 0

def powerOfTwo (n : Nat) : Bool := n != 0 && n == 2 ^ Nat.log2 n

/-- CREATE (R408): the descriptor is read at a physical address (log 12). -/
def execCreate (tag addr : Nat) (s : State) : Out :=
  command s <|
    let r := readAt s addr 64
    let raw := leNat r.bytes
    let ring := field raw 0 64
    let size := field raw 64 32
    let ctx := field raw 96 6
    let status := field raw 128 64
    let s := noteDamage s ctx addr 64
    match freeQueue s with
    | none => refuse s 1 tag
    | some q =>
      if r.code.isSome ∨ field raw 102 26 ≠ 0 ∨ field raw 192 320 ≠ 0 ∨ powerOfTwo size = false ∨ size < 16 ∨ 65536 < size ∨
          ring % 64 ≠ 0 ∨ status % 32 ≠ 0 ∨ ((Tab.find s.ctxs ctx).map fun c => c.tearing.isSome) ≠ some false ∨
          queueRange s ctx ring (64 * size) needRd = false ∨ queueRange s ctx status 32 needWr = false then refuse s 1 tag
      else respond (putStatus s q {
        ctx := ctx, state := .created, held := false, ring := ring, size := size, status := status, head := 0, done := 0, tail := 0
        started := [], fault := 0, lastFray := 0, waiting := none, since := s.cycle, evictable := false, paging := false
        statusDue := true }) 1 tag 0 q

/-- What a queue's commands have started no longer belongs to it: it runs on under its own rules (R417). -/
def forgetQueue (s : State) (q : Nat) : State := { s with
  launches := s.launches.map fun (p : Nat × Launch) =>
    (p.1, if p.2.queue.map (·.1) = some q then { p.2 with queue := none } else p.2)
  ops := s.ops.map fun (p : Nat × EngineOp) =>
    (p.1, if p.2.queue.map (·.1) = some q then { p.2 with queue := none } else p.2) }

/-- A queue is destroyed: nothing further starts, its number is free, and its block is written a last time where that can be done now
(R409, R415), and then no longer (R417). -/
def destroyQueue (s : State) (q : Nat) (x : Queue) : State :=
  let s1 := forgetQueue s q
  let s2 := (firmwareWrite s1 x.ctx (resolve (segsOfCtx s1 x.ctx) x.status) (statusBytes { x with state := .destroyed })).getD s1
  { s2 with queues := Tab.del s2.queues q }

/-- DESTROY (R409, R417). -/
def execDestroy (tag q : Nat) (s : State) : Out :=
  command s <|
    match Tab.find s.queues q with
    | some x => respond (serveSlot (destroyQueue s q x)) 1 tag 0 0
    | none => refuse s 1 tag

/-- A queue has nothing to start and nothing started. -/
def settledQueue (x : Queue) : Bool := x.head % x.size == x.tail && x.started.isEmpty

/-- A queue that holds its slot is idle, or runs (Table 24-3). -/
def heldState (x : Queue) : QueueState := if settledQueue x then .idle else .running

/-- RESUMEQ (R416): a skipped command that was the last leaves the queue idle. -/
def execResumeq (tag q skip : Nat) (s : State) : Out :=
  command s <|
    match Tab.find s.queues q with
    | none => refuse s 1 tag
    | some x =>
      if x.state ≠ .faulted ∨ 1 < skip then refuse s 1 tag
      else
        let y := { x with fault := 0, head := x.head + skip, done := x.done + skip, since := s.cycle }
        if y.held then respond (serveSlot (putStatus s q { y with state := heldState y })) 1 tag 0 0
        else respond (mapQueue (putStatus s q { y with state := .unmapped }) q) 1 tag 0 0

/-! ### Wakes, mapping and paging (R409 to R411) -/

/-- QUEUE_WAKE_WRITE (R411): discarded for a queue that is not there; none arrives over a host link that is down (R427). -/
def execQueueWakeWrite (q tail : Nat) (s : State) : Out :=
  match Tab.find s.queues q with
  | none => .next s
  | some x =>
    if s.links.hostUp = false ∨ firmwareUp s = false then .next s
    else
      let y := { x with tail := tail % x.size }
      let s1 := s.putQueue q y
      let fresh := y.head % y.size != y.tail
      match x.state with
      | .idle => .next (if fresh then putStatus s1 q { y with state := .running, since := s.cycle } else s1)
      | .created => .next (if fresh ∧ y.waiting.isNone then mapQueue s1 q else s1)
      | .unmapped => .next (if fresh ∧ y.waiting.isNone then mapQueue s1 q else s1)
      -- its place among those that wait is that of its wake write (R410)
      | .pagedOut => .next ({ s with nextId := s.nextId + 1 }.putQueue q { y with paging := true, waiting := some (y.waiting.getD s.nextId) })
      -- every command up to the new tail has completed
      | .running => .next (if settledQueue y then serveSlot (putStatus s1 q { y with state := .idle, since := s.cycle }) else s1)
      | _ => .next s1

/-- QUEUE_MAP_DONE (R409): the save area is in the slot. -/
def execQueueMapDone (q : Nat) (s : State) : Out :=
  match Tab.find s.queues q with
  | some x =>
    if x.state = .mapped then
      .next (serveSlot (putStatus s q { x with state := heldState x, since := s.cycle }))
    else .next s
  | none => .next s

/-- QUEUE_PAGE_IN_DONE (R409, R411): a new tail has it mapped. -/
def execQueuePageInDone (q : Nat) (s : State) : Out :=
  match Tab.find s.queues q with
  | some x =>
    if x.state = .pagedOut ∧ x.paging then
      let waits := if x.head % x.size = x.tail then none else x.waiting
      .next (serveSlot (putStatus s q { x with state := .unmapped, paging := false, since := s.cycle, waiting := waits }))
    else .next s
  | none => .next s

/-- QUEUE_WAIT_EVICT_TIMEOUT (R410): 1 ms is 2,500,000 cycles. -/
def execQueueWaitEvictTimeout (q : Nat) (s : State) : Out :=
  match Tab.find s.queues q with
  | some x =>
    if x.held ∧ parkedOnWait x ∧ x.since + 2500000 ≤ s.cycle then
      let s1 := s.putQueue q { x with evictable := true }
      .next (serveSlot s1)
    else .next s
  | none => .next s

/-- QUEUE_PAGE_OUT (R409): unmapped for 10 ms, which is 25,000,000 cycles, least recent first. -/
def execQueuePageOut (q : Nat) (s : State) : Out :=
  match Tab.find s.queues q with
  | some x =>
    let unmapped := s.queues.filter fun p => p.2.state == .unmapped && p.2.waiting.isNone
    if x.state = .unmapped ∧ x.waiting = none ∧ x.since + 25000000 ≤ s.cycle ∧ (longest unmapped).map (·.1) = some q then
      .next (putStatus s q { x with state := .pagedOut })
    else .next s
  | none => .next s

/-! ### Starting a command (R412, R413, R416) -/

/-- What starting a command comes to. -/
inductive Start where
  /-- it starts: the state, and how it is recorded -/
  | go (s : State) (c : Started)
  /-- refused with a fault code of Table 24-6 -/
  | refuse (code : Nat)
  /-- a resource is not there yet -/
  | wait (s : State)

def Started.blank (n kind : Nat) : Started := ⟨n, kind, 0, false, 0, 0, 0, 0⟩

/-- A command that is refused: head stays on it, and the queue faults (R416). -/
def refuseCommand (s : State) (q : Nat) (x : Queue) (code : Nat) : State :=
  postEvent (putStatus s q { x with state := .faulted, fault := code }) x.ctx 1 code q

/-- The command at a queue's head may be looked at: the queue runs, its context is not suspended, and the order of R413
allows it. -/
def mayStart (s : State) (x : Queue) : Bool :=
  firmwareUp s && x.state == .running && x.head % x.size != x.tail && ctxRuns s x.ctx

/-- The virtual address of the command at a queue's head. -/
def commandAddr (s : State) (x : Queue) : Nat := virtAddr (segsOfCtx s x.ctx) (x.ring + 64 * (x.head % x.size))

/-- The start of the command at a queue's head, when its operation is `op`; a fenced one waits for those before it (R413), and an
operation of no listed number is refused then by whichever of these steps finds it. `unused` finds a bit set that the operation
does not use. -/
def startCommand (q op : Nat) (unused : Nat → Bool) (body : State → Queue → Nat → Start) (s : State) : Out :=
  match Tab.find s.queues q with
  | none => .next s
  | some x =>
    if !mayStart s x then .next s
    else if queueRange s x.ctx (x.ring + 64 * (x.head % x.size)) 64 needRd = false then .next (refuseCommand s q x 2)
    else match firmwareRead s x.ctx (commandAddr s x) 64 with
      | .bad => .next (refuseCommand (noteFirm s x.ctx (commandAddr s x) 64) q x 2)
      | .wait p => .next (askFor s x.ctx p)
      | .ok raw =>
        let s := noteFirm s x.ctx (commandAddr s x) 64
        let code := field raw 0 8
        if bitOf raw 8 ∧ x.started ≠ [] then .next s
        else if code = 0 ∨ 5 < code then .next (refuseCommand s q x 1)
        else if code ≠ op then .next s
        else if field raw 9 55 ≠ 0 ∨ unused raw then .next (refuseCommand s q x 1)
        else match body s x raw with
          | .refuse c => .next (refuseCommand s q x c)
          | .wait s1 => .next s1
          | .go s1 c => .next (putStatus s1 q { x with
              head := x.head + 1, started := x.started ++ [c]
              since := if op = 4 ∧ parkedOnWait x = false then s.cycle else x.since })

/-- QUEUE_LAUNCH (R401, R412): the first launch of a context makes it resident (Table 22-4). -/
def execQueueLaunch (q : Nat) (s : State) : Out :=
  startCommand q 1 (fun raw => field raw 112 16 != 0 || field raw 448 64 != 0) (fun s x raw =>
    let kernel := field raw 64 32
    let n := field raw 96 16
    let res := field raw 384 64
    if n = 0 ∨ 256 < n then .refuse 1
    else if res % 8 ≠ 0 then .refuse 3
    else if res ≠ 0 ∧ queueRange s x.ctx res 8 needWr = false then .refuse 2
    else if launchable s x.ctx kernel = false then .refuse 4
    else
      let args := (List.range 4).map fun j => BitVec.ofNat 64 (field raw (128 + 64 * j) 64)
      let place := if res = 0 then none else some (resolve (segsOfCtx s x.ctx) res)
      match launch s x.ctx kernel n args ⟨kernel, some (q, x.head), place, none⟩ with
      | none => .wait s
      | some (_, s1) =>
        let s2 := match Tab.find s1.ctxs x.ctx with
          | some c => if c.state = .defined then s1.putCtx x.ctx { c with state := .resident } else s1
          | none => s1
        .go s2 (Started.blank x.head 1)) s

/-- The range of one side of a ring's COPY: the fault code, if its check fails. -/
def queueSide (s : State) (ctx space base size need : Nat) : Option Nat :=
  if size = 0 then none
  else if space = 0 then if queueRange s ctx base size (need ||| needEn) then none else some 2
  else if spaceSize space < base + size then some 2 else none

/-- QUEUE_COPY (R412): a clean, unshielded member of the context root, with a grant of 2^16 units of it. -/
def execQueueCopy (q : Nat) (s : State) : Out :=
  startCommand q 2 (fun raw => field raw 328 8 != 0 || field raw 352 160 != 0) (fun s x raw =>
    let dst := field raw 64 64
    let src := field raw 128 64
    let bar := field raw 256 64
    let reach := field raw 320 8
    let quad := field raw 336 16
    match copySize (field raw 192 64), Tab.find s.ctxs x.ctx with
    | some e, some c =>
      if 4 < reach ∨ e.sspace = 1 ∨ e.dspace = 3 then .refuse 1
      else if 1024 ≤ quad ∨ bitOf c.quads quad = false then .refuse 2
      else match firstOfTraps [queueSide s x.ctx e.sspace src e.size needRd, queueSide s x.ctx e.dspace dst e.size needWr,
          if queueRange s x.ctx bar 32 (needBar ||| needEn) then none else some 2] with
        | some f => .refuse f
        | none =>
          if bar % 32 ≠ 0 ∨ (e.sspace ≠ 0 ∧ src % 64 ≠ 0) ∨ (e.dspace ≠ 0 ∧ dst % 64 ≠ 0) ∨
              ((e.sspace ≠ 0 ∨ e.dspace ≠ 0) ∧ e.size % 64 ≠ 0) then .refuse 3
          else match findScope s x.ctx c.root with
            | none => .wait s
            | some r =>
              if r.units < 2 ^ 16 ∨ 320 ≤ engineLoad s (quad * 4) true then .wait s
              else
                let place := fun space p : Nat => if space = 0 then resolve c.segs p else p
                let o : EngineOp := {
                  ctx := x.ctx, core := quad * 4, issuer := none, queue := some (q, x.head), state := .queued, mode := none
                  src := place e.sspace src, dst := place e.dspace dst, sspace := e.sspace, dspace := e.dspace, size := e.size
                  esize := 1, dims := [], tag := none, sel := none, written := [], parked := [], found := [], bad := []
                  engaged := [], arrived := [], away := none, barrier := resolve c.segs bar, reach := reach, done := 0, credited := 0
                  scope := c.root, share := 16, tainted := false, selvedge := selvedgeOf s x.ctx c.root, shielded := false
                  marked := scopeMarked s x.ctx c.root, after := [], worst := .complete, cut := none }
                let s1 := s.putScope (scopeKey x.ctx c.root) { r with units := r.units - 2 ^ 16 }
                .go { s1.putOp s1.nextId o with nextId := s1.nextId + 1 }
                  { Started.blank x.head 2 with op := s1.nextId }
    | _, _ => .refuse 1) s

/-- The checks of an address of SIGNAL or WAIT: kind 0 a barrier, else a doubleword. -/
def signalCheck (s : State) (ctx addr kind need : Nat) : Option Nat :=
  if addr % (if kind = 0 then 32 else 8) ≠ 0 then some 3
  else if queueRange s ctx addr (if kind = 0 then 32 else 8) need = false then some 2 else none

/-- An arrival that the firmware makes for a SIGNAL: applied at the home, or discarded and recorded as an engine's is; to another package
it travels (R424). -/
def signalArrival (s : State) (ctx root addr value : Nat) : Option State :=
  let a : Arrival := {
    ctx := ctx, ptr := addr, bytes := value, n := value, code := 0, tainted := false, selvedge := selvedgeOf s ctx root, short := none
    op := s.nextId, done := 0, scope := root, final := true, share := none, firm := true }
  match firmwareAt s ctx addr needBar with
  | .unresolvable => some (logFray s 2 0 ctx (root % 2 ^ 32) addr 0)
  | .resolvable _ => none
  | .at l =>
    if !pathOpen s l.pkg then some (lostNotice s a l)
    else if l.pkg ≠ s.pkg then some (s.send (.arrival a false))
    else if !firmwareReady s l 32 then none
    else
      let s := noteLoc s ctx l 32
      let b := readBar s l.key
      if (readLoc s l 32).code.isSome || !b.valid || b.mode == 2 then some (logFray s 2 0 ctx (root % 2 ^ 32) addr 0)
      else some (applyArrival s a l b)

/-- A doubleword that the firmware stores for a SIGNAL, in a page with rd and wr (Table 24-5). -/
def signalStore (s : State) (ctx addr value : Nat) : Option State := match firmwareAt s ctx addr needBar with
  | .unresolvable => some s
  | _ => firmwareWrite s ctx addr (leBytes 8 value)

/-- A `WAKEA` that the firmware makes for a SIGNAL. -/
def signalWake (s : State) (ctx addr n : Nat) : Option State := match firmwareAt s ctx addr needRd with
  | .at l => if firmwareReady s l 8 then some (wakeaAt s l.key n) else none
  | .resolvable _ => none
  | .unresolvable => some s

/-- The rights that an address of SIGNAL or WAIT asks: a doubleword to be read, or a barrier or a doubleword to be written. -/
def signalNeed (reads : Bool) : Nat := if reads then needRd else needBar

/-- What a SIGNAL or WAIT waits for is asked for. -/
def askSignal (s : State) (ctx addr need : Nat) : State := match firmwareAt s ctx addr need with
  | .resolvable p => askRepair s ctx p
  | _ => s

/-- QUEUE_SIGNAL (R412). -/
def execQueueSignal (q : Nat) (s : State) : Out :=
  startCommand q 3 (fun raw => field raw 200 312 != 0) (fun s x raw =>
    let addr := field raw 64 64
    let value := field raw 128 64
    let kind := field raw 192 8
    if 2 < kind then .refuse 1
    else match signalCheck s x.ctx addr kind (signalNeed (kind == 2)) with
      | some f => .refuse f
      | none =>
        let va := resolve (segsOfCtx s x.ctx) addr
        let root := ((Tab.find s.ctxs x.ctx).map (·.root)).getD 0
        let made := match kind with
          | 0 => signalArrival s x.ctx root va value
          | 1 => signalStore s x.ctx va value
          | _ => signalWake s x.ctx va value
        match made with
        -- its number is that of the arrival, where that travels
        | some s1 => .go { s1 with nextId := Nat.max s1.nextId (s.nextId + 1) } { Started.blank x.head 3 with done := true, op := s.nextId }
        | none => .wait (askSignal s x.ctx va (signalNeed (kind == 2)))) s

/-- QUEUE_WAIT (R412). -/
def execQueueWait (q : Nat) (s : State) : Out :=
  startCommand q 4 (fun raw => field raw 200 312 != 0) (fun s x raw =>
    let addr := field raw 64 64
    let kind := field raw 192 8
    if 1 < kind then .refuse 1
    else match signalCheck s x.ctx addr kind (signalNeed (kind != 0)) with
      | some f => .refuse f
      | none => .go s { Started.blank x.head 4 with
          waitKind := kind, waitAddr := resolve (segsOfCtx s x.ctx) addr, waitVal := field raw 128 64 }) s

/-- QUEUE_TIMESTAMP (R412). -/
def execQueueTimestamp (q : Nat) (s : State) : Out :=
  startCommand q 5 (fun raw => field raw 128 384 != 0) (fun s x raw =>
    let addr := field raw 64 64
    if addr % 8 ≠ 0 then .refuse 3
    else if queueRange s x.ctx addr 8 needWr = false then .refuse 2
    else
      let va := resolve (segsOfCtx s x.ctx) addr
      match firmwareWrite s x.ctx va (leBytes 8 (timeBase s)) with
      | some s1 => .go s1 { Started.blank x.head 5 with done := true }
      | none => .wait (askWrite s x.ctx va)) s

/-! ### Completion (R413, R414) -/

/-- The bytes that a WAIT reads. -/
def waitSize (c : Started) : Nat := if c.waitKind = 0 then 32 else 8

/-- Whether a WAIT's condition holds at its address, with the code of a frayed barrier. -/
def waitHolds (s : State) (c : Started) (l : Loc) : Option Nat :=
  let r := readLoc s l (waitSize c)
  if r.code.isSome then none
  else if c.waitKind = 0 then
    let b := readBar s l.key
    if b.valid && decide (2 ≤ b.state ∧ b.state ≤ 4) then some (if b.state = 4 then b.code else 0) else none
  else if c.waitVal ≤ leNat r.bytes then some 0 else none

/-- A WAIT whose condition holds is done. -/
def waitDone (s : State) (q n : Nat) (x : Queue) (code : Nat) : State :=
  putStatus (doneCommand s q n 0) q { x with
    started := x.started.map fun y => if y.n = n then { y with done := true } else y
    -- what is no longer parked is not evicted (R410)
    evictable := x.evictable && x.started.any fun y => y.kind == 4 && !y.done && y.n != n
    lastFray := if code = 0 then x.lastFray else code }

/-- QUEUE_WAIT_SATISFIED (R412, R414): evaluated while the queue is mapped (R410). A page that is to come is asked for, and damage
that the read finds is corrected or recorded (R29). -/
def execQueueWaitSatisfied (q n : Nat) (s : State) : Out :=
  match Tab.find s.queues q with
  | none => .next s
  | some x => match x.started.find? fun c => c.n == n && c.kind == 4 && !c.done with
    | none => .next s
    | some c =>
      if x.held = false ∨ x.state = .mapped then .next s
      else match firmwareAt s x.ctx c.waitAddr (signalNeed (c.waitKind != 0)) with
        | .resolvable p => .next (askRepair s x.ctx p)
        | .unresolvable => .next s
        | .at l =>
          if !firmwareReady s l (waitSize c) then .next s
          else match waitHolds s c l with
            | none => .next (noteLoc s x.ctx l (waitSize c))
            | some code => .next (waitDone (noteLoc s x.ctx l (waitSize c)) q n x code)

/-- The arrivals of a command's engine operation, or of a SIGNAL, have all been made. -/
def arrivalsMade (s : State) (c : Started) : Bool := (c.kind != 2 && c.kind != 3) || s.flights.all fun p => match p.2 with
  | .arrival a _ => a.op != c.op
  | _ => true

/-- QUEUE_COMMAND_COMPLETE (R413, R415): a suspended context's kernels report no progress (R394). -/
def execQueueCommandComplete (q n : Nat) (s : State) : Out :=
  match Tab.find s.queues q with
  | none => .next s
  | some x => match x.started.find? fun c => c.n == n && c.done with
    | none => .next s
    | some c =>
      if arrivalsMade s c = false ∨ (c.kind = 1 ∧ ctxRuns s x.ctx = false) then .next s
      else
        let z := { x with started := x.started.filter fun y => y.n != n }
        let idle := x.state = .running ∧ settledQueue z
        let y := { z with done := x.done + 1, state := if idle then .idle else x.state
                          since := if idle then s.cycle else x.since, evictable := x.evictable && parkedOnWait z }
        .next (if idle then serveSlot (putStatus s q y) else putStatus s q y)

end Sys2Proof.Machine
end

