-- ==== Sys2Proof/Machine/EvTeardown.lean ====
section
/-! DEFINITION. TEARDOWN (R395): its first steps at once, its last when what the context has still on its way has ended. -/

namespace Sys2Proof.Machine

/-! ### Steps 1 to 4 and the queues -/

/-- Step 1: images discarded, cores released, regions freed without being saved. -/
def discardImages (s : State) (ctx : Nat) : State :=
  let free := fun (p : Nat × Region) =>
    let mine := fun i : Nat => (if p.1 < 2 ^ 16 then i / 4096 else i) == ctx
    (p.1, { p.2 with
      owner := p.2.owner.filter fun i => !mine i, saved := p.2.saved.filter fun i => !mine i
      saving := p.2.saving.filter fun i => !mine i, restoring := p.2.restoring.filter fun i => !mine i })
  let s1 := { s with
    cores := s.cores.map fun (p : Nat × Core) =>
      let a := p.2.arrivals.filter fun sid => sid / 32768 != ctx
      (p.1, if p.2.ctx = ctx ∧ p.2.mode ≠ CoreMode.idle then
        { Core.blank with ptr := p.2.ptr, last := p.2.last, steal := p.2.steal, arrivals := a, spent := p.2.spent }
        else { p.2 with arrivals := a })
    quads := s.quads.map fun (p : Nat × Quad) => (p.1, match p.2.busy with
      | some (_, o) => if o.sid / 32768 = ctx then { p.2 with busy := none } else p.2
      | none => p.2)
    images := dropOf s.images ctx 4096
    gangs := s.gangs.filter fun p => p.2.ctx != ctx }
  s1.setProt { s1.prot with regions := s1.prot.regions.map free }

/-- Steps 2 and 3: no strand waits anywhere, and the locks of each fray. -/
def releaseWaits (s : State) (ctx : Nat) : State :=
  (s.strands.filter fun p => p.2.ctx == ctx).foldl (fun s p => frayHeldLocks (withdraw s p.1) p.1 p.2) s

/-- Step 2: a strand runs no more; its record stays while a request of it is on its way (DESIGN CHOICE, log 83). -/
def Strand.retired (k : Strand) : Strand :=
  { k with phase := .cancelling, out := true, mail := [], stall := .none, run := none, pair := [] }

/-- Step 4: every engine operation is to stop at its next chunk, whatever its issuer's st.SD was. -/
def stopOps (s : State) (ctx : Nat) : State := { s with
  ops := s.ops.map fun (p : Nat × EngineOp) => (p.1, if p.2.ctx = ctx then { p.2 with marked := true, shielded := false } else p.2) }

/-- Requests to memory that have been issued, and arrivals, are not recalled; a page's repair goes on. The rest of what travels for a
context is dropped: held messages, returns of shares, wakes (R395 items 2, 4 and 5). -/
def keptFlight (f : Flight) : Bool := match f with
  | .remoteStore _ _ _ _ => true
  | .atomic _ _ => true
  | .atomicRet _ _ _ _ _ => true
  | .claim _ => true
  | .claimReply _ _ => true
  | .barrier _ _ _ _ => true
  | .lockUpdate _ _ _ _ => true
  | .arrival _ _ => true
  | .arrived _ _ => true
  | .stamped _ _ _ _ _ => true
  | .faultReq _ _ => true
  | .frayNotice _ _ _ => true
  | _ => false

/-- Step 6: the queues of a context are destroyed. -/
def destroyQueues (s : State) (ctx : Nat) : State :=
  serveSlot ((s.queues.filter fun p => p.2.ctx == ctx).foldl (fun s p => destroyQueue s p.1 p.2) s)

/-! ### The end -/

/-- Nothing of a context is on its way that its number has to wait for: an operation, an access to its pages (R376), an arrival, or a
shootdown. -/
def quiet (s : State) (ctx : Nat) : Bool :=
  (s.ops.all fun p => p.2.ctx != ctx) && (s.xlat.shootdowns.all fun x => x.ctx != ctx) &&
    s.flights.all fun p => flightCtx s p.2 != some ctx || !keptFlight p.2 || (match p.2 with
      | .faultReq _ _ => true
      | _ => false)

/-- The strands' records go, with what requests of theirs have come to hold meanwhile. -/
def retireAll (s : State) (ctx : Nat) : State :=
  let s1 := releaseWaits s ctx
  s1.setStrands (s1.strands.filter fun p => p.2.ctx != ctx)

/-- Steps 5 to 7: scopes, pages, kernels, queues and the number itself are freed. -/
def dropContext (s : State) (ctx : Nat) : State :=
  let s1 := cleanNumber s ctx
  { s1 with
    flights := s1.flights.filter fun p => flightCtx s1 p.2 != some ctx
    xlat := { s1.xlat with
      pages := dropOf s1.xlat.pages ctx (2 ^ 48)
      tlb := s1.xlat.tlb.map fun p => (p.1, p.2.filter fun e => e.ctx != ctx)
      repairs := s1.xlat.repairs.filter fun k => pageCtx k != ctx
      retire := s1.xlat.retire.filter fun k => pageCtx k != ctx }
    kernels := dropOf s1.kernels ctx (2 ^ 32)
    launches := dropOf s1.launches ctx (2 ^ 17)
    links := { s1.links with proxies := s1.links.proxies.filter fun p => p.2.ctx != ctx }
    ctxs := Tab.del s1.ctxs ctx }

/-- A TEARDOWN that waits ends when its context is quiet: the response comes with step 7 (R395). -/
def finishTeardown (s : State) (ctx : Nat) : State :=
  match (Tab.find s.ctxs ctx).bind (·.tearing) with
  | none => s
  | some tag =>
    if !quiet s ctx then s
    else
      let s1 := retireAll s ctx
      if quiet s1 ctx then respond (dropContext s1 ctx) 2 tag 0 0 else s1

/-- The TEARDOWNs in progress go on. -/
def finishTeardowns (s : State) : State := s.ctxs.foldl (fun s p => finishTeardown s p.1) s

/-- TEARDOWN (R395). -/
def execTeardown (tag ctx : Nat) (s : State) : Out :=
  scheduling ⟨0x06, tag, [ctx]⟩ s <|
    match Tab.find s.ctxs ctx with
    | none => refuse s 2 tag
    | some c =>
      let s1 := releaseWaits (discardImages (s.putCtx ctx { c with tearing := some tag }) ctx) ctx
      let s2 := stopOps (s1.setStrands (s1.strands.map fun (p : Nat × Strand) =>
        (p.1, if p.2.ctx = ctx then p.2.retired else p.2))) ctx
      let s3 := s2.setFlights (s2.flights.filter fun p => flightCtx s2 p.2 != some ctx || keptFlight p.2)
      finishTeardown (destroyQueues s3 ctx) ctx

end Sys2Proof.Machine
end

