-- ==== Sys2Proof/Machine/EvLink.lean ====
section
/-! DEFINITION. The Weave: flits (R418), ports (R419), paths and what is lost on them (R420 to R426), the host link (R427). -/

namespace Sys2Proof.Machine

def Port.blank : Port := ⟨.down, 0, 0, 0, [], [], false, 0, false, 0, 0, none, false⟩
def portAt (s : State) (p : Nat) : Port := Tab.get s.links.ports p Port.blank
def State.putPort (s : State) (p : Nat) (x : Port) : State := s.setLinks { s.links with ports := Tab.put s.links.ports p x }
def State.putPath (s : State) (p : Nat) (x : Path) : State := s.setLinks { s.links with paths := Tab.put s.links.paths p x }

/-- A port carries all traffic. -/
def portCarries (s : State) (p : Nat) : Bool := (portAt s p).state == .up || (portAt s p).state == .degraded

/-- The ports of a route, and whether one of them carries traffic (R421). -/
def routePorts (x : Path) : List Nat := (List.range 16).filter (bitOf x.ports)
def routeUp (s : State) (x : Path) : Bool := (routePorts x).any (portCarries s)

/-! ### Flits (R418) -/

/-- One bit of CRC-32 (IEEE 802.3), reflected. -/
def crcBit (c : Nat) : Nat := if c % 2 = 1 then (c / 2) ^^^ 0xEDB88320 else c / 2
def crcByte (c : Nat) (b : Byte) : Nat :=
  crcBit (crcBit (crcBit (crcBit (crcBit (crcBit (crcBit (crcBit (c ^^^ b.toNat))))))))
def crc32 (bs : List Byte) : Nat := (bs.foldl crcByte 0xFFFFFFFF) ^^^ 0xFFFFFFFF

/-- A flit as its 64 bytes spell it (Table 25-1). -/
def flitOf (seq ack kind credit cls payload : Nat) : Nat :=
  let body := seq % 2 ^ 16 + ack % 2 ^ 16 * 2 ^ 16 + kind % 256 * 2 ^ 32 + credit % 256 * 2 ^ 40 + cls % 256 * 2 ^ 48 +
    payload % 2 ^ 416 * 2 ^ 64
  body + crc32 (leBytes 60 body) * 2 ^ 480

/-- A port sends a flit, which its retry buffer keeps until the peer's ack covers it. It acknowledges what was accepted, and tells of
the receive buffers freed since the last: one for each accepted flit (DEDUCED, log 31). -/
def sendFlit (s : State) (p kind cls : Nat) : State :=
  let x := portAt s p
  let flit := flitOf (x.sendSeq + 1) x.recvSeq kind (Nat.min 255 x.freed) cls (Config.flitPayload s.fresh).toNat
  s.nextFree.putPort p { x with
    sendSeq := (x.sendSeq + 1) % 2 ^ 16, unacked := x.unacked ++ [flit], tries := x.tries ++ [(0, 0)], freed := 0, owes := false }

/-- A port can send one flit more: at most 256 are unacknowledged. -/
def flitRoom (x : Port) : Bool := decide (x.unacked.length < 256)

/-- A port sends what is no new operation (Table 25-2). -/
def portAnswers (x : Port) : Bool := flitRoom x && (x.state == .up || x.state == .degraded || x.state == .quiesced)

/-- A retry request that is due goes out. -/
def sendRetry (s : State) (p : Nat) : State :=
  let x := portAt s p
  if x.retryReq && portAnswers x then sendFlit (s.putPort p { x with retryReq := false }) p 3 0 else s

/-- The responses that the peer's operations await go out, as far as there is room (log 31). -/
def sendReplies (p : Nat) : Nat → State → State
  | 0, s => s
  | n + 1, s =>
    let x := portAt s p
    if x.replies = 0 ∨ portAnswers x = false then s
    else sendReplies p n (sendFlit (s.putPort p { x with replies := x.replies - 1 }) p 1 1)

/-- Where nothing else has gone out, an idle flit acknowledges what was accepted. -/
def sendIdle (s : State) (p : Nat) : State :=
  let x := portAt s p
  if x.owes && portAnswers x then sendFlit s p 0 0 else s

/-- What a port answers between turns. -/
def portTurn (s : State) (p : Nat) : State := sendIdle (sendReplies p (portAt s p).replies (sendRetry s p)) p

/-- A port trains: it carries control flits only (Table 25-2), and begins with one (log 31). -/
def trainPort (s : State) (p : Nat) (alternate : Bool) : State :=
  sendFlit (s.putPort p { portAt s p with
    state := .training, alternate := alternate, sendSeq := 0, recvSeq := 0, unacked := [], tries := [], retryReq := false, freed := 0
    owes := false, replies := 0 }) p 4 0

/-! ### What is on its way (R420, R423, R425) -/

/-- The package in which an address of a context lies. -/
def addrPackage (s : State) (ctx addr : Nat) : Option Nat :=
  if isSpread addr then some (ptrPkg addr) else (findPage s ctx addr).bind fun p =>
    if leafState p.2.leaf = 1 ∨ leafState p.2.leaf = 4 ∨ leafState p.2.leaf = 5 then some (leafPkg p.2.leaf) else none

/-- The package to which an item in flight is to travel, if it is a request. -/
def requestTo (s : State) (f : Flight) : Option Nat := match f with
  | .remoteLoad _ _ key _ _ _ => some (keyPackage s key)
  | .remoteStore _ _ w _ => some (keyPackage s w.key)
  | .vecLoad _ _ _ _ _ left _ _ => left.head?.map fun e => keyPackage s e.2
  | .atomic a _ => some a.loc.pkg
  | .claim c => if c.stage = 4 ∨ c.stage = 5 then some c.claim.loc.pkg else none
  | .barrier _ _ l _ => some l.pkg
  | .arrival a _ => addrPackage s a.ctx a.ptr
  | .msg m => some (field m.target 51 13)
  | .proxyCancel _ _ pkg => some pkg
  | _ => none

/-- The same, for another package. -/
def abroad (s : State) (f : Flight) : Option Nat := (requestTo s f).filter fun p => p != s.pkg

/-- An item that is a reply, or that is parked at its home: what it asked for has arrived. -/
def answered : Flight → Bool
  | .loadRet _ _ _ _ => true
  | .wrote _ _ _ => true
  | .arrived _ _ => true
  | .atomic _ parked => parked
  | .atomicRet _ _ _ _ _ => true
  | .claim c => c.stage == 5
  | .claimReply _ _ => true
  | .arrival _ parked => parked
  | .ack _ _ _ => true
  | .bwaitRet _ _ _ _ _ => true
  | .lockRet _ _ _ _ _ => true
  | _ => false

/-- The virtual issue of a gang member's request: it is sent in its turn (R221, R291). -/
def sendTurn (s : State) (id : Nat) : Flight → Bool
  | .remoteLoad _ _ key _ at_ _ => memberTurn s id key at_
  | .remoteStore _ _ w at_ => memberTurn s id w.key at_
  | .vecLoad _ _ _ _ _ ((_, key) :: _) at_ _ => memberTurn s id key at_
  | .atomic a _ => memberTurn s id a.loc.key a.at_
  | .claim c => memberTurn s id c.claim.loc.key c.claim.at_
  | _ => true

/-- The replies that have set out since the last turn. -/
def newReplies (s : State) : List Nat :=
  (s.flights.filter fun p => decide (s.links.tracked ≤ p.1) && answered p.2).map (·.1)

/-- The strand whose wait a request is: its reply comes when the wait ends (R192, R200, R205). -/
def waitOf : Flight → Option Nat
  | .barrier sid (.wait _) _ _ => some sid
  | .barrier sid (.lock _) _ _ => some sid
  | .barrier sid (.waita _ _ _) _ _ => some sid
  | _ => none

/-- A strand still waits for a barrier, a lock or a doubleword. -/
def stillWaits (s : State) (sid : Nat) : Bool := (Tab.find s.strands sid).any fun k => match k.phase with
  | .parked (.bwait _) => true
  | .parked (.lock _) => true
  | .parked (.waita _) => true
  | _ => false

/-- A request that has been performed is over, or hands on to its reply; a wait is in flight until it ends (R423). -/
def followSent (s : State) : State :=
  let replies := newReplies s
  let next := fun (e : Sent) => match Tab.find s.flights e.id, e.waits with
    | some f, _ => [if answered f then { e with there := true } else e]
    | none, some sid => if stillWaits s sid then [{ e with there := true }] else []
    | none, none => if e.there then [] else replies.map fun id => { e with id := id, there := true }
  s.setLinks { s.links with sent := s.links.sent.flatMap next }

/-- Requests for open paths join those that are to be sent, in their order. -/
def joinSent (s : State) : State :=
  let fresh := s.flights.filterMap fun p => if s.links.sent.any fun e => e.id == p.1 then none else
    (abroad s p.2).bind fun pkg => if pathOpen s pkg then some (⟨p.1, pkg, none, false, waitOf p.2⟩ : Sent) else none
  s.setLinks { s.links with sent := s.links.sent ++ fresh }

/-- The ports that can take one more operation of a path: those of its route that carry traffic, with no QUIESCE and room in their
retry buffers. -/
def portsFor (s : State) (pkg : Nat) : List Nat := match Tab.find s.links.paths pkg with
  | some x => (routePorts x).filter fun p => portCarries s p && (portAt s p).quiescing.isNone && flitRoom (portAt s p)
  | none => []

/-- The first flit of an operation goes out on a port of its route: which one is the turn's choice (R420, log 16). -/
def sendOne (s : State) (e : Sent) : State :=
  match Tab.find s.flights e.id with
  | none => s
  | some f =>
    let ps := portsFor s e.pkg
    if ps.isEmpty || !sendTurn s e.id f then s
    else
      let p := ps.getD ((s.pick + e.id) % ps.length) 0
      let s1 := sendFlit s p 1 (match f with
        | .proxyCancel _ _ _ => 2
        | _ => 0)
      let rest := s1.links.sent.filter fun x => x.id != e.id
      s1.setLinks { s1.links with sent :=
        (rest.filter fun x => x.port.isSome) ++ [{ e with port := some p }] ++ (rest.filter fun x => x.port.isNone) }

/-- A flit of what an engine has moved goes out on a port of its path, or waits for room; over a dead path it is lost. -/
def sendMoved (s : State) (x : Nat × Nat × Nat) : State :=
  let ps := portsFor s x.1
  if !pathOpen s x.1 then s
  else if ps.isEmpty then s.setLinks { s.links with flits := s.links.flits ++ [x] }
  else sendFlit s (ps.getD (s.pick % ps.length) 0) x.2.1 x.2.2

/-- What the links do between turns: operations and what the engines move go out, then what the ports answer (R418, R420). -/
def linkTurn (s : State) : State :=
  let s1 := if s.links.paths.isEmpty then s else
    let s0 := joinSent (followSent s)
    let s1 := (s0.links.sent.filter fun e => e.port.isNone).foldl sendOne s0
    s1.links.flits.foldl sendMoved (s1.setLinks { s1.links with flits := [] })
  (s1.links.ports.map (·.1)).foldl portTurn s1

/-- The replies of the turn that begins are numbered from here on. -/
def trackReplies (s : State) : State := if s.links.paths.isEmpty then s else s.setLinks { s.links with tracked := s.nextId }

/-- An item may be taken at its destination: another package applies the operations of a path in the order in which they were sent
(R425). -/
def mayArrive (s : State) (id : Nat) : Bool :=
  match (Tab.find s.flights id).bind (abroad s) with
  | none => true
  | some pkg => !pathOpen s pkg || (match s.links.sent.find? fun e => e.id == id with
    | some e => e.there || (e.port.isSome &&
        (s.links.sent.takeWhile fun x => x.id != id).all fun x => x.pkg != pkg || x.there)
    | none => false)

/-! ### A path enters dead (R421, R423) -/

/-- The state of an outcome that goes on. -/
def outState (s : State) : Out → State
  | .next t => t
  | _ => s

/-- A reply on its way back over the dead path is lost: its registers are filled frayed with code 3, and a wait is answered 3
(R423, R424). -/
def loseReply (s : State) (id : Nat) (f : Flight) : State := match f with
  | .loadRet sid gen fills due =>
    s.nextFree.putFlight id (.loadRet sid gen (fills.map fun x => ⟨x.reg, s.free, true, 3⟩) due)
  | .ack sid gen x => s.nextFree.putFlight id (.ack sid gen ⟨x.reg, s.free, true, 3⟩)
  | .bwaitRet sid gen d _ vec => s.putFlight id (.bwaitRet sid gen d 3 vec)
  | .lockRet sid gen d _ vec => s.putFlight id (.lockRet sid gen d 3 vec)
  | _ => s

/-- The step that ends an item in flight toward a package: over a dead path it is lost with the outcome of Table 25-4. -/
def loseFlight (pkg : Nat) (s : State) (p : Nat × Flight) : State :=
  match p.2 with
  | .remoteLoad _ _ key _ _ _ => if keyPackage s key = pkg then outState s (execRemoteScratchpadRequest p.1 s) else s
  | .remoteStore _ _ w _ => if keyPackage s w.key = pkg then outState s (execRemoteScratchpadRequest p.1 s) else s
  | .wrote sid gen q => if q = pkg then loseWrite (s.delFlight p.1) sid gen pkg else s
  | .vecLoad sid gen d t got left at_ due => if left.any fun e => keyPackage s e.2 == pkg then
      sendVector (s.delFlight p.1).nextFree sid gen d t ((left.filter fun e => keyPackage s e.2 == pkg).foldl
        (fun g e => Tab.put g e.1 (s.free.toNat, some 3)) got) (left.filter fun e => keyPackage s e.2 != pkg) at_ due else s
  | .atomic a _ =>
    if a.loc.pkg = pkg then outState s (execAtomicAtHome p.1 (s.putFlight p.1 (.atomic a false))) else s
  -- one that is parked there too (R319, R321)
  | .claim c => if (c.stage = 4 ∨ c.stage = 5) ∧ c.claim.loc.pkg = pkg then
      outState s (execAtomicAtHome p.1 (s.putFlight p.1 (.claim { c with stage := 4 }))) else s
  -- a reply that is lost on its way back (R319)
  | .atomicRet sid gen f _ from_ =>
    if from_ = pkg then s.nextFree.putFlight p.1 (.atomicRet sid gen ⟨f.reg, s.free, true, 3⟩ 0 s.pkg) else s
  | .claimReply c f =>
    if c.claim.loc.pkg = pkg then s.nextFree.putFlight p.1 (.claimReply c ⟨f.reg, s.free, true, 3⟩) else s
  | .msg m => if field m.target 51 13 = pkg then outState s (execMessageArrival p.1 s) else s
  | .barrier _ _ l _ => if l.pkg = pkg then outState s (execBarrierHomeOperation p.1 s) else s
  | .arrival a _ =>
    if addrPackage s a.ctx a.ptr = some pkg then outState s (execEngineArrival p.1 (s.putFlight p.1 (.arrival a false))) else s
  | .arrived a l => if l.pkg = pkg then lostNotice (s.delFlight p.1) a l else s
  | f => if s.links.sent.any fun e => e.pkg == pkg && (e.id == p.1 || e.waits.any (f.repliesTo ·)) then loseReply s p.1 f else s

/-- A `WAITA` on a doubleword beyond the dead path ends with g[d] frayed, code 3 (R205). -/
def loseMonitor (s : State) (m : Monitor) : State := match Tab.find s.strands m.sid with
  | some k => endWaita s.nextFree m k s.free (some 3)
  | none => s

/-- The waiters recorded beyond the path are answered 3 (R207, R424). -/
def answerWaiters (s : State) (pkg : Nat) : State :=
  let there := fun key : Nat => keyPackage s key == pkg
  let bars := (s.sync.waiters.filter fun p => there p.1).map (·.1)
  let locks := (s.sync.queues.filter fun p => there p.1).map (·.1)
  let mons := s.sync.monitors.filter fun m => m.loc.pkg == pkg
  mons.foldl loseMonitor (locks.foldl (fun s key => wakeQueue s key 3) (bars.foldl (fun s key => wakeAll s key 3) s))

/-- The units of each scope that were outstanding in the package are restored, and the scope frays with code 3 (R168). -/
def restoreUnits (s : State) (pkg : Nat) : State :=
  (s.groups.scopes.filter fun p => Tab.get p.2.remotes pkg 0 != 0).foldl (fun s p =>
    match Tab.find s.groups.scopes p.1 with
    | none => s
    | some r =>
      let n := Tab.get r.remotes pkg 0
      let ctx := p.1 / 2 ^ 17
      closeIfEmpty (frayScope (s.putList p.1 { r with units := r.units + n, remotes := Tab.put r.remotes pkg 0 }) ctx r.handle 3)
        ctx r.handle) s

/-- Returns on their way from the package are discarded, and so will be those of the shares that are still there (R168). -/
def dropReturns (s : State) (pkg : Nat) : State :=
  let s1 := s.setFlights (s.flights.filter fun p => match p.2 with
    | .share _ _ _ from_ => from_ != pkg
    | _ => true)
  { s1 with ops := s1.ops.map fun (p : Nat × EngineOp) =>
      (p.1, if p.2.away = some pkg then { p.2 with away := some noPackage } else p.2) }

/-- A copy or selection at work reads or writes in a package: some byte of its two sides, or of its region and the most that it can
write, lies there (Table 25-4). -/
def opMeets (s : State) (o : EngineOp) (pkg : Nat) : Bool :=
  let side := fun (dst : Bool) (j : Nat) => (if dst then o.dspace else o.sspace) == 0 &&
    addrPackage s o.ctx (addp (if dst then o.dst else o.src) (streamOff o dst j)) == some pkg
  match o.sel with
  | none => (List.range o.size).any fun j => side false j || side true j
  | some d => ((List.range (Sel.total d)).any fun i => addrPackage s o.ctx (addp o.src (Sel.offset d i)) == some pkg) ||
      (List.range (Sel.outMax d)).any fun i => addrPackage s o.ctx (addp o.dst i) == some pkg

/-- An engine reads or writes another package for an operation (R423). -/
def opWorks (s : State) (pkg : Nat) (o : EngineOp) : Bool := o.state == .active && o.mode.isSome && opMeets s o pkg

/-- The operations at work in a package are to fail with code 3, whether or not its path reopens (R311, R339, Table 25-4). -/
def cutOps (s : State) (pkg : Nat) : State := { s with
  ops := s.ops.map fun p => (p.1, if opWorks s pkg p.2 ∧ p.2.cut = none then { p.2 with cut := some 3 } else p.2) }

/-- The path to a package enters dead (R421): R168, R207, R423, and the proxies of that home, with nothing that they cover (R426, log
31). Lines on their way from it are lost. -/
def killPath (s : State) (pkg : Nat) (x : Path) : State :=
  let s1 := (cutOps s pkg).putPath pkg { x with state := .dead }
  let s2 := restoreUnits s1 pkg
  let s3 := s2.flights.foldl (loseFlight pkg) s2
  let s4 := dropReturns (answerWaiters s3 pkg) pkg
  (s4.setCaches { s4.caches with fills := s4.caches.fills.filter fun p => p.2.2.base / 2 ^ 39 != pkg }).setLinks { s4.links with
    proxies := s4.links.proxies.filter fun p => p.2.pkg != pkg && p.2.home != pkg
    sent := s4.links.sent.filter fun e => e.pkg != pkg, flits := s4.links.flits.filter fun e => e.1 != pkg }

/-- Open paths without a port that carries traffic enter dead (R421). -/
def checkPaths (s : State) : State :=
  (s.links.paths.filter fun p => p.2.state == .open && !routeUp s p.2).foldl (fun s p => killPath s p.1 p.2) s

/-- An engine reads or writes another package for some operation. -/
def engineWorks (s : State) (pkg : Nat) : Bool := s.ops.any fun p => opWorks s pkg p.2

/-- An operation of the path to a package is in flight over a port (R423). Which port an engine's accesses went over is the turn's
choice (R420, log 16). -/
def inFlightOver (s : State) (p pkg : Nat) : Bool :=
  (s.links.sent.any fun e => e.pkg == pkg && e.port == some p) || (engineWorks s pkg && bitOf s.pick (pkg % 64))

/-- A port enters dead (R419): a path with an operation in flight over it dies, and so does one left without a port (R421). -/
def killPort (s : State) (p : Nat) : State :=
  let hit := s.links.paths.filter fun x => x.2.state == .open && bitOf x.2.ports p && inFlightOver s p x.1
  let x := portAt s p
  let s1 := s.putPort p { x with
    state := .dead, lanes := 0, unacked := [], tries := [], retryReq := false, freed := 0, owes := false, replies := 0, quiescing := none }
  -- a QUIESCE that waits for the port is refused (DESIGN CHOICE, log 85)
  let s2 := match x.quiescing with
    | some tag => refuse s1 5 tag
    | none => s1
  checkPaths (if x.state == .quiesced then s2 else hit.foldl (fun s y => killPath s y.1 y.2) s2)

/-! ### Flits that arrive (R418) -/

/-- A flit whose CRC checks and whose sequence number is the next in order. -/
def flitAccepted (x : Port) (flit : Nat) : Bool :=
  crc32 (leBytes 60 flit) == field flit 480 32 && field flit 0 16 == (x.recvSeq + 1) % 2 ^ 16

/-- The flits that a peer's ack does not cover: those after it in order, modulo 2^16. -/
def afterAck (ack : Nat) (us : List Nat) : List Nat := us.filter fun f =>
  let q := f % 2 ^ 16
  decide (0 < (q + 2 ^ 16 - ack) % 2 ^ 16 ∧ (q + 2 ^ 16 - ack) % 2 ^ 16 < 2 ^ 15)

/-- A QUIESCE that waits is done once every flit sent is acknowledged and nothing is in flight over the port (R419, R428). -/
def finishQuiesce (s : State) (p : Nat) : State :=
  let x := portAt s p
  match x.quiescing with
  | some tag =>
    if x.unacked = [] ∧ (s.links.sent.all fun e => e.port != some p) then
      checkPaths (respond (s.putPort p { x with state := .quiesced, quiescing := none }) 5 tag 0 0)
    else s
  | none => s

/-- The QUIESCEs in progress go on. -/
def finishQuiesces (s : State) : State := s.links.ports.foldl (fun s p => finishQuiesce s p.1) s

/-- The port after a flit that it accepts: what the ack covers has left the retry buffer; a retry request has the rest of it replayed,
which counts as a retry of each (R418, R419). A first flit that is no response is an operation that awaits one (R423). -/
def Port.accept (x : Port) (now flit : Nat) : Port :=
  let left := afterAck (field flit 16 16) x.unacked
  let tries := x.tries.drop (x.unacked.length - left.length)
  let kind := field flit 32 8
  { x with
    recvSeq := field flit 0 16, retryReq := false, heard := now, unacked := left
    tries := if kind = 3 then tries.map fun p => (p.1 + 1, p.2 + 1) else tries
    freed := x.freed + 1, owes := x.owes || kind != 0
    replies := if kind = 1 ∧ field flit 48 8 ≠ 1 then x.replies + 1 else x.replies }

/-- FLIT_RECEIVE (R418): a flit of 64 bytes is accepted or answered with a retry request; a port that trains takes control flits only
(Table 25-2). What the payload asks for is not described, so it has no further effect (log 31). -/
def execFlitReceive (port : Nat) (bytes : List Nat) (s : State) : Out :=
  let flit := leNat ((bytes.take 64).map (BitVec.ofNat 8))
  let x := portAt s port
  if x.state = .down ∨ x.state = .dead ∨ 16 ≤ port ∨ (x.state = .training ∧ field flit 32 8 ≠ 4) then .next s
  else if !flitAccepted x flit then .next (s.putPort port { x with retryReq := true, heard := s.cycle })
  else .next (finishQuiesce (s.putPort port (x.accept s.cycle flit)) port)

/-- The idle flit with which a peer acknowledges everything that a port has sent: the default agenda's answer (log 1). -/
def peerAck (x : Port) : List Nat := (leBytes 64 (flitOf (x.recvSeq + 1) x.sendSeq 0 0 0 0)).map (·.toNat)

/-! ### Ports (R419) -/

/-- LANE_REMOVAL (Table 25-3): a flit retried 16 times on the lanes that were left; fewer than four lanes are not kept. -/
def execLaneRemoval (port : Nat) (s : State) : Out :=
  let x := portAt s port
  if (x.state = .up ∨ x.state = .degraded) ∧ x.tries.any fun p => decide (16 ≤ p.1) then
    if x.lanes ≤ 4 then .next (killPort s port)
    else .next (s.putPort port { x with state := .degraded, lanes := x.lanes - 1, tries := x.tries.map fun p => (0, p.2) })
  else .next s

/-- PORT_RETRY_LIMIT (Table 25-3): a flit retried 64 times in all. -/
def execPortRetryLimit (port : Nat) (s : State) : Out :=
  let x := portAt s port
  if (x.state = .up ∨ x.state = .degraded) ∧ x.tries.any fun p => decide (64 ≤ p.2) then .next (killPort s port) else .next s

/-- PORT_SILENCE_TIMEOUT (Table 25-3): 10 µs, which is 25,000 cycles, without a flit from the peer. -/
def execPortSilenceTimeout (port : Nat) (s : State) : Out :=
  let x := portAt s port
  if (x.state = .up ∨ x.state = .degraded ∨ x.state = .quiesced) ∧ x.heard + 25000 ≤ s.cycle then .next (killPort s port)
  else .next s

/-- The journal's value of a step's unit (log 32). -/
def stepValue (step unit : Nat) : Nat := step * 2 ^ 20 + unit % 2 ^ 20

/-- A port as training leaves it, with a number of lanes aligned. -/
def Port.trained (x : Port) (now lanes : Nat) (state : PortState) : Port := { x with
  state := state, lanes := Nat.min lanes 8, heard := now, sendSeq := 0, recvSeq := 0, unacked := [], tries := [], retryReq := false
  freed := 0, owes := false, replies := 0 }

/-- PORT_TRAINING_DONE (Table 25-3): a failure goes to the boot journal as kind 2, and one of the alternate lane map as that of an
alternate; at step 6 of a boot a port's success goes there too (R443). -/
def execPortTrainingDone (port lanes : Nat) (s : State) : Out :=
  let x := portAt s port
  if x.state ≠ .training then .next s
  else if 4 ≤ lanes then
    let s1 := s.putPort port (x.trained s.cycle lanes (if 8 ≤ lanes then .up else .degraded))
    .next (if s.sys.boot = 6 then stageJournal s1 4 (stepValue 6 port) else s1)
  else
    let s1 := s.putPort port (x.trained s.cycle 0 .down)
    .next (if x.alternate then stageJournal s1 8 (stepValue 6 port) else stageJournal s1 2 port)

/-! ### Paths, notices and proxies -/

/-- The fray notices that wait for a package's next epoch. -/
def pendingNotices (s : State) (pkg : Nat) : Bool := s.flights.any fun p => match p.2 with
  | .frayNotice _ q _ => q == pkg
  | _ => false

/-- PATH_REOPEN (R421): with the next epoch, after the notices that come before its first operation (R424). -/
def execPathReopen (pkg : Nat) (s : State) : Out :=
  match Tab.find s.links.paths pkg with
  | some x =>
    if x.state = .dead ∧ routeUp s x ∧ pendingNotices s pkg = false then
      .next (s.putPath pkg { x with state := .open, epoch := x.epoch + 1 })
    else .next s
  | none => .next s

/-- A notice frays the barrier at a key with code 3 (R191). An object that holds poison or an uncorrectable word, or is malformed, stays
as it is: no data of it is taken for sound (R29); its waiters are answered all the same (DESIGN CHOICE, log 87). -/
def noticeBar (s : State) (ctx key : Nat) (who : Actor) : State :=
  let s1 := noteDamage s ctx key 32
  let b := readBar s1 key
  if (readAt s1 key 32).code.isSome || !b.valid then wakeQueue (wakeAll s1 key 3) key 3 else frayBar s1 key b 3 who

/-- FRAY_NOTICE (R424): the barrier frays with code 3; in a page shared between contexts the notice is withheld. -/
def execFrayNotice (id : Nat) (s : State) : Out :=
  match Tab.find s.flights id with
  | some (.frayNotice a pkg _) =>
    match Tab.find s.links.paths pkg with
    | some x =>
      if routeUp s x then
        let s1 := s.delFlight id
        if a.tainted then
          .next (if (findScope s1 a.ctx a.selvedge).isSome then countWithheld s1 a.ctx a.selvedge a.ptr 3
            else logFray s1 3 3 a.ctx a.selvedge a.ptr 0)
        else .next (noticeBar s1 a.ctx a.op ⟨a.ctx, a.scope % 2 ^ 32, a.ptr⟩)
      else .next s
    | none => .next s
  | _ => .next s

/-- The messages of a scope that another package holds end with its proxy's cancel (R147, R165, R426). -/
def dropAbroad (s : State) (ctx scope pkg : Nat) : State :=
  let there := s.flights.filterMap fun p => match p.2 with
    | .msg m => if m.ctx == ctx && m.scope == scope && field m.target 51 13 == pkg && pkg != s.pkg then some (p.1, m) else none
    | _ => none
  there.foldl (fun s p => dropMsg (s.delFlight p.1) p.2 2) s

/-- PROXY_CANCEL (R426): the proxy records of the scope are cancelled; over a dead path nothing arrives. -/
def execProxyCancel (id : Nat) (s : State) : Out :=
  match Tab.find s.flights id with
  | some (.proxyCancel ctx scope pkg) =>
    if !pathOpen s pkg then .next (s.delFlight id) else
    let s1 := dropAbroad (s.delFlight id) ctx scope pkg
    .next (s1.setLinks { s1.links with proxies := s1.links.proxies.map fun (p : Nat × Proxy) =>
      (p.1, if p.2.ctx = ctx ∧ p.2.scope = scope ∧ p.2.pkg = pkg then { p.2 with cancelled := true } else p.2) })
  | _ => .next s

/-- HOST_LINK_DOWN (R427): wake writes and host traffic stop; work already started runs on. -/
def execHostLinkDown (s : State) : Out := .next (s.setLinks { s.links with hostUp := false })

/-! ### Commands of the link-management core (R419, R420) -/

/-- A command of the link-management core, which takes none while a QUIESCE waits (R440). -/
def linking (c : FirmCommand) (s : State) (body : State) : Out :=
  command s (if s.links.ports.any fun p => p.2.quiescing.isSome then retake s 5 c else body)

/-- QUIESCE (R419). -/
def execQuiesce (tag port : Nat) (s : State) : Out :=
  linking ⟨0x40, tag, [port]⟩ s <|
    let x := portAt s port
    if port < 16 ∧ (x.state = .up ∨ x.state = .degraded) then finishQuiesce (s.putPort port { x with quiescing := some tag }) port
    else refuse s 5 tag

/-- UNQUIESCE (R419). -/
def execUnquiesce (tag port : Nat) (s : State) : Out :=
  linking ⟨0x41, tag, [port]⟩ s <|
    let x := portAt s port
    if port < 16 ∧ x.state = .quiesced then
      respond (s.putPort port { x with state := if x.lanes = 8 then .up else .degraded }) 5 tag 0 0
    else refuse s 5 tag

/-- RETRAIN (R419): training starts. -/
def execRetrain (tag port : Nat) (s : State) : Out :=
  linking ⟨0x42, tag, [port]⟩ s <|
    let x := portAt s port
    if port < 16 ∧ (x.state = .down ∨ x.state = .quiesced ∨ x.state = .dead) then
      respond (trainPort s port x.alternate) 5 tag 0 0
    else refuse s 5 tag

/-- ROUTE (R420): a path begins open with epoch 0 where a port of its route carries traffic; notices that wait for it come before its
first operation (R424). -/
def execRoute (tag pkg mask : Nat) (s : State) : Out :=
  linking ⟨0x43, tag, [pkg, mask]⟩ s <|
    if pkg = s.pkg ∨ 4607 < pkg ∨ 2 ^ 16 ≤ mask then refuse s 5 tag
    else match Tab.find s.links.paths pkg with
      | some x => respond (checkPaths (s.putPath pkg { x with ports := mask })) 5 tag 0 0
      | none =>
        let x : Path := ⟨.open, 0, mask⟩
        respond (s.putPath pkg (if routeUp s x && !pendingNotices s pkg then x else { x with state := .dead })) 5 tag 0 0

end Sys2Proof.Machine
end

