-- ==== Sys2Proof/Machine/EvBoot.lean ====
section
/-! DEFINITION. Bring-up and management: reset and boot (R442, R443), the fray log's reader (R362), power (R447, R448), snapshots
(R446) and the registers of the host's BARs (R440). -/

namespace Sys2Proof.Machine

/-! ### The capability list (R445) -/

/-- The payloads of Table 27-5 that change, by id: usable quads, ports, power. -/
def capState (s : State) : List Nat :=
  let out := popCount 1024 (fusedMask s)
  let ports := (List.range 16).foldl (fun m p => if portCarries s p then m + 2 ^ p else m) 0
  [1024 - out, ports, s.sys.power % 16 + 16 * (s.sys.powerNext.getD 15 % 16)]

/-- The entries of the list: an id and its payload. All eight dies are present, and the doorbell window begins with BAR2. -/
def capEntries (s : State) : List (Nat × Nat) :=
  let c := capState s
  [(1, s.pkg % 2 ^ 13 + 255 * 2 ^ 16), (2, 0), (3, c.getD 0 0), (4, c.getD 1 0), (5, c.getD 2 0), (6, Config.identityOffset.toNat)]

/-- The list as its 16-byte entries spell it (Table 27-4). -/
def capBytes (s : State) : List Byte :=
  let es := capEntries s
  (List.range es.length).flatMap fun i =>
    let e := es.getD i (0, 0)
    leBytes 2 e.1 ++ leBytes 2 0 ++ leBytes 4 (if i + 1 = es.length then 0 else 16 * (i + 1)) ++ leBytes 8 e.2

/-- The list stands in device memory as the firmware keeps it (R442 step 8): an agent's write like any other (R205). -/
def publish (s : State) : State :=
  putBytes (s.setSys { s.sys with published := capState s }) Config.capFrame.toNat (capBytes s)

/-- The list in device memory follows what it describes (R445). -/
def republish (s : State) : State := if s.sys.boot = 9 ∧ s.sys.published ≠ capState s then publish s else s

/-! ### Boot (R442, R443) -/

/-- The unit of a step as a whole: a number that no bank and no port has where the step acts on each (R443). -/
def wholeStep (step : Nat) : Nat := if step = 3 ∨ step = 6 then 2 ^ 20 - 1 else 0

/-- The outcome that a record of the journal holds of a step's unit: a port that failed to train has a kind of its own (Table 25-3).
Kinds: 1 row remapped, 2 port training failed, 3 step begun, 4 step done, 5 step failed, 7 step skipped, 8 the alternate failed; a
step's value is step * 2^20 + unit, and steps 3 and 6 as wholes have the unit `wholeStep` (log 32). -/
def outcomeIn (step unit : Nat) (e : Nat × Nat) : Option Nat :=
  if e.2 = stepValue step unit ∧ (e.1 = 4 ∨ e.1 = 5 ∨ e.1 = 7 ∨ e.1 = 8) then some e.1
  else if step = 6 ∧ e.1 = 2 ∧ e.2 = unit then some 5
  else none

/-- The last outcome that the journal holds of a step's unit. -/
def lastOutcome (s : State) (step unit : Nat) : Option Nat :=
  ((s.sys.journal ++ s.sys.staged).filterMap (outcomeIn step unit)).getLast?

/-- A unit whose last outcome is a failure runs its alternate; one whose alternate has failed too is skipped (R443). -/
def usesAlternate (s : State) (step unit : Nat) : Bool := lastOutcome s step unit == some 5
def isSkipped (s : State) (step unit : Nat) : Bool := lastOutcome s step unit == some 8 || lastOutcome s step unit == some 7

/-- A port begins to train at step 6, with the alternate lane map after a failure (Table 25-3), or is skipped. -/
def beginPort (s : State) (p : Nat) : State :=
  if isSkipped s 6 p then stageJournal s 7 (stepValue 6 p)
  else stageJournal (trainPort s p (usesAlternate s 6 p)) 3 (stepValue 6 p)

/-- The banks whose march test failed at an earlier start: this one leaves them out (Table 27-3, step 3). A bank left out is not tested,
so that its failure stays its last outcome (DESIGN CHOICE, log 32). -/
def failedBanks (s : State) : List Nat :=
  (((s.sys.journal ++ s.sys.staged).filterMap fun e =>
    if (e.1 = 5 ∨ e.1 = 7 ∨ e.1 = 8) ∧ e.2 / 2 ^ 20 = 3 then some (e.2 % 2 ^ 20) else none).filter
    fun u => usesAlternate s 3 u || isSkipped s 3 u).dedup

/-- Step 3 leaves the failed banks out; one whose alternate has failed too is recorded as skipped (R443). -/
def leaveOut (s : State) (banks : List Nat) : State :=
  (banks.filter (isSkipped s 3)).foldl (fun s u => stageJournal s 7 (stepValue 3 u)) (s.setSys { s.sys with fused := banks })

/-- A step runs, or its alternate: the second image bank, banks fused off, the ports, a lower rate (Table 27-3). -/
def enterStep (s : State) (step : Nat) : State :=
  let s1 := stageJournal (s.setSys { s.sys with boot := step }) 3 (stepValue step (wholeStep step))
  if step = 1 then s1.setSys { s1.sys with bank := if usesAlternate s 1 0 then 1 else 0 }
  else if step = 3 then leaveOut s1 (failedBanks s)
  else if step = 6 then (List.range 16).foldl beginPort s1
  else if step = 7 then s1.setLinks { s1.links with rate := if usesAlternate s 7 0 then 1 else 2 }
  else s1

/-- The next step begins; 1 and 7 are skipped once their alternate has failed (R443). -/
def beginStep (s : State) (step : Nat) : State :=
  if (step = 1 ∨ step = 7) ∧ isSkipped s step 0 then enterStep (stageJournal s 7 (stepValue step 0)) (step + 1) else enterStep s step

/-- The host port trains to the step's rate or a lower one, and to a width of 16, 8 or 4 lanes: which is the turn's choice (R427, log
16). -/
def trainHost (s : State) : State := s.setLinks { s.links with
  hostUp := true, rate := s.links.rate - s.pick % (s.links.rate + 1), width := 16 / 2 ^ (s.pick / 3 % 3) }

/-- The remap entries of the journal, loaded into the CAMs at step 4 (R364). -/
def loadRemaps (s : State) : State :=
  let entries := (s.sys.journal ++ s.sys.staged).filter fun e => e.1 == 1
  s.setProt { s.prot with remap := entries.foldl (fun t e => Tab.put t (e.2 / 2 ^ 25) (e.2 % 2 ^ 25)) s.prot.remap }

/-- The effect of a step that ends well. -/
def stepEffect (s : State) (step : Nat) : State :=
  if step = 4 then loadRemaps s
  else if step = 7 then trainHost s
  else if step = 8 then publish s
  else s

/-- The next step, or the end of the boot. -/
def nextStepOf (s : State) (step : Nat) : State :=
  if step = 8 then s.setSys { s.sys with boot := 9 } else beginStep s (step + 1)

/-- Step 6 is under way while a port trains. -/
def portsTrain (s : State) : Bool := s.links.ports.any fun p => p.2.state == .training

/-- The steps that have an alternate (Table 27-3). -/
def hasAlternate (step : Nat) : Bool := step == 1 || step == 3 || step == 6 || step == 7

/-- BOOT_STEP_DONE (R442): a failure is journalled. Steps 3 and 6 go on with their other units, and step 7 leaves the package
without a host link until a start runs its alternate; any other failure holds the package in reset (log 32). -/
def execBootStepDone (unit ok : Nat) (s : State) : Out :=
  let step := s.sys.boot
  if step = 0 ∨ 8 < step ∨ s.sys.powerFail then .next s
  else if ok ≠ 0 then
    if step = 6 ∧ portsTrain s then .next s
    else .next (nextStepOf (stepEffect (stageJournal s 4 (stepValue step (wholeStep step))) step) step)
  else if step = 6 then execPortTrainingDone unit 0 s
  else
    let u := if step = 3 then unit else 0
    let s1 := stageJournal s (if hasAlternate step ∧ (usesAlternate s step u ∨ isSkipped s step u) then 8 else 5) (stepValue step u)
    if step = 3 then .next s1
    else if step = 7 then .next (nextStepOf s1 step)
    else .next (s1.setSys { s1.sys with boot := 0 })

/-- What board flash, the recorded package fault (R225) and the package's wiring keep over a reset; the cycles count from it
(R122). -/
def bootAfresh (s : State) : State :=
  let kept := if s.sys.powerFail ∧ s.sys.drained = false then [] else s.sys.staged
  -- a drained buffer is committed before step 1 (R448)
  let journal := if s.sys.drained then s.sys.journal ++ kept else s.sys.journal
  { State.reset with
    turns := s.turns, rot := s.rot, pick := s.pick, fresh := s.fresh, nextId := s.nextId, pkg := s.pkg
    sys := { State.reset.sys with
      journal := journal.drop (journal.length - 4096), staged := if s.sys.drained then [] else kept, flash := s.sys.flash
      faultLink := s.sys.faultLink } }

/-- RESET (R442): the boot sequence starts. -/
def execReset (s : State) : Out := .next (beginStep (bootAfresh s) 1)

/-- JOURNAL_COMMIT (R443): the oldest staged record goes to the ring of 4,096. -/
def execJournalCommit (s : State) : Out :=
  match s.sys.staged with
  | [] => .next s
  | e :: es =>
    let j := s.sys.journal ++ [e]
    .next (s.setSys { s.sys with journal := j.drop (j.length - 4096), staged := es })

/-! ### Mailboxes and registers (R362, R440) -/

/-- A fray log entry as its 32 bytes spell it (Table 19-6). -/
def LogEntry.word (e : LogEntry) : Nat :=
  e.time % 2 ^ 64 + e.code.toNat * 2 ^ 64 + e.kind * 2 ^ 68 + e.ctx % 64 * 2 ^ 72 + e.scope % 2 ^ 32 * 2 ^ 96 +
    e.addr % 2 ^ 64 * 2 ^ 128 + e.detail % 2 ^ 64 * 2 ^ 192

/-- The entry at a place of the ring (R362). -/
def logAt (s : State) (index : Nat) : Option LogEntry := s.sys.frayLog[(index + 65536 - s.sys.logOverrun % 65536) % 65536]?

/-- A byte of the fray log and its overrun count (R362). -/
def logByte (s : State) (offset : Nat) : Byte :=
  if offset < 2 ^ 21 then BitVec.ofNat 8 (((logAt s (offset / 32)).map fun e => field e.word (8 * (offset % 32)) 8).getD 0)
  else BitVec.ofNat 8 (field s.sys.logOverrun (8 * (offset - 2 ^ 21)) 8)

/-- A doubleword that the host has written to BAR0. -/
def barWord (s : State) (offset : Nat) : Nat := Tab.get s.sys.bars offset 0

/-- Where the parts of mailbox n stand in BAR0: its command slot, its response slot, its doorbell. Their order within the 256 bytes is
the model's (DESIGN CHOICE, log 84). -/
def slotAt (core : Nat) : Nat := 0x10000 + 256 * core
def responseAt (core : Nat) : Nat := slotAt core + 64
def doorbellAt (core : Nat) : Nat := slotAt core + 128

/-- A mailbox's response as its slot spells it (R440). -/
def Mailbox.word (m : Mailbox) : Nat := m.tag % 2 ^ 16 * 2 ^ 16 + m.status % 256 * 2 ^ 32 + m.value * 2 ^ 64

/-- A byte of a mailbox (R440). -/
def mailboxByte (s : State) (core r : Nat) : Byte :=
  if 64 ≤ r ∧ r < 128 then
    BitVec.ofNat 8 (((Tab.find s.sys.mailboxes core).map fun m => field m.word (8 * (r - 64)) 8).getD 0)
  else BitVec.ofNat 8 (field (barWord s (slotAt core + r / 8 * 8)) (8 * (r % 8)) 8)

/-- The event that stands at a place of a context's ring: the last of those posted to it (R441). -/
def eventAt (c : Context) (i : Nat) : Option (Nat × Nat × Nat) :=
  c.events[(i + 256 - (c.posted - c.events.length) % 256) % 256]?

/-- A byte of a context's event ring: the kind in byte 0 of an entry, the code in byte 1, the object in bytes 8 to 15 (R441). -/
def ringByte (s : State) (ctx r : Nat) : Byte :=
  match (Tab.find s.ctxs ctx).bind fun c => eventAt c (r / 16) with
  | some (kind, code, object) => BitVec.ofNat 8 (field (kind % 256 + code % 256 * 2 ^ 8 + object * 2 ^ 64) (8 * (r % 16)) 8)
  | none => 0

/-- A byte of BAR0, as system software reads it (Table 27-2); how the snapshot window lies in its 48 MiB is not described (log 26). -/
def bar0Byte (s : State) (offset : Nat) : Byte :=
  if offset < 0x10000 then if s.sys.boot = 9 then (capBytes s).getD offset 0 else 0
  else if offset < 0x10800 then mailboxByte s ((offset - 0x10000) / 256) (offset % 256)
  else if 0x20000 ≤ offset ∧ offset < 0x60000 then ringByte s ((offset - 0x20000) / 4096) (offset % 4096)
  else if 0x100000 ≤ offset ∧ offset < 0x300004 then logByte s (offset - 0x100000)
  else if 0x1000000 ≤ offset then Config.snapshotByte (s.sys.window.map (·.cycle)) (offset - 0x1000000)
  else 0

/-- The device address that an offset of BAR4's window shows (R427). -/
def windowAddr (offset : Nat) : Option Nat := (Config.windowFrame (offset / 65536)).map fun f => f / 65536 * 65536 + offset % 65536

/-- A byte of a BAR, as the host reads it: BAR2 holds wake words, which are only written, and what BAR4 shows is device memory, where
poison reads as zeros (log 27). -/
def barByte (s : State) (bar offset : Nat) : Byte :=
  if bar = 0 then bar0Byte s offset
  else match (if bar = 4 then windowAddr offset else none) with
    | some a => (readAt s a 1).bytes.getD 0 0
    | none => 0

/-- LOGREAD (R362): the entry at a place of the ring; the response carries its 32 bytes from byte 8 on (log 33). -/
def execLogread (tag index : Nat) (s : State) : Out :=
  command s <|
    match logAt s index with
    | some e => if index < 65536 then respond s 4 tag 0 e.word else refuse s 4 tag
    | none => refuse s 4 tag

/-- The codes of a firmware core (Table 27-1). -/
def knownCodes (core : Nat) : List Nat :=
  match core with
  | 0 => [0x20]
  | 1 => [0x10, 0x11, 0x12, 0x13, 0x14]
  | 2 => [0x01, 0x02, 0x03, 0x04, 0x05, 0x06, 0x07]
  | 3 => [0x30, 0x31]
  | 4 => [0x38]
  | 5 => [0x40, 0x41, 0x42, 0x43]
  | 6 => [0x50]
  | _ => [0x60, 0x61]

/-- MAILBOX_UNKNOWN_CODE (R440). -/
def execMailboxUnknownCode (core tag code : Nat) (s : State) : Out :=
  command s (if 8 ≤ core ∨ (knownCodes core).contains code then s else respond s core tag 2 0)

/-- A write of a mailbox's doorbell submits the command in its slot (R440); a set byte 1 makes its code an unlisted one (log 84). -/
def submit (s : State) (core : Nat) : State :=
  let w := fun i : Nat => barWord s (slotAt core + 8 * i)
  later s core ⟨w 0 % 2 ^ 16, field (w 0) 16 16, (List.range 7).map fun i => w (i + 1)⟩

/-- The mailbox whose doorbell lies at an offset of BAR0. -/
def doorbellOf (offset : Nat) : Option Nat := (List.range 8).find? fun core => doorbellAt core == offset

/-- The bytes of a BAR (R427). -/
def barSize (bar : Nat) : Nat := match bar with
  | 0 => 2 ^ 26
  | 2 => 2 ^ 23
  | 4 => 2 ^ 36
  | _ => 0

/-- REGISTER_WRITE (R407, R427, R440): a doubleword written to a BAR. A doorbell of BAR0 submits a command, the word at offset 8q of
BAR2 is the wake word of queue q, a word of BAR4 is written in the device page that the window shows there, and any other holds what is
written (log 27). -/
def execRegisterWrite (bar offset value : Nat) (s : State) : Out :=
  if s.links.hostUp = false ∨ barSize bar ≤ offset ∨ offset % 8 ≠ 0 then .next s
  else if bar = 2 then execQueueWakeWrite (offset / 8) value s
  else if bar = 4 then .next (match windowAddr offset with
    | some a => putBytes s a (leBytes 8 value)
    | none => s)
  else
    let s1 := s.setSys { s.sys with bars := Tab.put s.sys.bars (bar * 2 ^ 40 + offset) (value % 2 ^ 64) }
    .next (match (if bar = 0 then doorbellOf offset else none) with
      | some core => submit s1 core
      | none => s1)

/-! ### Snapshots (R446) -/

/-- SNAP_PIN (R446): a rising edge. -/
def execSnapPin (s : State) : Out := .next (snapTrigger s)

/-- MGMT_SNAPSHOT_TRIGGER (R446). -/
def execMgmtSnapshotTrigger (s : State) : Out := .next (snapTrigger s)

/-- ARM (R446): code 0 disarms. -/
def execArm (tag code : Nat) (s : State) : Out :=
  command s (if 15 < code then refuse s 7 tag else respond (s.setSys { s.sys with armed := code }) 7 tag 0 0)

/-- RELEASE (R446). -/
def execRelease (tag : Nat) (s : State) : Out := command s (respond (s.setSys { s.sys with snapHeld := false }) 7 tag 0 0)

/-! ### Power (R447, R448) -/

/-- STEP (R447): the level settles later; one received while another settles replaces it; during the drain it is refused. -/
def execStep (tag level : Nat) (s : State) : Out :=
  if s.sys.powerFail then .next (refuse s 6 tag)
  else command s <|
    if 15 < level then refuse s 6 tag
    else if level = s.sys.power ∧ s.sys.powerNext = none then respond s 6 tag 0 0
    else respond (s.setSys { s.sys with powerNext := some level }) 6 tag 0 0

/-- POWER_STEP_SETTLED (R447). -/
def execPowerStepSettled (s : State) : Out :=
  match s.sys.powerNext with
  | some l => .next (s.setSys { s.sys with power := l, powerNext := none })
  | none => .next s

/-- POWER_FAIL (R448): issue stops everywhere and the drain begins. -/
def execPowerFail (s : State) : Out := .next (s.setSys { s.sys with powerFail := true, drained := false })

/-- POWER_FAIL_DRAIN_DONE (R448): the control state stands in board flash. -/
def execPowerFailDrainDone (s : State) : Out :=
  if s.sys.powerFail ∧ s.sys.drained = false then
    .next (s.setSys { s.sys with
      drained := true, flash := some
        ⟨s.sys.staged, s.sys.frayLog, s.sys.window, s.groups.scopes, s.ctxs, s.cores, s.images, s.strands⟩ })
  else .next s

/-! ### The firmware cores take their commands (R440) -/

/-- A command of a firmware core (Table 27-1, Tables 22-5 and 24-2). -/
def runCommand (core : Nat) (c : FirmCommand) (s : State) : Out :=
  let a := fun i : Nat => c.args.getD i 0
  match core, c.code with
  | 0, 0x20 => execKeyset c.tag (a 0) (a 1) s
  | 1, 0x10 => execCreate c.tag (a 0) s
  | 1, 0x11 => execDestroy c.tag (a 0) s
  | 1, 0x12 => execResumeq c.tag (a 0) (a 1) s
  -- the context follows what Table 27-1 lists (log 11)
  | 1, 0x13 => execLoad c.tag (a 1) (a 0) s
  | 1, 0x14 => execUnload c.tag (a 1) (a 0) s
  | 2, 0x01 => execDefine c.tag (a 0) s
  | 2, 0x02 => execSetseg c.tag (a 0) (a 1) s
  | 2, 0x03 => execSetprio c.tag (a 0) (a 1) (a 2) s
  | 2, 0x04 => execSuspend c.tag (a 0) s
  | 2, 0x05 => execResume c.tag (a 0) s
  | 2, 0x06 => execTeardown c.tag (a 0) s
  | 2, 0x07 => execMendroot c.tag (a 0) s
  | 3, 0x30 => execMap c.tag (a 0) (a 1) (a 2) s
  | 3, 0x31 => execLeaf c.tag (a 0) (a 1) s
  | 4, 0x38 => execLogread c.tag (a 0) s
  | 5, 0x40 => execQuiesce c.tag (a 0) s
  | 5, 0x41 => execUnquiesce c.tag (a 0) s
  | 5, 0x42 => execRetrain c.tag (a 0) s
  | 5, 0x43 => execRoute c.tag (a 0) (a 1) s
  | 6, 0x50 => execStep c.tag (a 0) s
  | 7, 0x60 => execArm c.tag (a 0) s
  | 7, 0x61 => execRelease c.tag s
  | _, _ => execMailboxUnknownCode core c.tag c.code s

/-- A firmware core takes the oldest command of its mailbox; the drain after a power failure leaves STEP its refusal (R448). -/
def firmwareTurn (core : Nat) (s : State) : Out :=
  match submitted s core with
  | [] => .next s
  | c :: rest =>
    if !firmwareUp s && !(s.sys.powerFail && core == 6) then .next s
    else match runCommand core c (s.putSubmitted core []) with
      | .next t => .next (t.putSubmitted core (submitted t core ++ rest))
      | o => o

end Sys2Proof.Machine
end

