-- ==== Sys2Proof/Machine/Frays.lean ====
section
/-! DEFINITION. The fray instructions (R355 to R358) and bound registers (R359, R360). -/

namespace Sys2Proof.Machine

/-- `MEND` (R355). -/
def execMend (m : Nat) (s : State) : Out :=
  issue (.mend m) [] (maskRegs m) s fun s sid k =>
    let k1 := (maskRegs m).foldl (fun k r => k.remark r { k.g r with fray := false, code := 0 }) k
    retire s sid (k1.setSt { k1.st with t := false })

/-- One write of a whole 32-byte unit by a strand, clean zeros or poison (R357, R358): it never migrates the strand. -/
def writeUnit (s : State) (sid : Nat) (k : Strand) (t : Nat) (poison : Option Code) : Out :=
  withClean s sid k [t] <|
    withAccess s sid k (alignDown (k.nat t) 32) 32 32 needWr false fun way =>
      .next (sendWrite sid k way (s.putStrand sid k.advance) ⟨way.loc.key, List.replicate 32 0, poison⟩)

/-- `MENDM` (R357). -/
def execMendm (a : Nat) (s : State) : Out :=
  issue (.mendm a) [a] [] s fun s sid k => writeUnit s sid k a none

/-- `FRAY` (R358). -/
def execFray (t kind : Nat) (s : State) : Out :=
  issue (.fray t kind) [t] (if kind = 0 then [t] else []) s fun s sid k =>
    match kind with
    | 0 => retire s sid (k.remark t { k.g t with fray := true, code := 5 })
    | 1 => barrierOp s sid k .fray t 32 needBar false
    | 2 => writeUnit s sid k t (some 5)
    | _ =>
      withClean s sid k [t] <|
        let h := k.nat t % 2 ^ 32
        match findScope s k.ctx h with
        | none => retire s sid k
        | some r =>
          if r.root && r.parent == 0 then retire s sid k
          else .next (frayScope (s.putStrand sid k.advance) k.ctx h 5)

/-- `BNDSET` (R360). -/
def execBndset (a b m r : Nat) (s : State) : Out :=
  issue (.bndset a b m r) [a, b] [] s fun s sid k =>
    withClean s sid k [a, b] <|
      let bd : Bound := ⟨k.nat a % 2 ^ 32, k.nat a / 2 ^ 32, m, k.nat b % 2 ^ 32⟩
      retire (s.modCore k.core fun c => { c with bounds := Tab.put c.bounds r bd }) sid k

end Sys2Proof.Machine
end

