-- ==== Sys2Proof/Machine/Scalar.lean ====
section
/-! DEFINITION. Integer register, immediate, bit-field and address instructions (R100 to R104). -/

namespace Sys2Proof.Machine

/-- `ADD` (R100). -/
def execAdd (d a b : Nat) (s : State) : Out :=
  alu (.add d a b) d [a, b] (fun k => k.val a + k.val b) s

/-- `SUB` (R100). -/
def execSub (d a b : Nat) (s : State) : Out :=
  alu (.sub d a b) d [a, b] (fun k => k.val a - k.val b) s

/-- `MUL` (R100). -/
def execMul (d a b : Nat) (s : State) : Out :=
  alu (.mul d a b) d [a, b] (fun k => k.val a * k.val b) s

/-- `MULH` (R100). -/
def execMulh (d a b : Nat) (s : State) : Out :=
  alu (.mulh d a b) d [a, b] (fun k => mulHighSigned (k.val a) (k.val b)) s

/-- `MULHN` (R100). -/
def execMulhn (d a b : Nat) (s : State) : Out :=
  alu (.mulhn d a b) d [a, b] (fun k => mulHighUnsigned (k.val a) (k.val b)) s

/-- `DIV` (R101). -/
def execDiv (d a b : Nat) (s : State) : Out :=
  alu (.div d a b) d [a, b] (fun k => divSigned (k.val a) (k.val b)) s

/-- `DIVN` (R101). -/
def execDivn (d a b : Nat) (s : State) : Out :=
  alu (.divn d a b) d [a, b] (fun k => divUnsigned (k.val a) (k.val b)) s

/-- `REM` (R101). -/
def execRem (d a b : Nat) (s : State) : Out :=
  alu (.rem d a b) d [a, b] (fun k => remSigned (k.val a) (k.val b)) s

/-- `REMN` (R101). -/
def execRemn (d a b : Nat) (s : State) : Out :=
  alu (.remn d a b) d [a, b] (fun k => remUnsigned (k.val a) (k.val b)) s

/-- `AND` (R100). -/
def execAnd (d a b : Nat) (s : State) : Out :=
  alu (.and d a b) d [a, b] (fun k => k.val a &&& k.val b) s

/-- `OR` (R100). -/
def execOr (d a b : Nat) (s : State) : Out :=
  alu (.or d a b) d [a, b] (fun k => k.val a ||| k.val b) s

/-- `XOR` (R100). -/
def execXor (d a b : Nat) (s : State) : Out :=
  alu (.xor d a b) d [a, b] (fun k => k.val a ^^^ k.val b) s

/-- `ANDN` (R100). -/
def execAndn (d a b : Nat) (s : State) : Out :=
  alu (.andn d a b) d [a, b] (fun k => k.val a &&& ~~~(k.val b)) s

/-- `ORN` (R100). -/
def execOrn (d a b : Nat) (s : State) : Out :=
  alu (.orn d a b) d [a, b] (fun k => k.val a ||| ~~~(k.val b)) s

/-- `SHL` (R100). -/
def execShl (d a b : Nat) (s : State) : Out :=
  alu (.shl d a b) d [a, b] (fun k => shiftLeft (k.val a) (amount (k.val b))) s

/-- `SHR` (R100). -/
def execShr (d a b : Nat) (s : State) : Out :=
  alu (.shr d a b) d [a, b] (fun k => shiftRight (k.val a) (amount (k.val b))) s

/-- `SHA` (R100). -/
def execSha (d a b : Nat) (s : State) : Out :=
  alu (.sha d a b) d [a, b] (fun k => shiftArith (k.val a) (amount (k.val b))) s

/-- `ROT` (R100). -/
def execRot (d a b : Nat) (s : State) : Out :=
  alu (.rot d a b) d [a, b] (fun k => rotateLeft (k.val a) (amount (k.val b))) s

/-- `MIN` (R100). -/
def execMin (d a b : Nat) (s : State) : Out :=
  alu (.min d a b) d [a, b] (fun k => minSigned (k.val a) (k.val b)) s

/-- `MAX` (R100). -/
def execMax (d a b : Nat) (s : State) : Out :=
  alu (.max d a b) d [a, b] (fun k => maxSigned (k.val a) (k.val b)) s

/-- `MINN` (R100). -/
def execMinn (d a b : Nat) (s : State) : Out :=
  alu (.minn d a b) d [a, b] (fun k => minUnsigned (k.val a) (k.val b)) s

/-- `MAXN` (R100). -/
def execMaxn (d a b : Nat) (s : State) : Out :=
  alu (.maxn d a b) d [a, b] (fun k => maxUnsigned (k.val a) (k.val b)) s

/-- `CLZ` (R100). -/
def execClz (d a : Nat) (s : State) : Out :=
  alu (.clz d a) d [a] (fun k => leadingZeros (k.val a)) s

/-- `CTZ` (R100). -/
def execCtz (d a : Nat) (s : State) : Out :=
  alu (.ctz d a) d [a] (fun k => trailingZerosW (k.val a)) s

/-- `POPC` (R100). -/
def execPopc (d a : Nat) (s : State) : Out :=
  alu (.popc d a) d [a] (fun k => onesOf (k.val a)) s

/-- `BREV` (R100). -/
def execBrev (d a : Nat) (s : State) : Out :=
  alu (.brev d a) d [a] (fun k => reverseW (k.val a)) s

/-- `MOV` (R100). -/
def execMov (d a : Nat) (s : State) : Out :=
  alu (.mov d a) d [a] (fun k => k.val a) s

/-- `SEL` (R100): all three registers are read whichever it chooses. -/
def execSel (d a b c : Nat) (s : State) : Out :=
  alu (.sel d a b c) d [a, b, c] (fun k => if k.val c ≠ 0 then k.val a else k.val b) s

/-- `ADDP` (R104). -/
def execAddp (d a b : Nat) (s : State) : Out :=
  alu (.addp d a b) d [a, b] (fun k => BitVec.ofNat 64 (addp (k.nat a) (k.val b).toInt)) s

/-- `CMP.cc` (R100). -/
def execCmp (d a b c : Nat) (s : State) : Out :=
  alu (.cmp d a b c) d [a, b] (fun k => boolWord (condInt 64 c (k.nat a) (k.nat b))) s

/-- `EXT` (R103). -/
def execExt (d a l p : Nat) (s : State) : Out :=
  alu (.ext d a l p) d [a] (fun k => extractSigned (k.val a) l p) s

/-- `EXTN` (R103). -/
def execExtn (d a l p : Nat) (s : State) : Out :=
  alu (.extn d a l p) d [a] (fun k => BitVec.ofNat 64 (extract (k.val a) l p)) s

/-- `INS` (R103): g[d] is a source. -/
def execIns (d a l p : Nat) (s : State) : Out :=
  alu (.ins d a l p) d [a, d] (fun k => insertField (k.val d) (k.val a) l p) s

/-- `ADDI` (R102). -/
def execAddi (d a i : Nat) (s : State) : Out :=
  alu (.addi d a i) d [a] (fun k => k.val a + ofInt (k.immediate 18 i)) s

/-- `ANDI` (R102). -/
def execAndi (d a i : Nat) (s : State) : Out :=
  alu (.andi d a i) d [a] (fun k => k.val a &&& ofInt (k.immediate 18 i)) s

/-- `ORI` (R102). -/
def execOri (d a i : Nat) (s : State) : Out :=
  alu (.ori d a i) d [a] (fun k => k.val a ||| ofInt (k.immediate 18 i)) s

/-- `XORI` (R102). -/
def execXori (d a i : Nat) (s : State) : Out :=
  alu (.xori d a i) d [a] (fun k => k.val a ^^^ ofInt (k.immediate 18 i)) s

/-- `SHLI` (R102). -/
def execShli (d a n : Nat) (s : State) : Out :=
  alu (.shli d a n) d [a] (fun k => shiftLeft (k.val a) n) s

/-- `SHRI` (R102). -/
def execShri (d a n : Nat) (s : State) : Out :=
  alu (.shri d a n) d [a] (fun k => shiftRight (k.val a) n) s

/-- `SHAI` (R102). -/
def execShai (d a n : Nat) (s : State) : Out :=
  alu (.shai d a n) d [a] (fun k => shiftArith (k.val a) n) s

/-- `LIH` (R102): reads no register. -/
def execLih (d i : Nat) (s : State) : Out :=
  alu (.lih d i) d [] (fun _ => BitVec.ofNat 64 (i * 2 ^ 42)) s

/-- `CMPI.cc` (R102). -/
def execCmpi (d a c i : Nat) (s : State) : Out :=
  alu (.cmpi d a c i) d [a] (fun k => boolWord (condInt 64 c (k.nat a) (ofInt (k.immediate 14 i)).toNat)) s

end Sys2Proof.Machine
end

