-- ==== Sys2Proof/Machine/Dispatch.lean ====
section
/-! DEFINITION. One arm for each row of the opcode table: the instruction words, then the device's own steps. -/

namespace Sys2Proof.Machine

/-- The meaning of one instruction or step. -/
def exec (i : Instr) (s : State) : Host.Outcome State Fault Refusal :=
  match i with
  | .add d a b => Sys2Proof.Machine.execAdd d a b s
  | .sub d a b => Sys2Proof.Machine.execSub d a b s
  | .mul d a b => Sys2Proof.Machine.execMul d a b s
  | .mulh d a b => Sys2Proof.Machine.execMulh d a b s
  | .mulhn d a b => Sys2Proof.Machine.execMulhn d a b s
  | .div d a b => Sys2Proof.Machine.execDiv d a b s
  | .divn d a b => Sys2Proof.Machine.execDivn d a b s
  | .rem d a b => Sys2Proof.Machine.execRem d a b s
  | .remn d a b => Sys2Proof.Machine.execRemn d a b s
  | .and d a b => Sys2Proof.Machine.execAnd d a b s
  | .or d a b => Sys2Proof.Machine.execOr d a b s
  | .xor d a b => Sys2Proof.Machine.execXor d a b s
  | .andn d a b => Sys2Proof.Machine.execAndn d a b s
  | .orn d a b => Sys2Proof.Machine.execOrn d a b s
  | .shl d a b => Sys2Proof.Machine.execShl d a b s
  | .shr d a b => Sys2Proof.Machine.execShr d a b s
  | .sha d a b => Sys2Proof.Machine.execSha d a b s
  | .rot d a b => Sys2Proof.Machine.execRot d a b s
  | .min d a b => Sys2Proof.Machine.execMin d a b s
  | .max d a b => Sys2Proof.Machine.execMax d a b s
  | .minn d a b => Sys2Proof.Machine.execMinn d a b s
  | .maxn d a b => Sys2Proof.Machine.execMaxn d a b s
  | .clz d a => Sys2Proof.Machine.execClz d a s
  | .ctz d a => Sys2Proof.Machine.execCtz d a s
  | .popc d a => Sys2Proof.Machine.execPopc d a s
  | .brev d a => Sys2Proof.Machine.execBrev d a s
  | .sel d a b c => Sys2Proof.Machine.execSel d a b c s
  | .mov d a => Sys2Proof.Machine.execMov d a s
  | .addp d a b => Sys2Proof.Machine.execAddp d a b s
  | .cmp d a b c => Sys2Proof.Machine.execCmp d a b c s
  | .ext d a l p => Sys2Proof.Machine.execExt d a l p s
  | .extn d a l p => Sys2Proof.Machine.execExtn d a l p s
  | .ins d a l p => Sys2Proof.Machine.execIns d a l p s
  | .addi d a i_ => Sys2Proof.Machine.execAddi d a i_ s
  | .andi d a i_ => Sys2Proof.Machine.execAndi d a i_ s
  | .ori d a i_ => Sys2Proof.Machine.execOri d a i_ s
  | .xori d a i_ => Sys2Proof.Machine.execXori d a i_ s
  | .shli d a s_ => Sys2Proof.Machine.execShli d a s_ s
  | .shri d a s_ => Sys2Proof.Machine.execShri d a s_ s
  | .shai d a s_ => Sys2Proof.Machine.execShai d a s_ s
  | .lih d i_ => Sys2Proof.Machine.execLih d i_ s
  | .cmpi d a c i_ => Sys2Proof.Machine.execCmpi d a c i_ s
  | .fadd d a b r => Sys2Proof.Machine.execFadd d a b r s
  | .fsub d a b r => Sys2Proof.Machine.execFsub d a b r s
  | .fmul d a b r => Sys2Proof.Machine.execFmul d a b r s
  | .ffma d a b r => Sys2Proof.Machine.execFfma d a b r s
  | .fmin d a b => Sys2Proof.Machine.execFmin d a b s
  | .fmax d a b => Sys2Proof.Machine.execFmax d a b s
  | .fcmp d a b c => Sys2Proof.Machine.execFcmp d a b c s
  | .fcvt d a b t s_ r => Sys2Proof.Machine.execFcvt d a b t s_ r s
  | .ld d a w m o => Sys2Proof.Machine.execLd d a w m o s
  | .ldN d a w m o => Sys2Proof.Machine.execLdN d a w m o s
  | .st d a w m o => Sys2Proof.Machine.execSt d a w m o s
  | .ldp d a w m o => Sys2Proof.Machine.execLdp d a w m o s
  | .stp d a w m o => Sys2Proof.Machine.execStp d a w m o s
  | .amoAdd o d a b w r => Sys2Proof.Machine.execAmoAdd o d a b w r s
  | .amoMin o d a b w r => Sys2Proof.Machine.execAmoMin o d a b w r s
  | .amoMax o d a b w r => Sys2Proof.Machine.execAmoMax o d a b w r s
  | .amoMinn o d a b w r => Sys2Proof.Machine.execAmoMinn o d a b w r s
  | .amoMaxn o d a b w r => Sys2Proof.Machine.execAmoMaxn o d a b w r s
  | .amoAnd o d a b w r => Sys2Proof.Machine.execAmoAnd o d a b w r s
  | .amoOr o d a b w r => Sys2Proof.Machine.execAmoOr o d a b w r s
  | .amoXor o d a b w r => Sys2Proof.Machine.execAmoXor o d a b w r s
  | .amoSwap o d a b w r => Sys2Proof.Machine.execAmoSwap o d a b w r s
  | .amoc o d a b c w r => Sys2Proof.Machine.execAmoc o d a b c w r s
  | .amof o d a b r => Sys2Proof.Machine.execAmof o d a b r s
  | .claim o d a b r => Sys2Proof.Machine.execClaim o d a b r s
  | .fence r => Sys2Proof.Machine.execFence r s
  | .pref a => Sys2Proof.Machine.execPref a s
  | .pgadv a b v => Sys2Proof.Machine.execPgadv a b v s
  | .br c a o => Sys2Proof.Machine.execBr c a o s
  | .jr a o => Sys2Proof.Machine.execJr a o s
  | .brc c a o => Sys2Proof.Machine.execBrc c a o s
  | .jmp o => Sys2Proof.Machine.execJmp o s
  | .call o => Sys2Proof.Machine.execCall o s
  | .fork d o => Sys2Proof.Machine.execFork d o s
  | .forkr d b => Sys2Proof.Machine.execForkr d b s
  | .exit => Sys2Proof.Machine.execExit s
  | .yield => Sys2Proof.Machine.execYield s
  | .send d h v t k => Sys2Proof.Machine.execSend d h v t k s
  | .self d => Sys2Proof.Machine.execSelf d s
  | .mode d m => Sys2Proof.Machine.execMode d m s
  | .empty m => Sys2Proof.Machine.execEmpty m s
  | .sopen d s_ e o => Sys2Proof.Machine.execSopen d s_ e o s
  | .sclose d => Sys2Proof.Machine.execSclose d s
  | .scancel h => Sys2Proof.Machine.execScancel h s
  | .succeed => Sys2Proof.Machine.execSucceed s
  | .shield => Sys2Proof.Machine.execShield s
  | .unshield => Sys2Proof.Machine.execUnshield s
  | .cpt => Sys2Proof.Machine.execCpt s
  | .sinfo d h i_ => Sys2Proof.Machine.execSinfo d h i_ s
  | .binitCount a => Sys2Proof.Machine.execBinitCount a s
  | .binitBytes a => Sys2Proof.Machine.execBinitBytes a s
  | .binitLock a => Sys2Proof.Machine.execBinitLock a s
  | .bexpect a b => Sys2Proof.Machine.execBexpect a b s
  | .barrive a b => Sys2Proof.Machine.execBarrive a b s
  | .bwait d a => Sys2Proof.Machine.execBwait d a s
  | .btest d a => Sys2Proof.Machine.execBtest d a s
  | .lock d a => Sys2Proof.Machine.execLock d a s
  | .unlock a => Sys2Proof.Machine.execUnlock a s
  | .waita d a b => Sys2Proof.Machine.execWaita d a b s
  | .wakea a b => Sys2Proof.Machine.execWakea a b s
  | .mend m => Sys2Proof.Machine.execMend m s
  | .mendb a => Sys2Proof.Machine.execMendb a s
  | .mendm a => Sys2Proof.Machine.execMendm a s
  | .fray t k => Sys2Proof.Machine.execFray t k s
  | .vadd d a b k t => Sys2Proof.Machine.execVadd d a b k t s
  | .vsub d a b k t => Sys2Proof.Machine.execVsub d a b k t s
  | .vmul d a b k t => Sys2Proof.Machine.execVmul d a b k t s
  | .vmin d a b k t => Sys2Proof.Machine.execVmin d a b k t s
  | .vmax d a b k t => Sys2Proof.Machine.execVmax d a b k t s
  | .vabs d a k t => Sys2Proof.Machine.execVabs d a k t s
  | .vneg d a k t => Sys2Proof.Machine.execVneg d a k t s
  | .vfma d a b k t => Sys2Proof.Machine.execVfma d a b k t s
  | .vfms d a b k t => Sys2Proof.Machine.execVfms d a b k t s
  | .vand d a b k t => Sys2Proof.Machine.execVand d a b k t s
  | .vor d a b k t => Sys2Proof.Machine.execVor d a b k t s
  | .vxor d a b k t => Sys2Proof.Machine.execVxor d a b k t s
  | .vshl d a b k t => Sys2Proof.Machine.execVshl d a b k t s
  | .vshr d a b k t => Sys2Proof.Machine.execVshr d a b k t s
  | .vsha d a b k t => Sys2Proof.Machine.execVsha d a b k t s
  | .vsel d a b k t => Sys2Proof.Machine.execVsel d a b k t s
  | .vcmp d a b k t c => Sys2Proof.Machine.execVcmp d a b k t c s
  | .vcvt d a b k t s_ => Sys2Proof.Machine.execVcvt d a b k t s_ s
  | .vlog2 d a k t => Sys2Proof.Machine.execVlog2 d a k t s
  | .vexp2 d a k t => Sys2Proof.Machine.execVexp2 d a k t s
  | .vrcp d a k t => Sys2Proof.Machine.execVrcp d a k t s
  | .vrsq d a k t => Sys2Proof.Machine.execVrsq d a k t s
  | .vsqrt d a k t => Sys2Proof.Machine.execVsqrt d a k t s
  | .vredSum d a k t => Sys2Proof.Machine.execVredSum d a k t s
  | .vredMax d a k t => Sys2Proof.Machine.execVredMax d a k t s
  | .vredMin d a k t => Sys2Proof.Machine.execVredMin d a k t s
  | .vredMaxi d a k t => Sys2Proof.Machine.execVredMaxi d a k t s
  | .vredMini d a k t => Sys2Proof.Machine.execVredMini d a k t s
  | .vscanSum d a k t => Sys2Proof.Machine.execVscanSum d a k t s
  | .vscanMax d a k t => Sys2Proof.Machine.execVscanMax d a k t s
  | .vscanMin d a k t => Sys2Proof.Machine.execVscanMin d a k t s
  | .vperm d a b k t => Sys2Proof.Machine.execVperm d a b k t s
  | .vpermX2 d a b k t => Sys2Proof.Machine.execVpermX2 d a b k t s
  | .vshuf d a b k t => Sys2Proof.Machine.execVshuf d a b k t s
  | .vbcast d a k t => Sys2Proof.Machine.execVbcast d a k t s
  | .vmov d a k t => Sys2Proof.Machine.execVmov d a k t s
  | .vmovX2 d a k t => Sys2Proof.Machine.execVmovX2 d a k t s
  | .vmovX4 d a k t => Sys2Proof.Machine.execVmovX4 d a k t s
  | .vins d a b t => Sys2Proof.Machine.execVins d a b t s
  | .vext d a b t => Sys2Proof.Machine.execVext d a b t s
  | .vld d a k t s_ => Sys2Proof.Machine.execVld d a k t s_ s
  | .vst d a k t s_ => Sys2Proof.Machine.execVst d a k t s_ s
  | .vstBnd d a b k t s_ => Sys2Proof.Machine.execVstBnd d a b k t s_ s
  | .vlds d a b k t s_ => Sys2Proof.Machine.execVlds d a b k t s_ s
  | .vsts d a b k t s_ => Sys2Proof.Machine.execVsts d a b k t s_ s
  | .vgath d a b k t s_ => Sys2Proof.Machine.execVgath d a b k t s_ s
  | .vscat d a b k t s_ => Sys2Proof.Machine.execVscat d a b k t s_ s
  | .kand d a b => Sys2Proof.Machine.execKand d a b s
  | .kor d a b => Sys2Proof.Machine.execKor d a b s
  | .kxor d a b => Sys2Proof.Machine.execKxor d a b s
  | .knot d a => Sys2Proof.Machine.execKnot d a s
  | .kmov d a => Sys2Proof.Machine.execKmov d a s
  | .kmovG d a b => Sys2Proof.Machine.execKmovG d a b s
  | .kmovLo d a => Sys2Proof.Machine.execKmovLo d a s
  | .kmovHi d a => Sys2Proof.Machine.execKmovHi d a s
  | .kpop d a => Sys2Proof.Machine.execKpop d a s
  | .mma s_ t c a b p => Sys2Proof.Machine.execMma s_ t c a b p s
  | .mmas s_ t c a b p => Sys2Proof.Machine.execMmas s_ t c a b p s
  | .mmag s_ t c a b p v => Sys2Proof.Machine.execMmag s_ t c a b p v s
  | .mxs c a b p => Sys2Proof.Machine.execMxs c a b p s
  | .mzero c => Sys2Proof.Machine.execMzero c s
  | .mrd r c a v => Sys2Proof.Machine.execMrd r c a v s
  | .mwr r c a v => Sys2Proof.Machine.execMwr r c a v s
  | .ldt t a b w => Sys2Proof.Machine.execLdt t a b w s
  | .mslot a => Sys2Proof.Machine.execMslot a s
  | .copy x r d a b c => Sys2Proof.Machine.execCopy x r d a b c s
  | .copyT x r d a b c => Sys2Proof.Machine.execCopyT x r d a b c s
  | .copyTag x r d a b c q => Sys2Proof.Machine.execCopyTag x r d a b c q s
  | .selp x r a => Sys2Proof.Machine.execSelp x r a s
  | .selk x r a => Sys2Proof.Machine.execSelk x r a s
  | .selr x r a => Sys2Proof.Machine.execSelr x r a s
  | .nop => Sys2Proof.Machine.execNop s
  | .trap n => Sys2Proof.Machine.execTrap n s
  | .bkpt n => Sys2Proof.Machine.execBkpt n s
  | .time d => Sys2Proof.Machine.execTime d s
  | .ctlr d n => Sys2Proof.Machine.execCtlr d n s
  | .ctlw a n => Sys2Proof.Machine.execCtlw a n s
  | .snap => Sys2Proof.Machine.execSnap s
  | .bndset a b m r => Sys2Proof.Machine.execBndset a b m r s
  | .gangEnter a => Sys2Proof.Machine.execGangEnter a s
  | .gangExit => Sys2Proof.Machine.execGangExit s
  | .atVcc a => Sys2Proof.Machine.execAtVcc a s
  | .klaunch d a b => Sys2Proof.Machine.execKlaunch d a b s
  | .pair i_ j => Sys2Proof.Machine.execPair i_ j s
  | .hintImm x => Sys2Proof.Machine.execHintImm x s
  | .hintLat l => Sys2Proof.Machine.execHintLat l s
  | .hintMod s_ p r => Sys2Proof.Machine.execHintMod s_ p r s
  | .loadDataReturn id => Sys2Proof.Machine.execLoadDataReturn id s
  | .remoteScratchpadRequest id => Sys2Proof.Machine.execRemoteScratchpadRequest id s
  | .bankRetentionEntry core bank => Sys2Proof.Machine.execBankRetentionEntry core bank s
  | .bankRetentionExit core bank => Sys2Proof.Machine.execBankRetentionExit core bank s
  | .retentionTransitionDone core bank => Sys2Proof.Machine.execRetentionTransitionDone core bank s
  | .regionSaveDone region => Sys2Proof.Machine.execRegionSaveDone region s
  | .regionRestoreDone region => Sys2Proof.Machine.execRegionRestoreDone region s
  | .recordPop core slot => Sys2Proof.Machine.execRecordPop core slot s
  | .recordSteal core slot => Sys2Proof.Machine.execRecordSteal core slot s
  | .strandSetupDone sid => Sys2Proof.Machine.execStrandSetupDone sid s
  | .migrationDepart sid => Sys2Proof.Machine.execMigrationDepart sid s
  | .migrationArrival id => Sys2Proof.Machine.execMigrationArrival id s
  | .arrivalQueueTake core slot => Sys2Proof.Machine.execArrivalQueueTake core slot s
  | .strandRetire sid => Sys2Proof.Machine.execStrandRetire sid s
  | .messageArrival id => Sys2Proof.Machine.execMessageArrival id s
  | .sendAckReturn id => Sys2Proof.Machine.execSendAckReturn id s
  | .eagerCountExpiry sid => Sys2Proof.Machine.execEagerCountExpiry sid s
  | .shareReturn id => Sys2Proof.Machine.execShareReturn id s
  | .borrowRequest id => Sys2Proof.Machine.execBorrowRequest id s
  | .borrowGrant id => Sys2Proof.Machine.execBorrowGrant id s
  | .cancelArrival id => Sys2Proof.Machine.execCancelArrival id s
  | .childLinkArrival id => Sys2Proof.Machine.execChildLinkArrival id s
  | .barrierHomeOperation id => Sys2Proof.Machine.execBarrierHomeOperation id s
  | .bwaitReply id => Sys2Proof.Machine.execBwaitReply id s
  | .lockGrant id => Sys2Proof.Machine.execLockGrant id s
  | .engineBarrierProbe op => Sys2Proof.Machine.execEngineBarrierProbe op s
  | .engineArrival id => Sys2Proof.Machine.execEngineArrival id s
  | .donationEvent id core => Sys2Proof.Machine.execDonationEvent id core s
  | .waitaPoll sid => Sys2Proof.Machine.execWaitaPoll sid s
  | .crossDieWriteApply id => Sys2Proof.Machine.execCrossDieWriteApply id s
  | .d2dFlitRetry link => Sys2Proof.Machine.execD2dFlitRetry link s
  | .packageFault link => Sys2Proof.Machine.execPackageFault link s
  | .fenceDrainComplete sid => Sys2Proof.Machine.execFenceDrainComplete sid s
  | .gangLoadDue id => Sys2Proof.Machine.execGangLoadDue id s
  | .atTargetReached sid => Sys2Proof.Machine.execAtTargetReached sid s
  | .gangPauseTimeout gang => Sys2Proof.Machine.execGangPauseTimeout gang s
  | .gangRendezvousTimeout gang => Sys2Proof.Machine.execGangRendezvousTimeout gang s
  | .mvuDispatchOpportunity quad => Sys2Proof.Machine.execMvuDispatchOpportunity quad s
  | .mvuOperationDone quad => Sys2Proof.Machine.execMvuOperationDone quad s
  | .mmagGroupStepDone quad => Sys2Proof.Machine.execMmagGroupStepDone quad s
  | .copyOperationStart op => Sys2Proof.Machine.execCopyOperationStart op s
  | .copyProgress op => Sys2Proof.Machine.execCopyProgress op s
  | .copyComplete op => Sys2Proof.Machine.execCopyComplete op s
  | .copyFail op => Sys2Proof.Machine.execCopyFail op s
  | .copyStop op chunks => Sys2Proof.Machine.execCopyStop op chunks s
  | .afterPredecessorsEnded op => Sys2Proof.Machine.execAfterPredecessorsEnded op s
  | .engineFaultPark op => Sys2Proof.Machine.execEngineFaultPark op s
  | .faultReplay id => Sys2Proof.Machine.execFaultReplay id s
  | .atomicAtHome id => Sys2Proof.Machine.execAtomicAtHome id s
  | .atomicResultReturn id => Sys2Proof.Machine.execAtomicResultReturn id s
  | .claimStageArrival id => Sys2Proof.Machine.execClaimStageArrival id s
  | .claimCombineTimeout id => Sys2Proof.Machine.execClaimCombineTimeout id s
  | .claimReplySplit id => Sys2Proof.Machine.execClaimReplySplit id s
  | .selectionRequestStart op => Sys2Proof.Machine.execSelectionRequestStart op s
  | .selectionPieceScan op stack => Sys2Proof.Machine.execSelectionPieceScan op stack s
  | .selectionPartialArrival op stack => Sys2Proof.Machine.execSelectionPartialArrival op stack s
  | .selectionOutputWrite op => Sys2Proof.Machine.execSelectionOutputWrite op s
  | .selectionFail op => Sys2Proof.Machine.execSelectionFail op s
  | .selectionStop op => Sys2Proof.Machine.execSelectionStop op s
  | .rowRemap controller row spare => Sys2Proof.Machine.execRowRemap controller row spare s
  | .rowRemapDone controller row => Sys2Proof.Machine.execRowRemapDone controller row s
  | .hbmScrubPass stack => Sys2Proof.Machine.execHbmScrubPass stack s
  | .sramScrubPass die => Sys2Proof.Machine.execSramScrubPass die s
  | .pageWalk sid => Sys2Proof.Machine.execPageWalk sid s
  | .pageFaultRequest id => Sys2Proof.Machine.execPageFaultRequest id s
  | .pageRepairDone ctx va frame => Sys2Proof.Machine.execPageRepairDone ctx va frame s
  | .repairWake id => Sys2Proof.Machine.execRepairWake id s
  | .pageMigrationStart ctx va frame => Sys2Proof.Machine.execPageMigrationStart ctx va frame s
  | .pageMigrationCopyEnd ctx va => Sys2Proof.Machine.execPageMigrationCopyEnd ctx va s
  | .pageSpill ctx va => Sys2Proof.Machine.execPageSpill ctx va s
  | .pageAdviceEvent id frame => Sys2Proof.Machine.execPageAdviceEvent id frame s
  | .shootdown ctx va leaf => Sys2Proof.Machine.execShootdown ctx va leaf s
  | .shootdownComplete ctx va => Sys2Proof.Machine.execShootdownComplete ctx va s
  | .meshInterrupt core => Sys2Proof.Machine.execMeshInterrupt core s
  | .preemptRelease core => Sys2Proof.Machine.execPreemptRelease core s
  | .imageResume ctx home core => Sys2Proof.Machine.execImageResume ctx home core s
  | .quantumExpiry core => Sys2Proof.Machine.execQuantumExpiry core s
  | .segmentInterrupt core => Sys2Proof.Machine.execSegmentInterrupt core s
  | .define tag addr => Sys2Proof.Machine.execDefine tag addr s
  | .setseg tag ctx addr => Sys2Proof.Machine.execSetseg tag ctx addr s
  | .setprio tag ctx prio quantum => Sys2Proof.Machine.execSetprio tag ctx prio quantum s
  | .suspend tag ctx => Sys2Proof.Machine.execSuspend tag ctx s
  | .resume tag ctx => Sys2Proof.Machine.execResume tag ctx s
  | .teardown tag ctx => Sys2Proof.Machine.execTeardown tag ctx s
  | .mendroot tag ctx => Sys2Proof.Machine.execMendroot tag ctx s
  | .keyset tag ctx addr => Sys2Proof.Machine.execKeyset tag ctx addr s
  | .load tag ctx addr => Sys2Proof.Machine.execLoad tag ctx addr s
  | .kernelPinningDone ctx kernel => Sys2Proof.Machine.execKernelPinningDone ctx kernel s
  | .unload tag ctx kernel => Sys2Proof.Machine.execUnload tag ctx kernel s
  | .kernelRootClose ctx root => Sys2Proof.Machine.execKernelRootClose ctx root s
  | .create tag addr => Sys2Proof.Machine.execCreate tag addr s
  | .destroy tag queue => Sys2Proof.Machine.execDestroy tag queue s
  | .resumeq tag queue skip => Sys2Proof.Machine.execResumeq tag queue skip s
  | .queueWakeWrite queue tail => Sys2Proof.Machine.execQueueWakeWrite queue tail s
  | .queueMapDone queue => Sys2Proof.Machine.execQueueMapDone queue s
  | .queuePageInDone queue => Sys2Proof.Machine.execQueuePageInDone queue s
  | .queueWaitEvictTimeout queue => Sys2Proof.Machine.execQueueWaitEvictTimeout queue s
  | .queuePageOut queue => Sys2Proof.Machine.execQueuePageOut queue s
  | .queueLaunch queue => Sys2Proof.Machine.execQueueLaunch queue s
  | .queueCopy queue => Sys2Proof.Machine.execQueueCopy queue s
  | .queueSignal queue => Sys2Proof.Machine.execQueueSignal queue s
  | .queueWait queue => Sys2Proof.Machine.execQueueWait queue s
  | .queueTimestamp queue => Sys2Proof.Machine.execQueueTimestamp queue s
  | .queueWaitSatisfied queue n => Sys2Proof.Machine.execQueueWaitSatisfied queue n s
  | .queueCommandComplete queue n => Sys2Proof.Machine.execQueueCommandComplete queue n s
  | .map tag ctx va leaf => Sys2Proof.Machine.execMap tag ctx va leaf s
  | .leaf tag ctx va => Sys2Proof.Machine.execLeaf tag ctx va s
  | .logread tag index => Sys2Proof.Machine.execLogread tag index s
  | .quiesce tag port => Sys2Proof.Machine.execQuiesce tag port s
  | .unquiesce tag port => Sys2Proof.Machine.execUnquiesce tag port s
  | .retrain tag port => Sys2Proof.Machine.execRetrain tag port s
  | .route tag package mask => Sys2Proof.Machine.execRoute tag package mask s
  | .step tag level => Sys2Proof.Machine.execStep tag level s
  | .powerStepSettled => Sys2Proof.Machine.execPowerStepSettled s
  | .arm tag code => Sys2Proof.Machine.execArm tag code s
  | .release tag => Sys2Proof.Machine.execRelease tag s
  | .mailboxUnknownCode core tag code => Sys2Proof.Machine.execMailboxUnknownCode core tag code s
  | .registerWrite bar offset value => Sys2Proof.Machine.execRegisterWrite bar offset value s
  | .snapPin => Sys2Proof.Machine.execSnapPin s
  | .mgmtSnapshotTrigger => Sys2Proof.Machine.execMgmtSnapshotTrigger s
  | .reset => Sys2Proof.Machine.execReset s
  | .bootStepDone unit ok => Sys2Proof.Machine.execBootStepDone unit ok s
  | .journalCommit => Sys2Proof.Machine.execJournalCommit s
  | .powerFail => Sys2Proof.Machine.execPowerFail s
  | .powerFailDrainDone => Sys2Proof.Machine.execPowerFailDrainDone s
  | .flitReceive port flit => Sys2Proof.Machine.execFlitReceive port flit s
  | .laneRemoval port => Sys2Proof.Machine.execLaneRemoval port s
  | .portRetryLimit port => Sys2Proof.Machine.execPortRetryLimit port s
  | .portSilenceTimeout port => Sys2Proof.Machine.execPortSilenceTimeout port s
  | .portTrainingDone port lanes => Sys2Proof.Machine.execPortTrainingDone port lanes s
  | .pathReopen package => Sys2Proof.Machine.execPathReopen package s
  | .frayNotice id => Sys2Proof.Machine.execFrayNotice id s
  | .proxyCancel id => Sys2Proof.Machine.execProxyCancel id s
  | .hostLinkDown => Sys2Proof.Machine.execHostLinkDown s
  | .illegalInstruction => Sys2Proof.Machine.execIllegalInstruction s
  | .poisonedInstructionFetch code => Sys2Proof.Machine.execPoisonedInstructionFetch code s
  | .targetFetchSegmentTrap => Sys2Proof.Machine.execTargetFetchSegmentTrap s
  | .imageGiven ctx core => Sys2Proof.Machine.execImageGiven ctx core s

end Sys2Proof.Machine
end

