-- ==== Sys2Proof/Machine/Fetch.lean ====
section
/-! DEFINITION. What a turn does: a core's rotation and fetch (R61, R81, R89, R134 to R136, R171, R373, R377), the device's own
steps, and the default agenda (log 1). -/

namespace Sys2Proof.Machine

/-! ### The rotation (R135, R136, R151) -/

/-- A slot last issued long enough ago: never twice within four consecutive cycles (R134). -/
def slotRested (s : State) (c : Core) (slot : Nat) : Bool := match Tab.find c.last slot with
  | some n => decide (n + 4 ≤ s.cycle)
  | none => true

/-- A slot qualifies for the choice: what stood at its beginning of the cycle lets it (R137), and it has waited (R135). -/
def slotReady (s : State) (c : Core) (slot : Nat) : Bool := slotRested s c slot && c.able.contains slot

/-- The slots that a core's rotation may choose in this cycle, in its order: compact (R135), or fixed with its phase (R136). -/
def readySlots (s : State) (c : Core) : List Nat :=
  if issuedNow s c then []
  else match c.phase with
    | none => ((List.range 8).map fun i => (c.ptr + i + 1) % 8).filter (slotReady s c)
    | some φ =>
      let slot := (s.cycle + 8 - φ % 8) % 8
      if slotReady s c slot then [slot] else []

/-- The issue is recorded: the rotation's pointers, and the slots that a `YIELD` still waits for (R151). -/
def noteIssue (s : State) (core slot sid : Nat) : State :=
  let s1 := s.modCore core fun c => { c with ptr := slot, last := Tab.put c.last slot s.cycle }
  let s2 := s1.setStrands (s1.strands.map fun p =>
    (p.1, if p.2.core = core ∧ p.2.yieldTo.contains slot then { p.2 with yieldTo := p.2.yieldTo.erase slot } else p.2))
  s2.modStrand sid fun k => { k with yieldTo := [], vccTarget := none }

/-! ### Fetch (R61, R81) -/

/-- What a fetch brings. -/
inductive Fetched where
  | word (w : Nat) (s : State)
  | other (o : Out)

/-- The fetch buffer of eight words takes one more; a full one drops the word at the lowest address (DESIGN CHOICE: R26 does not say
which word it drops; log 20). -/
def Strand.hold (k : Strand) (pc w : Nat) : Strand :=
  { k with ibuf := Tab.put (if k.ibuf.length < 8 then k.ibuf else k.ibuf.drop 1) pc w }

/-- The word of the fetch buffers at a strand's pc, as the array that holds it (R28; log 66). -/
def heldWord (sid : Nat) (k : Strand) : Nat := arrayKey (dieOf k.core) 1 (sid * 2 ^ 64 + k.pc)

/-- A fetch's read: a word, which the fetch buffer takes, or poison, which is observed. -/
def fetched (s : State) (sid : Nat) (k : Strand) (r : Rd) (code : Nat) : Fetched := match r.code with
  | some _ => .other (execPoisonedInstructionFetch code s)
  | none => .word (leNat r.bytes) ((renewArray s (heldWord sid k)).modStrand sid fun k => k.hold k.pc (leNat r.bytes))

/-- A word from memory, through the cluster's TLB (R373) and its cache (R26). Poison observes code 1 whatever its own (R81); a fetch over a dead path,
which Table 25-4 does not list, observes code 3 (DESIGN CHOICE, log 74). -/
def fetchMemory (s : State) (sid : Nat) (k : Strand) : Fetched :=
  match translate s k k.pc needEx with
  | .miss va => .other (.next (s.putStrand sid { k with stall := .walk va needEx }))
  | .at l =>
    match cacheHit s (clusterOf k.core) l 4 with
    | some x => fetched s.nextFree sid k (x.read l.key 4) 1
    | none =>
      if rowBusy s l || !landed s (dieOf k.core) l then .other (.next (s.putStrand sid (k.wait .request)))
      else
        let s1 := afterRead (learn (noteLoc s k.ctx l 4) (dieOf k.core) l) (clusterOf k.core) k.ctx l
        fetched s1 sid k (readLoc s l 4) (if pathOpen s l.pkg then 1 else 3)

/-- The word at a strand's pc: held in its fetch buffer, old or new (R81), or read. -/
def fetch (s : State) (sid : Nat) (k : Strand) : Fetched :=
  if fetchSegOk (segsOf s k.ctx k.core) k.pc = false then .other (execTargetFetchSegmentTrap s)
  else match Tab.find k.ibuf k.pc with
    | some w =>
      let s1 := noteArray k.ctx s (heldWord sid k)
      if arraySpoiled s (heldWord sid k) then
        .other (execPoisonedInstructionFetch 1 (s1.modStrand sid fun k => { k with ibuf := Tab.del k.ibuf k.pc }))
      else if Config.keepsHeldWord s.fresh then .word w s1.nextFree else fetchMemory s1.nextFree sid k
    | none => fetchMemory s sid k

/-- A word that has been fetched: the instruction it encodes, or none (R80). -/
def runWord (w : Nat) (s : State) : Out := match decodeWord w with
  | .ok i => exec i s
  | .error _ => execIllegalInstruction s

/-- The first entry of a pair executes with its P word (R88, R89). -/
def runPair (sid : Nat) (o : Out) : Out := match o with
  | .next s => match Tab.find s.strands sid with
    | some k => match k.pair with
      | [w, _] => runWord w s
      | _ => .next s
    | none => .next s
  | o => o

/-- A strand issues: the rest of a pair, or the word at its pc. -/
def issueWord (s : State) (sid : Nat) (k : Strand) : Out :=
  match k.pair with
  | w :: _ => runWord w s
  | [] => match fetch s sid k with
    | .other o => o
    | .word w s1 => runPair sid (runWord w s1)

/-- What a unit that begins with a word counts (R171): a hint run and its instruction, a P word and its entries, or one. -/
def unitCount (w : Nat) : Nat := match decodeWord w with
  | .ok (.pair _ _) => 3
  | .ok i => if isHintOrPair i then 2 else 1
  | .error _ => 1

/-- In an eager scope the count would pass 4,096 within the unit that is to issue: its point comes before it (R171, R169). -/
def eagerFirst (s : State) (sid : Nat) (k : Strand) : Bool :=
  k.counts && k.run.isNone && k.pair.isEmpty && (decide (4096 ≤ k.eager) || (match fetch s sid k with
    | .word w _ => decide (4096 < k.eager + unitCount w)
    | .other _ => false))

/-- The attempt of a strand's issue came to nothing: it has parked, or stalls for a request, a walk or a migration, and its
instruction has not issued. -/
def idled (sid : Nat) : Out → Bool
  | .next t => match Tab.find t.strands sid with
    | some k => k.stall == .request || (match k.stall with
        | .walk _ _ => true
        | .leave _ => true
        | _ => false) || (match k.phase with
        | .parked (.reg _) => true
        | .parked (.ret _) => true
        | .parked .space => true
        | .parked .index => true
        | _ => false)
    | none => false
  | _ => false

/-- The words of a hint run after its first and the instruction, one after another: a trial whether the instruction can issue
(R83). -/
def runOut (sid : Nat) : Nat → Out → Out
  | 0, o => o
  | n + 1, .next t => match Tab.find t.strands sid with
    | some k => if k.run.isSome && k.phase == .running && k.stall == .none then runOut sid n (issueWord t sid k) else .next t
    | none => .next t
  | _, o => o

/-- A unit that cannot issue waits before its first word (R83). -/
def beforeRun (sid : Nat) : Out → Out
  | .next t => .next (t.modStrand sid fun k => if k.run.isSome then k.rewind else k)
  | o => o

/-- A word has begun a hint run. -/
def startsRun (sid : Nat) (k : Strand) (o : Out) : Bool := k.run.isNone && (match o with
  | .next t => ((Tab.find t.strands sid).bind (·.run)).isSome
  | _ => false)

/-- The strand's pending cancel has been acted on. -/
def pointActed (sid : Nat) (k : Strand) (o : Out) : Bool := k.st.c && (match o with
  | .next t => match Tab.find t.strands sid with
    | some j => !j.st.c
    | none => true
  | _ => false)

/-- A strand's next word issues; the first word of a hint run only when the run's instruction can, and a cancellation point at which
that instruction would act comes before it (R83, R169). -/
def issueUnit (s : State) (sid : Nat) (k : Strand) : Out :=
  let o := issueWord s sid k
  let last := runOut sid 4 o
  if startsRun sid k o && (idled sid last || pointActed sid k last) then beforeRun sid last else o

/-- A strand's turn to issue; in an eager scope the count may force a cancellation point first (R171): one just before an `SCLOSE` is
no point of the `SCLOSE` itself (DESIGN CHOICE, log 80). The point of a wake comes before the first word of a hint run (R169). -/
def issueStrand (s : State) (sid : Nat) : Out :=
  match Tab.find s.strands sid with
  | none => .next s
  | some k =>
    if eagerFirst s sid k || (k.recheck && startsRun sid k (issueWord s sid k)) then
      let p := cancelPoint (s.putStrand sid { k with recheck := false }) sid
      if p.2 then
        match Tab.find p.1.strands sid with
        | some k1 => issueUnit p.1 sid k1
        | none => .next p.1
      else .next p.1
    else issueUnit s sid k

/-- The chosen slot issues. Where a step of this very cycle stands against it, the choice is spent and nothing issues (R137). -/
def issueChosen (s : State) (core slot sid : Nat) : Out := match Tab.find s.strands sid with
  | none => .next s
  | some k =>
    if strandReady s k = false then .next s
    else
      let o := issueStrand { noteIssue s core slot sid with cur := some sid } sid
      if idled sid o then issueStrand { s with cur := some sid } sid else o

/-- A core's turn: nothing issues after a package fault or a power failure (R225, R448). -/
def issueTurn (s : State) (core : Nat) : Out :=
  if s.sys.packageFault || s.sys.powerFail then .next s
  else match Tab.find s.cores core with
    | none => .next s
    | some c => match readySlots s c with
      | [] => .next s
      | slot :: _ => match Tab.find c.slots slot with
        | none => .next s
        | some sid => issueChosen s core slot sid

/-! ### The device's own steps -/

/-- Steps that a fetch brings about: they are no events of their own. -/
def fetchStep : Instr → Bool
  | .illegalInstruction => true
  | .poisonedInstructionFetch _ => true
  | .targetFetchSegmentTrap => true
  | _ => false

/-- What goes on while the control state drains (R448). -/
def duringDrain : Instr → Bool
  | .powerFailDrainDone => true
  | .reset => true
  | .step _ _ => true
  | .snapPin => true
  | .mgmtSnapshotTrigger => true
  | _ => false

/-- What can still happen to a package that is held for reset (R225). -/
def whileHeld : Instr → Bool
  | .reset => true
  | .powerFail => true
  | .powerFailDrainDone => true
  | .snapPin => true
  | .mgmtSnapshotTrigger => true
  | _ => false

/-- The command that one of the steps of a firmware core takes, and the core. -/
def asCommand : Instr → Option (Nat × FirmCommand)
  | .keyset tag ctx addr => some (0, ⟨0x20, tag, [ctx, addr]⟩)
  | .create tag addr => some (1, ⟨0x10, tag, [addr]⟩)
  | .destroy tag q => some (1, ⟨0x11, tag, [q]⟩)
  | .resumeq tag q skip => some (1, ⟨0x12, tag, [q, skip]⟩)
  | .load tag ctx addr => some (1, ⟨0x13, tag, [addr, ctx]⟩)
  | .unload tag ctx kernel => some (1, ⟨0x14, tag, [kernel, ctx]⟩)
  | .define tag addr => some (2, ⟨0x01, tag, [addr]⟩)
  | .setseg tag ctx addr => some (2, ⟨0x02, tag, [ctx, addr]⟩)
  | .setprio tag ctx prio quantum => some (2, ⟨0x03, tag, [ctx, prio, quantum]⟩)
  | .suspend tag ctx => some (2, ⟨0x04, tag, [ctx]⟩)
  | .resume tag ctx => some (2, ⟨0x05, tag, [ctx]⟩)
  | .teardown tag ctx => some (2, ⟨0x06, tag, [ctx]⟩)
  | .mendroot tag ctx => some (2, ⟨0x07, tag, [ctx]⟩)
  | .map tag ctx va leaf => some (3, ⟨0x30, tag, [ctx, va, leaf]⟩)
  | .leaf tag ctx va => some (3, ⟨0x31, tag, [ctx, va]⟩)
  | .logread tag index => some (4, ⟨0x38, tag, [index]⟩)
  | .quiesce tag port => some (5, ⟨0x40, tag, [port]⟩)
  | .unquiesce tag port => some (5, ⟨0x41, tag, [port]⟩)
  | .retrain tag port => some (5, ⟨0x42, tag, [port]⟩)
  | .route tag package mask => some (5, ⟨0x43, tag, [package, mask]⟩)
  | .step tag level => some (6, ⟨0x50, tag, [level]⟩)
  | .arm tag code => some (7, ⟨0x60, tag, [code]⟩)
  | .release tag => some (7, ⟨0x61, tag, []⟩)
  | .mailboxUnknownCode core tag code => some (core, ⟨code, tag, []⟩)
  | _ => none

/-- The item in flight that a step takes at its destination. -/
def eventFlight : Instr → Option Nat
  | .remoteScratchpadRequest id => some id
  | .atomicAtHome id => some id
  | .barrierHomeOperation id => some id
  | .engineArrival id => some id
  | .messageArrival id => some id
  | .proxyCancel id => some id
  | _ => none

/-- One of the device's own steps; an instruction word is none. A command waits behind those submitted before it (R440), and what
another package takes comes in the order in which it was sent (R425). -/
def runEvent (i : Instr) (s : State) : Out :=
  if isWord i || fetchStep i || (s.sys.powerFail && !duringDrain i) || (s.sys.packageFault && !whileHeld i) then .next s
  else if ((eventFlight i).map (mayArrive s)) = some false then .next s
  else match asCommand i with
    | some (core, c) => if (submitted s core).isEmpty then exec i s else .next (later s core c)
    | none => exec i s

/-! ### The default agenda (log 1) -/

/-- The step that an item in flight awaits. -/
def flightStep (id : Nat) (f : Flight) : State → Out := match f with
  | .loadRet _ _ _ none => execLoadDataReturn id
  | .loadRet _ _ _ (some _) => execGangLoadDue id
  | .remoteLoad _ _ _ _ _ _ => execRemoteScratchpadRequest id
  | .remoteStore _ _ _ _ => execRemoteScratchpadRequest id
  | .wrote _ _ _ => execRemoteScratchpadRequest id
  | .vecLoad _ _ _ _ _ _ _ _ => execRemoteScratchpadRequest id
  | .vecRet _ _ _ _ none => execLoadDataReturn id
  | .vecRet _ _ _ _ (some _) => execGangLoadDue id
  | .atomic _ false => execAtomicAtHome id
  | .atomic _ true => execFaultReplay id
  | .atomicRet _ _ _ _ _ => execAtomicResultReturn id
  | .claim c => if c.stage = 0 ∨ c.stage = 2 then execClaimStageArrival id
    else if c.stage = 4 then execAtomicAtHome id else if c.stage = 5 then execFaultReplay id else execClaimCombineTimeout id
  | .claimReply _ _ => execClaimReplySplit id
  | .msg _ => execMessageArrival id
  | .ack _ _ _ => execSendAckReturn id
  | .share _ _ _ _ => execShareReturn id
  | .borrowReq _ _ _ => execBorrowRequest id
  | .borrowGrant _ _ => execBorrowGrant id
  | .cancel _ _ => execCancelArrival id
  | .childLink _ _ _ => execChildLinkArrival id
  | .barrier _ _ _ _ => execBarrierHomeOperation id
  | .bwaitRet _ _ _ _ _ => execBwaitReply id
  | .lockRet _ _ _ _ _ => execLockGrant id
  | .lockUpdate _ _ _ _ => execBarrierHomeOperation id
  | .arrival _ false => execEngineArrival id
  | .arrival _ true => execFaultReplay id
  | .arrived _ _ => execEngineArrival id
  | .donation _ _ _ _ => execDonationEvent id 0
  | .stamped _ _ _ _ _ => execCrossDieWriteApply id
  | .migration _ _ _ _ => execMigrationArrival id
  | .faultReq _ _ => execPageFaultRequest id
  | .repairWake _ _ => execRepairWake id
  | .advice _ _ _ => execPageAdviceEvent id 0
  | .frayNotice _ _ _ => execFrayNotice id
  | .proxyCancel _ _ _ => execProxyCancel id

/-- The steps that a strand awaits. -/
def strandSteps (sid : Nat) (k : Strand) : List (State → Out) :=
  (if k.vccTarget.isSome then [execAtTargetReached sid] else []) ++
  (match k.phase with
    | .placed => [execStrandSetupDone sid]
    | .cancelling => [execStrandRetire sid]
    | _ => []) ++
  (match k.stall with
    | .walk _ _ => [execPageWalk sid]
    | .fence _ => [execFenceDrainComplete sid]
    | .leave _ => [execMigrationDepart sid]
    | _ => [])

/-- The steps that an engine operation awaits. -/
def opSteps (s : State) (op : Nat) (o : EngineOp) : List (State → Out) :=
  if o.sel.isNone then
    [execAfterPredecessorsEnded op, execCopyOperationStart op, execEngineBarrierProbe op, execCopyProgress op, execCopyComplete op,
      execCopyFail op, execCopyStop op 0, execEngineFaultPark op, execFaultReplay op]
  else [execAfterPredecessorsEnded op, execSelectionRequestStart op, execEngineBarrierProbe op] ++
    ((List.range 8 ++ s.links.paths.map fun (p : Nat × Path) => 8 + p.1).flatMap fun st => [execSelectionPieceScan op st, execSelectionPartialArrival op st]) ++
    [execSelectionOutputWrite op, execSelectionFail op, execSelectionStop op, execEngineFaultPark op, execFaultReplay op]

/-- The steps that a core and its quad await, its issue among them. -/
def coreSteps (core : Nat) (c : Core) : List (State → Out) :=
  [fun s => issueTurn s core, execMvuDispatchOpportunity (quadOf core), execMmagGroupStepDone (quadOf core),
    execMvuOperationDone (quadOf core)] ++
    (match freeSlot c with
      | some slot => [execArrivalQueueTake core slot, execRecordPop core slot, execRecordSteal core slot]
      | none => []) ++
    [execSegmentInterrupt core, execMeshInterrupt core, execPreemptRelease core, execQuantumExpiry core]

/-- The steps that retention banks, contested regions and rows under remapping await (R30, R33, R364). -/
def protSteps (p : Prot) : List (State → Out) :=
  (p.banks.map fun x => execRetentionTransitionDone (x.1 / 16) (x.1 % 16)) ++
    (p.regions.flatMap fun x => [execRegionSaveDone x.1, execRegionRestoreDone x.1]) ++
    p.remapping.map fun key => execRowRemapDone (key / 2 ^ 25) (key % 2 ^ 25)

/-- The steps that gangs, polling waiters, pages under migration and dead paths await (R296, R204, R372, R421). -/
def waitSteps (s : State) : List (State → Out) :=
  (s.gangs.flatMap fun p => [execGangPauseTimeout p.1, execGangRendezvousTimeout p.1]) ++
    ((s.sync.monitors.filter (·.poll)).map fun m => execWaitaPoll m.sid) ++
    ((s.xlat.pages.filter fun p => leafState p.2.leaf == 2).map fun p => execPageMigrationCopyEnd (pageCtx p.1) (pageVa p.1)) ++
    (s.links.paths.filter fun p => p.2.state == .dead).map fun p => execPathReopen p.1

/-- A frame that the default agenda gives a page: the lowest of its package's first frame and those next above a held one. -/
def freshFrame (s : State) (size pkg swz : Nat) : Option Nat :=
  (pkg * 2 ^ 39 :: s.xlat.pages.map fun p => (leafFrame p.2.leaf + leafSize p.2.leaf + size - 1) / size * size).find? fun f =>
    frameOk s f size pkg swz

/-- The repairs that pages await (R373). -/
def repairSteps (s : State) : List (State → Out) := s.xlat.repairs.filterMap fun key =>
  match Tab.find s.xlat.pages key with
  | some p => (freshFrame s (leafSize p.leaf) (leafPkg p.leaf) (leafSwz p.leaf)).map fun f => execPageRepairDone (pageCtx key) (pageVa key) f
  | none => none

/-- Cores that a spooled record or an image waits for. -/
def schedulerSteps (s : State) : List (State → Out) :=
  (s.groups.spools.map fun p => execImageGiven (p.1 / 4096) (p.1 % 4096)) ++
    s.images.map fun p => execImageResume (p.1 / 4096) (p.1 % 4096) (p.1 % 4096)

/-- The steps that a queue awaits. -/
def queueSteps (q : Nat) (x : Queue) : List (State → Out) :=
  [execQueueMapDone q, execQueuePageInDone q, execQueueLaunch q, execQueueCopy q, execQueueSignal q, execQueueWait q,
    execQueueTimestamp q, execQueueWaitEvictTimeout q, execQueuePageOut q] ++ x.started.flatMap fun c => [execQueueWaitSatisfied q c.n, execQueueCommandComplete q c.n]

/-- The steps that ports await: their training, and the acknowledgments of their peers. -/
def portSteps (p : Nat) (x : Port) : List (State → Out) :=
  (if x.state == .training then [execPortTrainingDone p 8] else []) ++ (if x.unacked.isEmpty then [] else [execFlitReceive p (peerAck x)])

/-- Everything that waits for a step, in one order. -/
def agenda (s : State) : List (State → Out) :=
  (s.cores.flatMap fun p => coreSteps p.1 p.2) ++
    ((s.flights.filter fun p => mayArrive s p.1).map fun p => flightStep p.1 p.2) ++
    (s.strands.flatMap fun p => strandSteps p.1 p.2) ++
    (s.ops.flatMap fun p => opSteps s p.1 p.2) ++
    schedulerSteps s ++ protSteps s.prot ++ waitSteps s ++ repairSteps s ++
    (s.queues.flatMap fun p => queueSteps p.1 p.2) ++
    (s.launches.filterMap fun p =>
      (Tab.find s.groups.scopes p.1).map fun r => execKernelRootClose (p.1 / 2 ^ 17) r.handle) ++
    (s.kernels.map fun p => execKernelPinningDone (p.1 / 2 ^ 32) (p.1 % 2 ^ 32)) ++
    (s.xlat.shootdowns.map fun x => execShootdownComplete x.ctx x.va) ++
    (s.links.ports.flatMap fun p => portSteps p.1 p.2) ++ (s.sys.doorbells.map fun p => firmwareTurn p.1) ++
    [execBootStepDone 0 1, execJournalCommit, execPowerStepSettled]

/-! ### Time (R137, R291) -/

/-- One slot as a cycle begins: it can issue, or its strand parks or stalls before its next unit (R96, R129, R134). The slots that
can are gathered. -/
def tryStrand (p : State × List Nat) (slot sid : Nat) : State × List Nat := match Tab.find p.1.strands sid with
  | none => p
  | some k =>
    if strandReady p.1 k = false then p
    else
      let o := issueStrand { p.1 with cur := some sid } sid
      if idled sid o then
        match o with
        | .next t => ({ t with cur := p.1.cur }, p.2)
        | _ => p
      else (p.1, p.2 ++ [slot])

/-- The slots of one core as a cycle begins. -/
def markCore (s : State) (core : Nat) : State := match Tab.find s.cores core with
  | none => s
  | some c =>
    let r := c.slots.foldl (fun p x => tryStrand p x.1 x.2) (s, [])
    r.1.modCore core fun c => { c with able := r.2 }

/-- A cycle begins: what stands against a slot now decides whether it may be chosen in it (R137). -/
def markAble (s : State) : State := if s.sys.packageFault || s.sys.powerFail then s else (s.cores.map (·.1)).foldl markCore s

/-- One cycle passes. -/
def tick (s : State) : State :=
  let s1 := { deliverDue s with cycle := s.cycle + 1 }
  markAble (s1.gangs.foldl tickGang s1)

/-- `n` cycles pass, fewer while a gang's due load has still to fill. -/
def passTicks : Nat → State → State
  | 0, s => s
  | n + 1, s => if fillsNow s then s else passTicks n (tick s)

def passTime (n : Nat) (s : State) : State :=
  if n = 0 then s else if s.gangs.isEmpty then markAble { deliverDue s with cycle := s.cycle + n } else passTicks n s

/-- What goes on between turns without a step of its own: the links send (R423), a QUIESCE or a TEARDOWN ends, queues get slots and
their status blocks, the capability list is brought up to date (R395, R410, R415, R445). -/
def betweenTurns (s : State) : State :=
  if firmwareUp s then republish (writeDue (serveSlot (finishTeardowns (finishQuiesces (linkTurn s))))) else s

/-- The state in which a turn acts: its cycles have passed and its choice is offered. -/
def enterTurn (dt pick : Nat) (s : State) : State :=
  trackReplies (passTime dt (betweenTurns { s with pick := pick, cur := none }))

/-- The turn that comes when none is given: the next of the agenda, after one cycle. -/
def defaultTurn (s : State) : Out :=
  let s1 := enterTurn 1 s.rot { s with rot := s.rot + 1 }
  if s1.sys.powerFail then execPowerFailDrainDone s1
  else if s1.sys.packageFault then .next s1
  else (agenda s1).getD (s.rot % (agenda s1).length) execPowerStepSettled s1

/-- A turn that is given. -/
def runTurn (t : Turn) (s : State) : Out := match t.act with
  | .issue core => issueTurn (enterTurn t.dt t.pick s) core
  | .firmware core => firmwareTurn core (enterTurn t.dt t.pick s)
  | .event i => runEvent i (enterTurn t.dt t.pick s)

end Sys2Proof.Machine
end

