-- ==== Sys2Proof/Machine/Step.lean ====
section
/-! DEFINITION. One step of the machine, and a state in which the next step fetches a given word. -/

namespace Sys2Proof.Machine

/-- One step: the next turn is taken, or the next of the default agenda. -/
def step (s : State) : Host.Outcome State Fault Refusal := match s.turns with
  | t :: ts => runTurn t { s with turns := ts }
  | [] => defaultTurn s

/-- The context under which a placed word runs: segment 0 covers its page with every right (log 34). -/
def fetchContext : Context := {
  state := .resident, segs := [15 * 2 ^ 124 + 2 ^ 60 * 2 ^ 61], quads := 1, cmem := 0, csize := 145, prio := 0, quantum := 0
  rights := 0, key := 0, keySet := false, root := 0, events := [], posted := 0, suspending := none, setseg := none
  tearing := none }

/-- The kernel of the placed word. -/
def fetchKernel : Kernel := {
  state := .running, desc := 0, image := 0, isize := 65536, entry := 0, tvec := none, dict := [], vregs := 32, steal := 0, gang := 0
  sright := false, slotImage := none, bounds := [], tiles := [], roots := [], launches := 0 }

/-- The leaf of the placed word's page: resident, every right, frame 0 of the package. -/
def fetchLeaf (pkg : Nat) : Nat := 2 ^ 63 + 2 ^ 60 + 15 * 2 ^ 56 + 2 ^ 52 + pkg * 2 ^ 23

/-- The strand that issues the placed word: every general register full with zero, 32 vector registers. -/
def fetchStrand : Strand :=
  let k := Strand.fresh 0 0 0 0 0 32 ⟨0, [], [], 2 ^ 35, 0, 0, 0⟩
  { k with phase := .running, regs := Vector.replicate 16 ⟨0, true, false, 0, false⟩ }

/-- The state with a word placed where the next step fetches: at virtual address 0 of context 0, for the strand in slot 0
of core 0 (log 34). -/
def State.withFetchWord (s : State) (nbits w : Nat) : State :=
  let key := s.pkg * 2 ^ 39
  let s1 := cleanWrite s key (leBytes 4 (w % 2 ^ nbits))
  { s1 with
    caches := ⟨[], []⟩
    turns := [⟨0, 0, .issue 0⟩]
    strands := Tab.put s1.strands 0 fetchStrand
    cores := Tab.put s1.cores 0 { Core.blank with ctx := 0, mode := .running, slots := [(0, 0)], able := [0], kernel := some 0 }
    xlat := { s1.xlat with
      pages := Tab.put s1.xlat.pages 0 ⟨fetchLeaf s.pkg, 1, false, 0⟩
      tlb := Tab.put s1.xlat.tlb 0 [⟨0, 0, fetchLeaf s.pkg⟩] }
    ctxs := Tab.put s1.ctxs 0 fetchContext
    kernels := Tab.put s1.kernels 0 fetchKernel
    gangs := []
    sys := { s1.sys with packageFault := false, powerFail := false } }

end Sys2Proof.Machine
end

