-- ==== Sys2Proof/Safety.lean ====
section
/-! DEFINITION. The terms in which claims are made: what it means that an instruction issues with nothing in its way, what the
rules give as results in plain integers, and what a step leaves alone. -/

namespace Sys2Proof.Machine

/-! ### When an instruction issues normally -/

/-- Strand `sid`, whose record is `k`, issues the instruction: it is legal with its hints (R80, R83), no wake's cancellation
point is due (R169), the registers it reads are full (R96), those it writes await no return (R97), and no register word holds an error
(R28, R29). -/
abbrev Issues (s : State) (sid : Nat) (k : Strand) (i : Instr) (reads dests : List Nat) : Prop :=
  s.cur = some sid ∧ Tab.find s.strands sid = some k ∧ unitLegal k i = true ∧ k.recheck = false ∧
    firstEmpty k reads = none ∧ firstPending k dests = none ∧ k.errs = []

/-- The same for an instruction of the vector unit (R244, R293). -/
abbrev IssuesV (s : State) (sid : Nat) (k : Strand) (i : Instr) (vs reads dests : List Nat) : Prop :=
  Issues s sid k i reads dests ∧ k.vcount ≠ 0 ∧ vregsOk k vs = true ∧ vecPending s sid vs = false

/-- No register of the list is frayed (R95). -/
abbrev AllClean (k : Strand) (rs : List Nat) : Prop := firstFray k rs = none

/-- The strand goes on past its cancellation point: the point is taken already, or there is no pending cancel that its shield
lets through (R169, R170) and no taint (R351). -/
abbrev Quiet (k : Strand) : Prop := k.again = true ∨ ((k.st.c = false ∨ 0 < k.st.sd) ∧ k.st.t = false)

/-- The strand after its cancellation point found nothing to do: the eager count starts anew (R171). -/
def Strand.pointed (k : Strand) : Strand := if k.again then k else { k with eager := 0 }

/-! ### Results in plain integers -/

/-- The signed and unsigned readings of a general register. -/
def Strand.z (k : Strand) (r : Nat) : Int := (k.val r).toInt
def Strand.n (k : Strand) (r : Nat) : Int := (k.val r).toNat

/-- An immediate field of `w` bits, or the extended immediate of w + 24 bits of a hint (R64, R84). -/
def Strand.immOf (k : Strand) (w x : Nat) : Int := match k.imm with
  | none => (BitVec.ofNat w x).toInt
  | some e => (BitVec.ofNat (w + 24) (e * 2 ^ w + x)).toInt

/-- A condition of Table 04-2 between two values of one width. -/
def ccHolds {w : Nat} (c : Nat) (x y : BitVec w) : Bool := match c with
  | 0 => x == y
  | 1 => x != y
  | 2 => x.slt y
  | 3 => y.sle x
  | 4 => x.sle y
  | 5 => y.slt x
  | 6 => x.ult y
  | 7 => y.ule x
  | 8 => x.ule y
  | 9 => y.ult x
  | _ => false

/-- `ADDP` as the procedure of R104 writes it. -/
def addpRule (x : Word) (y : Int) : Int :=
  if x.toNat / 2 ^ 61 = 7 then (x.toNat / 2 ^ 41 * 2 ^ 41 : Nat) + ((x.toNat % 2 ^ 41 : Nat) + y) % 2 ^ 41
  else (x.toNat / 2 ^ 61 * 2 ^ 61 : Nat) + ((x.toNat % 2 ^ 61 : Nat) + y) % 2 ^ 61

/-- The destination, the sources and the result modulo 2^64 of an integer instruction (Table 05-2, Table 05-4, R101 to R104). -/
def integerRule (k : Strand) : Instr → Option (Nat × List Nat × Int)
  | .add d a b => some (d, [a, b], k.n a + k.n b)
  | .sub d a b => some (d, [a, b], k.n a - k.n b)
  | .mul d a b => some (d, [a, b], k.n a * k.n b)
  | .mulh d a b => some (d, [a, b], k.z a * k.z b / 2 ^ 64)
  | .mulhn d a b => some (d, [a, b], k.n a * k.n b / 2 ^ 64)
  | .div d a b => some (d, [a, b], if k.n b = 0 then -1 else (k.z a).tdiv (k.z b))
  | .divn d a b => some (d, [a, b], if k.n b = 0 then -1 else k.n a / k.n b)
  | .rem d a b => some (d, [a, b], if k.n b = 0 then k.n a else (k.z a).tmod (k.z b))
  | .remn d a b => some (d, [a, b], if k.n b = 0 then k.n a else k.n a % k.n b)
  | .and d a b => some (d, [a, b], ((k.nat a &&& k.nat b : Nat) : Int))
  | .or d a b => some (d, [a, b], ((k.nat a ||| k.nat b : Nat) : Int))
  | .xor d a b => some (d, [a, b], ((k.nat a ^^^ k.nat b : Nat) : Int))
  | .andn d a b => some (d, [a, b], ((k.nat a &&& (2 ^ 64 - 1 - k.nat b) : Nat) : Int))
  | .orn d a b => some (d, [a, b], ((k.nat a ||| (2 ^ 64 - 1 - k.nat b) : Nat) : Int))
  | .shl d a b => some (d, [a, b], k.n a * (2 ^ (k.nat b % 64) : Nat))
  | .shr d a b => some (d, [a, b], k.n a / (2 ^ (k.nat b % 64) : Nat))
  | .sha d a b => some (d, [a, b], k.z a / (2 ^ (k.nat b % 64) : Nat))
  | .rot d a b => some (d, [a, b], k.n a * (2 ^ (k.nat b % 64) : Nat) + k.n a / (2 ^ (64 - k.nat b % 64) : Nat))
  | .min d a b => some (d, [a, b], Min.min (k.z a) (k.z b))
  | .max d a b => some (d, [a, b], Max.max (k.z a) (k.z b))
  | .minn d a b => some (d, [a, b], Min.min (k.n a) (k.n b))
  | .maxn d a b => some (d, [a, b], Max.max (k.n a) (k.n b))
  | .clz d a => some (d, [a], (((List.range 64).takeWhile fun j => !(k.val a).getLsbD (63 - j)).length : Nat))
  | .ctz d a => some (d, [a], (((List.range 64).takeWhile fun j => !(k.val a).getLsbD j).length : Nat))
  | .popc d a => some (d, [a], (((List.range 64).countP fun j => (k.val a).getLsbD j) : Nat))
  | .brev d a => some (d, [a], ((k.val a).reverse.toNat : Nat))
  | .mov d a => some (d, [a], k.n a)
  | .sel d a b c => some (d, [a, b, c], if k.n c ≠ 0 then k.n a else k.n b)
  | .addp d a b => some (d, [a, b], addpRule (k.val a) (k.z b))
  | .cmp d a b c => some (d, [a, b], if ccHolds c (k.val a) (k.val b) then 1 else 0)
  | .ext d a l p => some (d, [a], (BitVec.ofNat (l + 1) (k.nat a / 2 ^ p)).toInt)
  | .extn d a l p => some (d, [a], ((BitVec.ofNat (l + 1) (k.nat a / 2 ^ p)).toNat : Nat))
  | .ins d a l p => some (d, [a, d],
      ((k.nat d / 2 ^ (p + l + 1) * 2 ^ (p + l + 1) + k.nat a % 2 ^ (l + 1) * 2 ^ p + k.nat d % 2 ^ p : Nat) : Int))
  | .addi d a x => some (d, [a], k.n a + k.immOf 18 x)
  | .andi d a x => some (d, [a], ((k.nat a &&& (BitVec.ofInt 64 (k.immOf 18 x)).toNat : Nat) : Int))
  | .ori d a x => some (d, [a], ((k.nat a ||| (BitVec.ofInt 64 (k.immOf 18 x)).toNat : Nat) : Int))
  | .xori d a x => some (d, [a], ((k.nat a ^^^ (BitVec.ofInt 64 (k.immOf 18 x)).toNat : Nat) : Int))
  | .shli d a n => some (d, [a], k.n a * (2 ^ n : Nat))
  | .shri d a n => some (d, [a], k.n a / (2 ^ n : Nat))
  | .shai d a n => some (d, [a], k.z a / (2 ^ n : Nat))
  | .lih d x => some (d, [], (x : Int) * 2 ^ 42)
  | .cmpi d a c x => some (d, [a], if ccHolds c (k.val a) (BitVec.ofInt 64 (k.immOf 14 x)) then 1 else 0)
  | _ => none

/-! ### Floating results -/

/-- The FP32 pattern in the low half of a register (R105). -/
def Strand.f (k : Strand) (r : Nat) : Nat := (k.val r).toNat % 2 ^ 32

/-- A NaN pattern of FP32, and a signalling one (R38, R39). -/
def isNaN32 (x : Nat) : Bool := decide (0x7F800000 < x % 2 ^ 31)
def isSNaN32 (x : Nat) : Bool := isNaN32 x && decide (x % 2 ^ 31 < 0x7FC00000)

/-- Where a non-NaN FP32 pattern stands in the order of values: -0 = +0. -/
def place32 (x : Nat) : Int := if x / 2 ^ 31 % 2 = 1 then -((x % 2 ^ 31 : Nat) : Int) else (x % 2 ^ 31 : Nat)

/-- The same with -0 below +0 (Table 05-5). -/
def strictPlace32 (x : Nat) : Int := if x / 2 ^ 31 % 2 = 1 then -1 - ((x % 2 ^ 31 : Nat) : Int) else (x % 2 ^ 31 : Nat)

/-- A condition of `FCMP` between two places (R106). -/
def ccPlaces (c : Nat) (x y : Int) : Bool := match c with
  | 0 => decide (x = y)
  | 1 => decide (x ≠ y)
  | 2 => decide (x < y)
  | 3 => decide (x ≥ y)
  | 4 => decide (x ≤ y)
  | 5 => decide (x > y)
  | _ => false

/-- NV when some operand of a list is a signalling NaN. -/
def nvOfSignalling (xs : List Nat) : Fp.Flags := if xs.any isSNaN32 then Fp.flagNV else 0

/-- `FMIN` and `FMAX` as Table 05-5 gives them. -/
def minMaxRule (max : Bool) (x y : Nat) : Nat :=
  if isNaN32 x && isNaN32 y then 0x7FC00000
  else if isNaN32 x then y
  else if isNaN32 y then x
  else if max then (if strictPlace32 x < strictPlace32 y then y else x)
  else (if strictPlace32 x > strictPlace32 y then y else x)

/-- `FCMP` as R106 gives it: the result and NV. -/
def fcmpRule (c x y : Nat) : Nat × Fp.Flags :=
  if isNaN32 x || isNaN32 y then
    (if c = 1 then 1 else 0, if c ≤ 1 then nvOfSignalling [x, y] else Fp.flagNV)
  else (if ccPlaces c (place32 x) (place32 y) then 1 else 0, 0)

/-- `FCVT` as R44 to R46 and R107 place it: source and destination types, rounding code, random bits, the source register. -/
def fcvtRule (dst src mode rho x : Nat) : Int × Fp.Flags :=
  let fmt := fun t : Nat => if t = 9 then Fp.fp16 else if t = 10 then Fp.bf16 else Fp.fp32
  if 8 ≤ src then
    let w := if src = 8 then 32 else 16
    if 8 ≤ dst then let r := Fp.convert (fmt src) (fmt dst) mode rho (x % 2 ^ w); (r.1, r.2)
    else
      let wd := if dst = 2 ∨ dst = 6 then 32 else 64
      Fp.toInt mode rho wd (dst == 2 || dst == 3) (Fp.value (fmt src) (x % 2 ^ w))
  else
    let y : Int := if src = 2 then (BitVec.ofNat 32 x).toInt else if src = 3 then (BitVec.ofNat 64 x).toInt
      else if src = 6 then (x % 2 ^ 32 : Nat) else x
    let r := Fp.ofInteger (fmt dst) mode rho y
    (r.1, r.2)

/-- The destination, the sources, the result modulo 2^64 and the flags of a scalar floating instruction (Table 05-5, R107). -/
def floatRule (k : Strand) : Instr → Option (Nat × List Nat × Int × Fp.Flags)
  | .fadd d a b r =>
    let x := Fp.deliverWith Fp.fp32 r 0 (Fp.addVal r (Fp.value Fp.fp32 (k.f a)) (Fp.value Fp.fp32 (k.f b)))
    some (d, [a, b], x.1, x.2)
  | .fsub d a b r =>
    let x := Fp.deliverWith Fp.fp32 r 0 (Fp.addVal r (Fp.value Fp.fp32 (k.f a)) (Fp.negVal (Fp.value Fp.fp32 (k.f b))))
    some (d, [a, b], x.1, x.2)
  | .fmul d a b r =>
    let x := Fp.deliverWith Fp.fp32 r 0 (Fp.mulVal (Fp.value Fp.fp32 (k.f a)) (Fp.value Fp.fp32 (k.f b)))
    some (d, [a, b], x.1, x.2)
  | .ffma d a b r =>
    let p := Fp.mulVal (Fp.value Fp.fp32 (k.f a)) (Fp.value Fp.fp32 (k.f b))
    let q := Fp.addVal r p.1 (Fp.value Fp.fp32 (k.f d))
    let x := Fp.deliverWith Fp.fp32 r 0 (q.1, q.2 ||| p.2)
    some (d, [a, b, d], x.1, x.2)
  | .fmin d a b => some (d, [a, b], minMaxRule false (k.f a) (k.f b), nvOfSignalling [k.f a, k.f b])
  | .fmax d a b => some (d, [a, b], minMaxRule true (k.f a) (k.f b), nvOfSignalling [k.f a, k.f b])
  | .fcmp d a b c => some (d, [a, b], (fcmpRule c (k.f a) (k.f b)).1, (fcmpRule c (k.f a) (k.f b)).2)
  | .fcvt d a b t y r =>
    let x := fcvtRule t y r (k.nat b % 2 ^ 16) (k.nat a)
    some (d, if r = 4 then [a, b] else [a], x.1, x.2)
  | _ => none

/-! ### Accesses -/

/-- An access of `n` bytes is granted at the place `l` on the issuer's own die: the segment check passes (R15, R21, R87), the
address is aligned (R108), no earlier request of the strand is on its way (log 2), the die has applied what its clock covers
(R224), and the place is the home core's own scratchpad with its bank and region ready (R31, R33) and no gang member's write
to it outstanding (R213), or a translated page of the die with the rights (R373, R374) whose row is in place (R364). -/
abbrev LocalAt (s : State) (sid : Nat) (k : Strand) (ptr n align need : Nat) (l : Loc) : Prop :=
  strandCheck s k ptr n need = true ∧ ptr % align = 0 ∧ memBusy s sid = false ∧ l.pkg = s.pkg ∧ l.die = dieOf k.core ∧
    ((isSpread ptr = true ∧ l = scratchLoc k.ctx ptr ∧ ptrCore ptr = homeCore s k.ctx k.core ∧
        scratchReady s k ptr n true = true ∧ landed s (dieOf k.core) l = true ∧ padDeferred s k ptr = false) ∨
      (isSpread ptr = false ∧ translate s k ptr need = .at l ∧ placeReady s sid k l n need = true))

/-- A range of `n` bytes at a place lies in one space and holds no poison and no damage (R29, R347), in a page that is not
poisoned (Table 21-4). -/
abbrev CleanRange (s : State) (l : Loc) (n : Nat) : Prop :=
  l.poisoned = false ∧ (l.key + n ≤ scratchBase ∨ (scratchBase ≤ l.key ∧ l.key + n ≤ storageBase)) ∧
    (unitsOf l.key n).all (fun u => !Tab.has s.prot.poison u && !Tab.has s.prot.damage u) = true

/-- A load: destinations with bytes and signedness, pointer register, mode, offset and alignment (R108, R109). -/
def loadForm : Instr → Option (List (Nat × Nat × Bool) × Nat × Nat × Nat × Nat)
  | .ld d a w m o => some ([(d, 2 ^ w, true)], a, m, o, 2 ^ w)
  | .ldN d a w m o => some ([(d, 2 ^ w, false)], a, m, o, 2 ^ w)
  | .ldp d a w m o => some ([(d, 2 ^ w, false), (d + 1, 2 ^ w, false)], a, m, o, 2 * 2 ^ w)
  | _ => none

/-- A store: data registers, bytes of each, pointer register, mode, offset and alignment (R108, R109). -/
def storeForm : Instr → Option (List Nat × Nat × Nat × Nat × Nat × Nat)
  | .st d a w m o => some ([d], 2 ^ w, a, m, o, 2 ^ w)
  | .stp d a w m o => some ([d, d + 1], 2 ^ w, a, m, o, 2 * 2 ^ w)
  | _ => none

/-- The address of an access and the pointer register's new value, as R110 lists them. -/
def addressRule (k : Strand) (a m o : Nat) : Nat × Option Nat :=
  let x := k.nat a
  match m with
  | 0 => ((addpRule (k.val a) (k.immOf 14 o)).toNat, none)
  | 1 => (x, some (addpRule (k.val a) (k.immOf 14 o)).toNat)
  | 2 => (x, some (x / 2 ^ 18 * 2 ^ 18 + (x / 2 ^ 16 + o) % 4 * 2 ^ 16 + x % 2 ^ 16))
  | _ => ((addpRule (k.val a) (BitVec.ofNat 11 o).toInt).toNat, none)

/-- The registers of a list emptied to await their return, and the pointer register after its increment (R18, R97). -/
def Strand.awaiting (k : Strand) (ds : List Nat) : Strand := ds.foldl Strand.await k
def Strand.bumped (k : Strand) (a : Nat) : Option Nat → Strand
  | some p => k.writeG a (BitVec.ofNat 64 p)
  | none => k

/-- The little-endian number that `n` bytes of memory at a key spell (R8). -/
def numberAt (s : State) (key n : Nat) : Nat := leNat (s.mem.readBytes key n)

/-- The fills of a load from clean memory, one part after another (R108, R109). -/
def cleanFills (s : State) : Nat → List (Nat × Nat × Bool) → List Fill
  | _, [] => []
  | key, (r, n, sgn) :: ps =>
    ⟨r, if sgn then BitVec.ofInt 64 (BitVec.ofNat (8 * n) (numberAt s key n)).toInt else BitVec.ofNat 64 (numberAt s key n), false, 0⟩ ::
      cleanFills s (key + n) ps

/-- The strand's state after its cancellation point found nothing to do. -/
def State.pointed (s : State) (sid : Nat) : State := s.modStrand sid Strand.pointed

/-! ### Atomics -/

/-- An atomic or claim: operation fn[3:0], order, d, a, b, the compare register of `AMOC`, bytes and reach (R315 to R321). -/
def atomicForm : Instr → Option (Nat × Nat × Nat × Nat × Nat × Option Nat × Nat × Nat)
  | .amoAdd o d a b w r => some (0, o, d, a, b, none, 4 * 2 ^ w, r)
  | .amoMin o d a b w r => some (1, o, d, a, b, none, 4 * 2 ^ w, r)
  | .amoMax o d a b w r => some (2, o, d, a, b, none, 4 * 2 ^ w, r)
  | .amoMinn o d a b w r => some (3, o, d, a, b, none, 4 * 2 ^ w, r)
  | .amoMaxn o d a b w r => some (4, o, d, a, b, none, 4 * 2 ^ w, r)
  | .amoAnd o d a b w r => some (5, o, d, a, b, none, 4 * 2 ^ w, r)
  | .amoOr o d a b w r => some (6, o, d, a, b, none, 4 * 2 ^ w, r)
  | .amoXor o d a b w r => some (7, o, d, a, b, none, 4 * 2 ^ w, r)
  | .amoSwap o d a b w r => some (8, o, d, a, b, none, 4 * 2 ^ w, r)
  | .amoc o d a b c w r => some (9, o, d, a, b, some c, 4 * 2 ^ w, r)
  | .amof o d a b r => some (10, o, d, a, b, none, 4, r)
  | .claim o d a b r => some (11, o, d, a, b, none, 8, r)
  | _ => none

/-- The request that an atomic with clean operands and no taint to carry makes; one by a gang member of a scratchpad carries
its virtual cycle (R292). -/
def atomicRequest (s : State) (sid : Nat) (k : Strand) (op order d a b : Nat) (c : Option Nat) (n reach : Nat) (l : Loc) : Atomic := {
  sid := sid, gen := k.gen, reg := d, op := op, width := n, loc := l
  page := if isSpread (k.nat a) then none
    else (findPage s k.ctx (virtAddr (segsOf s k.ctx k.core) (k.nat a))).map (·.1)
  y := k.nat b % 2 ^ (8 * n)
  expect := match c with
    | some c => k.nat c % 2 ^ (8 * n)
    | none => 0
  poison := none, frayedOperand := false, order := order, reach := reach
  at_ := if scratchBase ≤ l.key then virtualIssue s k else none
  withhold := none }

/-- The new value at the location, from the old value and the operand read at the operation's width (Table 15-6, R317, R318,
R321); none where nothing is written. -/
def atomicRule (op n x y expect : Nat) : Option Nat :=
  let sx := (BitVec.ofNat (8 * n) x).toInt
  let sy := (BitVec.ofNat (8 * n) y).toInt
  match op with
  | 0 => some ((x + y) % 2 ^ (8 * n))
  | 1 => some (if sx ≤ sy then x else y)
  | 2 => some (if sy ≤ sx then x else y)
  | 3 => some (if x ≤ y then x else y)
  | 4 => some (if y ≤ x then x else y)
  | 5 => some (x &&& y)
  | 6 => some (x ||| y)
  | 7 => some (x ^^^ y)
  | 8 => some y
  | 9 => if x = expect then some y else none
  | 10 => some (Fp.deliverWith Fp.fp32 0 0 (Fp.addVal 0 (Fp.value Fp.fp32 x) (Fp.value Fp.fp32 y))).1
  | 11 => some ((x + y) % 2 ^ 64)
  | _ => none

/-- Memory after an operation performed on clean data: the new value at its place, where the operation writes (Table 15-6). -/
def atomicMem (s : State) (a : Atomic) : Memory :=
  match atomicRule a.op a.width (numberAt s a.loc.key a.width) a.y a.expect with
  | some v => s.mem.writeBytes a.loc.key (leBytes a.width v)
  | none => s.mem

/-- What it sends its issuer: the old value, zero-extended, and the flags of `AMOF` (R48, R315, R318). -/
def atomicAnswer (s : State) (a : Atomic) (pkg : Nat) : Flight :=
  let x := numberAt s a.loc.key a.width
  .atomicRet a.sid a.gen ⟨a.reg, BitVec.ofNat 64 x, false, 0⟩
    (if a.op = 10 then (Fp.deliverWith Fp.fp32 0 0 (Fp.addVal 0 (Fp.value Fp.fp32 x) (Fp.value Fp.fp32 a.y))).2 else 0) pkg

/-- An atomic, or a claim at its last stage, is on its way as `f` to a home that can perform it now: its place is that of its page's
present frame, the path there is open, nothing parks it and no repair of its page is out of the question (R319), the bank, region,
row and clocks serve it, and no access of its gang stands before it (R221). -/
abbrev AtItsHome (s : State) (id : Nat) (f : Flight) (a : Atomic) : Prop :=
  Tab.find s.flights id = some f ∧ (f = .atomic a false ∨ ∃ c : Combined, f = .claim c ∧ c.stage = 4 ∧ c.claim = a) ∧
    replayLoc s a = a.loc ∧ pathOpen s a.loc.pkg = true ∧ atomicParks s a = false ∧ atomicLost s a = false ∧
    homeServes s (issuerDie s a.sid) a.loc a.width = true ∧ memberTurn s id a.loc.key a.at_ = true ∧ 0 < a.width

/-! ### Messages, barriers -/

/-- The status of a barrier object as its 32 bytes spell it, with no fray among them (Tables 08-1, 08-2). -/
abbrev BarAt (s : State) (l : Loc) (b : Bar) : Prop :=
  l.pkg = s.pkg ∧ CleanRange s l 32 ∧ readBar s l.key = b ∧ b.valid = true

/-- Every live scope record of a context stands at the index that its handle names (R157). -/
abbrev ScopesFiled (s : State) (ctx : Nat) : Prop :=
  ∀ p ∈ s.groups.scopes, p.1 / 2 ^ 17 = ctx → p.2.state ≠ .closed → findScope s ctx p.2.handle = some p.2

/-- A barrier instruction's access to an object of its own die is granted, and what a release waits for has drained. -/
abbrev ObjectAt (s : State) (sid : Nat) (k : Strand) (a width need : Nat) (release : Bool) (l : Loc) : Prop :=
  AllClean k [a] ∧ LocalAt s sid k (k.nat a) width width need l ∧ (release = true → releaseReady s sid k 3 = true)

/-- What fraying a lock with a code leaves (R202, R358): the object's state and code, its holder, queue and donation gone, and the
code on its way to every queued waiter. -/
abbrev LockFrayed (s t : State) (key : Nat) (b : Bar) (c : Code) : Prop :=
  t.mem = s.mem.writeBytes key ({ b with state := 4, code := c.toNat, arrived := 0, short := 0, hctx := 0 } : Bar).bytes ∧
    t.sync.queues = Tab.del s.sync.queues key ∧ t.sync.holders = Tab.del s.sync.holders key ∧
    t.sync.donations = Tab.del s.sync.donations key ∧
    ∀ w ∈ Tab.get s.sync.queues key [], ∃ id, Tab.find t.flights id = some (.lockRet w.sid (genOf s w.sid) w.reg c.toNat
      (keyClock (putBar s key { b with state := 4, code := c.toNat, arrived := 0, short := 0, hctx := 0 }) key))

/-- The procedure `expect` of R187 on a barrier that is not frayed: the object, and the result of a transition that wakes. -/
def expectRule (b : Bar) (n : Nat) : Bar × Option Nat :=
  let b1 :=
    if b.state = 0 ∨ b.state = 5 then { b with expected := n, state := 1 }
    else if b.state = 1 then { b with expected := Nat.min (b.expected + n) (2 ^ 64 - 1) }
    else { b with phase := (b.phase + 1) % 256, arrived := b.arrived - b.expected, expected := n, short := 0, state := 1 }
  if b1.expected ≤ b1.arrived then ({ b1 with state := 2 }, some 0) else (b1, none)

/-- The procedure `arrive` of R188, for a clean arrival or one of code `c` at a barrier that is not frayed. -/
def arriveRule (b : Bar) (n : Nat) (c : Option Code) : Bar × Option Nat :=
  let b1 := { b with arrived := Nat.min (b.arrived + n) (2 ^ 64 - 1) }
  match c with
  | some c => ({ b1 with state := 4, code := c.toNat }, some c.toNat)
  | none => if b1.state = 1 ∧ b1.expected ≤ b1.arrived then ({ b1 with state := 2 }, some 0) else (b1, none)

/-- The state after a barrier's transition: the object written, and the waiters answered where it wakes (R192). -/
def afterTransition (s : State) (key : Nat) (r : Bar × Option Nat) : State := match r.2 with
  | some x => wakeAll (putBar s key r.1) key x
  | none => putBar s key r.1

/-! ### Vectors -/

/-- The width of a lane of a non-SX type, and its signedness (Table 03-1). -/
def laneBits (t : Nat) : Nat := if t = 0 ∨ t = 4 then 8 else if t = 1 ∨ t = 5 ∨ t = 9 ∨ t = 10 then 16 else if t = 3 ∨ t = 7 then 64 else 32

/-- The exact integer that a lane holds (R248). -/
def laneInt (t x : Nat) : Int := if t ≤ 3 then (BitVec.ofNat (laneBits t) x).toInt else (x % 2 ^ laneBits t : Nat)

/-- An exact integer kept modulo 2^w, or clamped to the type's range under `.sat` (R248). -/
def keepInt (t : Nat) (sat : Bool) (x : Int) : Nat :=
  let w := laneBits t
  let lo : Int := if t ≤ 3 then -2 ^ (w - 1) else 0
  let hi : Int := if t ≤ 3 then 2 ^ (w - 1) - 1 else 2 ^ w - 1
  ((if sat then Max.max lo (Min.min hi x) else x) % 2 ^ w).toNat

/-- A lane of an arithmetic instruction: integers exactly, floats by an operation of the format (R248, R249). -/
def arithLane (t : Nat) (g : Int → Int → Int → Int) (h : Fp.Fmt → Nat → Nat → Nat → Nat → Nat × Fp.Flags)
    (mod : Option Nat) (x y z : Nat) : Nat × Fp.Flags :=
  if t ≤ 7 then (keepInt t (match mod with
    | some m => m / 2 ^ 8 % 2 == 1
    | none => false) (g (laneInt t x) (laneInt t y) (laneInt t z)), 0)
  else h (if t = 9 then Fp.fp16 else if t = 10 then Fp.bf16 else Fp.fp32) (match mod with
    | some m => if m / 8 % 2 = 1 then m % 8 else 0
    | none => 0) x y z

/-- A lane of a function of R54. -/
def functionLane (t : Nat) (h : Fp.Fmt → Nat → Nat → Nat × Fp.Flags) (mod : Option Nat) (x _ _ : Nat) : Nat × Fp.Flags :=
  arithLane (if t ≤ 7 then 8 else t) (fun x _ _ => x) (fun f r x _ _ => h f r x) mod x 0 0

/-- The destination, the mask, the type, the registers named, and the lane function of a lane-wise instruction
(Table 11-2, R248 to R250, R256). -/
def laneRule : Instr → Option (Nat × Nat × Nat × List Nat × (Option Nat → Nat → Nat → Nat → Nat × Fp.Flags))
  | .vadd d a b m t => some (d, m, t, [d, a, b], arithLane t (fun x y _ => x + y) fun f r x y _ => Fp.add f r x y)
  | .vsub d a b m t => some (d, m, t, [d, a, b], arithLane t (fun x y _ => x - y) fun f r x y _ => Fp.sub f r x y)
  | .vmul d a b m t => some (d, m, t, [d, a, b], arithLane t (fun x y _ => x * y) fun f r x y _ => Fp.mul f r x y)
  | .vmin d a b m t => some (d, m, t, [d, a, b], arithLane t (fun x y _ => Min.min x y) fun f _ x y _ => minMaxFp f false x y)
  | .vmax d a b m t => some (d, m, t, [d, a, b], arithLane t (fun x y _ => Max.max x y) fun f _ x y _ => minMaxFp f true x y)
  | .vabs d a m t => some (d, m, t, [d, a], arithLane t (fun x _ _ => |x|) fun f _ x _ _ =>
      if Fp.isNaN (Fp.value f x) then (Fp.canonNaN f, Fp.nvOf (Fp.value f x)) else (x % Fp.signBit f, 0))
  | .vneg d a m t => some (d, m, t, [d, a], arithLane t (fun x _ _ => -x) fun f _ x _ _ =>
      if Fp.isNaN (Fp.value f x) then (Fp.canonNaN f, Fp.nvOf (Fp.value f x))
      else ((x + Fp.signBit f) % (2 * Fp.signBit f), 0))
  | .vfma d a b m t =>
    some (d, m, t, [d, a, b], arithLane t (fun x y z => x * y + z) fun f r x y z => Fp.fma f r false x y z)
  | .vfms d a b m t =>
    some (d, m, t, [d, a, b], arithLane t (fun x y z => x * y - z) fun f r x y z => Fp.fma f r true x y z)
  | .vand d a b m t => some (d, m, t, [d, a, b], fun _ x y _ => (x &&& y, 0))
  | .vor d a b m t => some (d, m, t, [d, a, b], fun _ x y _ => (x ||| y, 0))
  | .vxor d a b m t => some (d, m, t, [d, a, b], fun _ x y _ => (x ^^^ y, 0))
  | .vshl d a b m t => some (d, m, t, [d, a, b], fun _ x y _ => (x * 2 ^ (y % laneBits t), 0))
  | .vshr d a b m t => some (d, m, t, [d, a, b], fun _ x y _ => (x / 2 ^ (y % laneBits t), 0))
  | .vsha d a b m t => some (d, m, t, [d, a, b], fun _ x y _ =>
      (((BitVec.ofNat (laneBits t) x).sshiftRight (y % laneBits t)).toNat, 0))
  | .vlog2 d a m t => some (d, m, t, [d, a], functionLane t fun f r x => Fp.log2 f r x)
  | .vexp2 d a m t => some (d, m, t, [d, a], functionLane t fun f r x => Fp.exp2 f r x)
  | .vrcp d a m t => some (d, m, t, [d, a], functionLane t fun f r x => Fp.rcp f r x)
  | .vrsq d a m t => some (d, m, t, [d, a], functionLane t fun f r x => Fp.rsqrt f r x)
  | .vsqrt d a m t => some (d, m, t, [d, a], functionLane t fun f r x => Fp.sqrt f r x)
  | _ => none

/-- Lane j of a register, as its bits. -/
def laneAt (x : VReg) (t j : Nat) : Nat := x.data.toNat / 2 ^ (laneBits t * j) % 2 ^ laneBits t
def laneCount (t : Nat) : Nat := 1024 / laneBits t

/-- Lane j is active under mask register m: mask bit of the lane's lowest byte; k0 makes every lane active (R243). -/
def laneActive (k : Strand) (m t j : Nat) : Bool := m == 0 || (k.m m).data.getLsbD (laneBits t / 8 * j)

/-- Two records of a strand agree but for one vector register, st.FF, the pc and the marks of the unit. -/
abbrev OnlyVector (k k' : Strand) (d : Nat) : Prop :=
  (∀ r, r % 32 ≠ d % 32 → k'.v r = k.v r) ∧ k'.regs = k.regs ∧ k'.masks = k.masks ∧ k'.pc = k.advance.pc ∧
    { k'.st with ff := k.st.ff } = k.st ∧ k'.sc = k.sc ∧ k'.share = k.share

/-- No chunk of the registers and not the mask is frayed. -/
abbrev CleanV (k : Strand) (vs : List Nat) (m : Nat) : Prop := vs.all (fun v => (k.v v).fray == 0) = true ∧ maskFrayed k m = false

/-- A vector load or store of unit stride, of a stride or by indices: data register, mask, type, space, pointer register, the
other registers read, the index registers, and the displacement of a lane (R262). -/
def vmemForm (k : Strand) : Instr → Option (Bool × Nat × Nat × Nat × Nat × Nat × List Nat × List Nat × (Nat → Int))
  | .vld d a m t sp => some (false, d, m, t, sp, a, [a], [], fun j => (j * (laneBits t / 8) : Nat))
  | .vst d a m t sp => some (true, d, m, t, sp, a, [a], [], fun j => (j * (laneBits t / 8) : Nat))
  | .vlds d a b m t sp => some (false, d, m, t, sp, a, [a, b], [], fun j => (j : Int) * k.z b)
  | .vsts d a b m t sp => some (true, d, m, t, sp, a, [a, b], [], fun j => (j : Int) * k.z b)
  | .vgath d a b m t sp => some (false, d, m, t, sp, a, [a], [b], fun j =>
      (BitVec.ofNat (laneBits t) (laneAt (k.v b) t j)).toInt * (laneBits t / 8 : Nat))
  | .vscat d a b m t sp => some (true, d, m, t, sp, a, [a], [b], fun j =>
      (BitVec.ofNat (laneBits t) (laneAt (k.v b) t j)).toInt * (laneBits t / 8 : Nat))
  | _ => none

/-- The active elements with their addresses: pointers by `ADDP` in space 0, offsets in a buffer (R262). -/
def elementsRule (k : Strand) (m t sp a : Nat) (disp : Nat → Int) : List (Nat × Nat) :=
  ((List.range (laneCount t)).filter (laneActive k m t)).map fun j =>
    (j, if sp = 0 then (addpRule (k.val a) (disp j)).toNat else ((k.nat a + disp j) % 2 ^ 64).toNat)

/-- Every element of a vector access passes its checks, is placed on the issuer's own die and can be performed (R263, R264). -/
abbrev ElementsAt (s : State) (sid : Nat) (k : Strand) (sp need n : Nat) (es : List (Nat × Nat)) (ls : List (Nat × Loc)) : Prop :=
  firstTrap s k sp need n es = none ∧ memBusy s sid = false ∧ (sp ≠ 0 → mvuClear s sid k = true) ∧
    placeElements s k sp need es = .at ls ∧
    ls.all (fun e => elementReady s sid k sp need n e.2 && e.2.pkg == s.pkg && e.2.die == dieOf k.core) = true ∧
    elementRoom s k need ls = true ∧ vccOf s k = none

/-! ### The matrix-vector unit -/

/-- The core's dispatch queue takes an operation of the strand: the strand is anchored and in no gang, fewer than eight
operations wait there, and no write of the strand is on its way (R237, R270, R285). -/
abbrev MvuFree (s : State) (sid : Nat) (k : Strand) (c : Core) : Prop :=
  k.vcount ≠ 0 ∧ k.gang = none ∧ Tab.find s.cores k.core = some c ∧ c.dispatch.length < 8 ∧ storePending s sid k.core = false

/-- The state with an operation at the end of its core's dispatch queue; the slot waits where the operation says so. -/
def State.enqueued (s : State) (sid : Nat) (k : Strand) (c : Core) (o : MvuOp) : State :=
  ({ (s.putCore k.core { c with dispatch := c.dispatch ++ [{ o with id := s.nextId }] }) with
    nextId := s.nextId + 1 }).putStrand sid (if o.waits then { k with stall := .mvu } else k.advance)

/-- Nothing in memory is poisoned or damaged, and memory is in its canonical form. -/
abbrev Unharmed (s : State) : Prop := s.prot.poison = [] ∧ s.prot.damage = [] ∧ s.mem.wf = true

/-- The key of element (i, j) of C tile `tile` of a quad (R275). -/
def cKey (ctx quad tile i j : Nat) : Nat := bufferKey ctx quad bufC (4096 * tile + 128 * i + 4 * j)

/-- The values of A row i and of W column j of a product (R274, R276, R277). -/
def aRow (s : State) (quad : Nat) (o : MvuOp) (i : Nat) : List Fp.Val :=
  denseVals o.shape o.ty
    (numberAt s (bufferKey (o.sid / 32768) quad bufA (o.a + i * rowBytes o.shape o.ty)) (rowBytes o.shape o.ty))
def wColumn (s : State) (quad : Nat) (o : MvuOp) (base j : Nat) : List Fp.Val :=
  let n := colBytes o.shape o.ty o.sparse
  let x := numberAt s (bufferKey (o.sid / 32768) quad bufW (base + j * n)) n
  if o.sparse then sparseVals o.shape o.ty x else denseVals o.shape o.ty x

/-- Rows [lo, hi) and N columns of the tile hold, in `t`, the products added to the former elements (R55, R278). -/
def ProductIn (s t : State) (quad : Nat) (o : MvuOp) (lo hi base : Nat) (fromZero : Bool) : Prop :=
  let ctx := o.sid / 32768
  (∀ i j, lo ≤ i → i < hi → j < dimN o.shape →
    numberAt t (cKey ctx quad o.tile i j) 4 =
      (Fp.mmaElement (if fromZero then 0 else numberAt s (cKey ctx quad o.tile i j) 4)
        (productGroups o.shape o.ty (aRow s quad o i) (wColumn s quad o base j))).1 % 2 ^ 32) ∧
  ∀ x, (∀ i, lo ≤ i → i < hi → x < cKey ctx quad o.tile i 0 ∨ cKey ctx quad o.tile i (dimN o.shape) ≤ x) →
    t.mem.read x = s.mem.read x

/-! ### Engine commands -/

/-- An engine command issues: no earlier request of the strand is on its way, what its release at reach `r` waits for has
drained (R233), its engine has room (R303, R326), and the strand has more than one unit to split (R302). -/
abbrev EngineFree (s : State) (sid : Nat) (k : Strand) (copy : Bool) (r : Nat) : Prop :=
  memBusy s sid = false ∧ releaseReady s sid k r = true ∧ (r = 4 → k.lost = []) ∧
    engineLoad s k.core copy < (if copy then 320 else 288) ∧ 0 < k.share

/-- The operation that an engine command of the strand sets up: its issuer, scope, half the share, taint, shield, barrier
and reach; `.after` makes it wait for the strand's earlier commands (R236, R301, R302). -/
abbrev OpOf (s : State) (sid : Nat) (k : Strand) (x r bar : Nat) (o : EngineOp) : Prop :=
  o.ctx = k.ctx ∧ o.core = k.core ∧ o.issuer = some (sid, k.gen) ∧ o.scope = k.sc ∧ o.share = k.share - 1 ∧
    o.tainted = k.st.t ∧ o.shielded = decide (0 < k.st.sd) ∧ o.reach = r ∧ o.done = 0 ∧ o.written = [] ∧ o.away = none ∧
    o.barrier = resolve (segsOf s k.ctx k.core) bar ∧ o.state = (if x = 1 then .waiting else .queued) ∧
    o.after = (if x = 1 then opsOf s sid k.gen else [])

/-- The state with an operation set up and its issuer, which keeps the other half of its share, moved on. -/
def State.commanded (s : State) (sid : Nat) (k : Strand) (o : EngineOp) : State :=
  { s.putOp s.nextId o with nextId := s.nextId + 1 }.putStrand sid { k with share := k.share - 1 }.advance

/-- One side of a copy of `n` bytes: its range passes its check in its space (R300). -/
abbrev SideOk (s : State) (k : Strand) (space base n need : Nat) : Prop :=
  (space = 0 → 0 < n → engineCheck s k base n need = true) ∧
    (space ≠ 0 → base % 64 = 0 ∧ (0 < n → base + n ≤ (if space = 1 then 2 ^ 18 else if space = 2 then 2 ^ 17 else 2 ^ 16)))

/-- The 64-byte descriptor at a pointer is read as `raw`: its checks pass and it stands clean on the issuer's own die (R307,
R328). -/
abbrev DescAt (s : State) (sid : Nat) (k : Strand) (ptr raw : Nat) : Prop :=
  ∃ l, descRead s sid k ptr = .at l ∧ l.pkg = s.pkg ∧ l.die = dieOf k.core ∧ CleanRange s l 64 ∧ numberAt s l.key 64 = raw

/-- A command's barrier pointer passes its checks (R300). -/
abbrev BarrierOk (s : State) (k : Strand) (bar : Nat) : Prop := engineCheck s k bar 32 needBar = true ∧ bar % 32 = 0

/-- An operation has ended with its final arrival on its way as the next item: the rest of its bytes, its count, its code,
the offset of a stop, and the share that returns after it, of an operation whose share is at home (R190, R302, R313). -/
abbrev EndsWith (s t : State) (op : Nat) (o : EngineOp) (n : Nat) (code : Code) (short : Option Nat) : Prop :=
  ∃ a, Tab.find t.flights s.nextId = some (.arrival a false) ∧ a.ctx = o.ctx ∧ a.ptr = o.barrier ∧
    a.bytes = o.done - o.credited ∧ a.n = n ∧ a.code = code ∧ a.short = short ∧ a.tainted = o.tainted ∧ a.op = op ∧
    a.final = true ∧ a.share = some o.share

/-- Places that run on from a key, one byte after another. -/
abbrev RunAt (ls : List Loc) (key n : Nat) : Prop := ls.map (·.key) = (List.range n).map (key + ·)

/-! ### Queues and mailboxes -/

/-- The last response of a firmware core's mailbox (R440). -/
abbrev Answered (t : State) (core tag status value : Nat) : Prop :=
  Tab.find t.sys.mailboxes core = some ⟨tag % 2 ^ 16, status, value⟩

/-- The command at the head of a running queue is read as `raw`, from memory that needs no correction (R411 to R413). -/
abbrev CommandAt (s : State) (q : Nat) (x : Queue) (raw : Nat) : Prop :=
  Tab.find s.queues q = some x ∧ mayStart s x = true ∧ s.prot.damage = [] ∧ queueRange s x.ctx (x.ring + 64 * (x.head % x.size)) 64 needRd = true ∧
    firmwareRead s x.ctx (virtAddr (segsOfCtx s x.ctx) (x.ring + 64 * (x.head % x.size))) 64 = .ok raw

/-- It is the operation `op`, and nothing in its first doubleword keeps it from starting (R412, R413). -/
abbrev StartsAs (s : State) (q : Nat) (x : Queue) (raw op : Nat) : Prop :=
  CommandAt s q x raw ∧ raw % 2 ^ 8 = op ∧ (raw / 2 ^ 8 % 2 = 1 → x.started = []) ∧ raw / 2 ^ 9 % 2 ^ 55 = 0

/-- It has started: the head has moved past it, and it is recorded so. -/
abbrev HasStarted (t : State) (q : Nat) (x : Queue) (c : Started) : Prop :=
  ∃ y, Tab.find t.queues q = some y ∧ y.head = x.head + 1 ∧ y.started = x.started ++ [c] ∧ y.state = x.state ∧ y.done = x.done

/-- `n` bytes of a context's memory that the firmware can access now with some rights, apart from the queue's status block. -/
abbrev PlaceFor (s : State) (q : Nat) (x : Queue) (va n need : Nat) (l : Loc) : Prop :=
  firmwareAt s x.ctx va need = .at l ∧ firmwareReady s l n = true ∧ pathOpen s l.pkg = true ∧ s.mem.wf = true ∧ Tab.find s.queues q = some x ∧
    ∃ m, firmwareAt s x.ctx (resolve (segsOfCtx s x.ctx) x.status) needWr = .at m ∧ (m.key + 32 ≤ l.key ∨ l.key + 8 ≤ m.key)

end Sys2Proof.Machine
end

