-- ==== Sys2Proof/Certificates/Slice0/Obligations.lean ====
section
/-! DEFINITION. The statements for the provers. -/

open Sys2Proof Sys2Proof.Machine

/-! ### Scalar arithmetic -/

/-- R100 to R104: an integer instruction with clean sources writes the result of its table row, full and clean, into g[d] and
otherwise only advances. -/
def Obligations.IntegerResults : Prop :=
  ∀ (s : State) (sid : Nat) (k : Strand) (i : Instr) (d : Nat) (srcs : List Nat) (v : Int),
    integerRule k i = some (d, srcs, v) → Issues s sid k i srcs [d] → AllClean k srcs →
    exec i s = .next (s.putStrand sid (k.writeG d (BitVec.ofInt 64 v)).advance)

/-- R105 to R107: a scalar floating instruction with clean sources writes its result and merges its flags into st.FF. -/
def Obligations.FloatResults : Prop :=
  ∀ (s : State) (sid : Nat) (k : Strand) (i : Instr) (d : Nat) (srcs : List Nat) (v : Int) (fl : Fp.Flags),
    floatRule k i = some (d, srcs, v, fl) → Issues s sid k i srcs [d] → AllClean k srcs →
    exec i s = .next (s.putStrand sid ((k.writeG d (BitVec.ofInt 64 v)).mergeFlags fl).advance)

/-- R98: a frayed source frays the result with the first frayed source's code, taints the issuer with it, and raises no flag;
the data bits are those computed from the sources' data bits. -/
def Obligations.FrayedSourcesFrayResults : Prop :=
  ∀ (s : State) (sid : Nat) (k : Strand) (i : Instr) (d : Nat) (srcs : List Nat) (v : Int) (c : Code),
    (integerRule k i = some (d, srcs, v) ∨ ∃ fl, floatRule k i = some (d, srcs, v, fl)) →
    Issues s sid k i srcs [d] → firstFray k srcs = some c →
    exec i s = .next (s.putStrand sid
      ((k.setSt { k.st with t := true, fc := c.zeroExtend 8 }).setG d ⟨BitVec.ofInt 64 v, true, true, c, false⟩).advance)

/-- The frame of the scalar arithmetic: of the issuer only g[d], st.FF, st.T and st.FC, the pc and the marks of its unit
change; no other strand, no byte of memory and nothing else does. The frame of the vector arithmetic, in every form, frayed
and masked ones too: of the issuer only vd, st.FF, st.T and st.FC, the pc and the marks of the unit change; no other strand,
no byte of memory and nothing else does. -/
def Obligations.ArithmeticFrame : Prop :=
  (∀ (s : State) (sid : Nat) (k : Strand) (i : Instr) (d : Nat) (srcs : List Nat),
    ((∃ v, integerRule k i = some (d, srcs, v)) ∨ ∃ v fl, floatRule k i = some (d, srcs, v, fl)) →
    Issues s sid k i srcs [d] →
    ∃ t k', exec i s = .next t ∧ Tab.find t.strands sid = some k' ∧
      (∀ r, r % 16 ≠ d % 16 → k'.g r = k.g r) ∧
      k'.st.mode = k.st.mode ∧ k'.st.ec = k.st.ec ∧ k'.st.sd = k.st.sd ∧ k'.st.c = k.st.c ∧ k'.st.p = k.st.p ∧
      k'.st.a = k.st.a ∧ k'.st.x = k.st.x ∧
      k'.vregs = k.vregs ∧ k'.masks = k.masks ∧ k'.ep = k.ep ∧ k'.sc = k.sc ∧ k'.share = k.share ∧
      (k.pair = [] → k'.pc = (k.pc + 4) % 2 ^ 64) ∧
      (∀ j, j ≠ sid → Tab.find t.strands j = Tab.find s.strands j) ∧
      (∀ a, t.mem.read a = s.mem.read a) ∧
      { t with strands := s.strands } = s) ∧
  (∀ (s : State) (sid : Nat) (k : Strand) (i : Instr) (d : Nat) (vs : List Nat),
    ((∃ m t f, laneRule i = some (d, m, t, vs, f)) ∨
      (∃ a m t, vs = [d, a] ∧ (i = .vredSum d a m t ∨ i = .vredMax d a m t ∨ i = .vredMin d a m t ∨ i = .vredMaxi d a m t ∨
        i = .vredMini d a m t ∨ i = .vscanSum d a m t ∨ i = .vscanMax d a m t ∨ i = .vscanMin d a m t)) ∨
      (∃ a b m t, vs = [d, a, b] ∧ (i = .vsel d a b m t ∨ i = .vperm d a b m t ∨ i = .vshuf d a b m t ∨
        ∃ y, i = .vcvt d a b m t y))) →
    IssuesV s sid k i vs [] [] →
    ∃ t k', exec i s = .next t ∧ Tab.find t.strands sid = some k' ∧
      (∀ r, r % 32 ≠ d % 32 → k'.v r = k.v r) ∧ k'.regs = k.regs ∧ k'.masks = k.masks ∧
      { k'.st with ff := k.st.ff, t := k.st.t, fc := k.st.fc } = k.st ∧ k'.pc = k.advance.pc ∧ k'.ep = k.ep ∧
      k'.sc = k.sc ∧ k'.share = k.share ∧ (∀ j, j ≠ sid → Tab.find t.strands j = Tab.find s.strands j) ∧
      (∀ a, t.mem.read a = s.mem.read a) ∧ { t with strands := s.strands } = s)

/-! ### Loads and stores -/

/-- R97, R108 to R110: a load granted at a place of its own die, from clean memory, empties its destinations, writes its
pointer register's increment, and puts the little-endian value it read, sign- or zero-extended, on its way to them. It leaves the line it
read in its cluster's cache (R26), and an acquire at `.sys` takes those of other packages out (R228). Where the cluster's cache still
holds the line, which is the implementation's to say (log 3), a load that is no acquire at `.sys` delivers the line's bytes. R109,
R112: a load that meets poison, `LDP` among them, frays each register whose own bytes carry it, with the code of the first
unit that does, and delivers the others clean; st.T is not set by it. -/
def Obligations.LoadsReadMemory : Prop :=
  (∀ (s : State) (sid : Nat) (k : Strand) (i : Instr) (ps : List (Nat × Nat × Bool)) (a m o align : Nat) (l : Loc),
    loadForm i = some (ps, a, m, o, align) →
    Issues s sid k i [a] (if m = 1 ∨ m = 2 then ps.map (·.1) ++ [a] else ps.map (·.1)) → AllClean k [a] →
    (m = 2 → isSpread (k.nat a) = true) → vccOf s k = none →
    LocalAt s sid k (addressRule k a m o).1 (partBytes ps) align needRd l → CleanRange s l (partBytes ps) →
    (¬(m = 3 ∧ o / 2 ^ 11 = 4) → cacheHit s (clusterOf k.core) l (partBytes ps) = none) →
    let s1 := afterRead s (clusterOf k.core) k.ctx l
    let s2 := if m = 3 ∧ o / 2 ^ 11 = 4 then acquireSys s1 (clusterOf k.core) else s1
    exec i s = .next ((s2.nextFree.putStrand sid
      (((k.awaiting (ps.map (·.1))).bumped a (addressRule k a m o).2).advance)).send
        (.loadRet sid k.gen (cleanFills s l.key ps) none))) ∧
  (∀ (s : State) (sid : Nat) (k : Strand) (i : Instr) (ps : List (Nat × Nat × Bool)) (a m o align : Nat) (l : Loc) (x : Line),
    loadForm i = some (ps, a, m, o, align) →
    Issues s sid k i [a] (if m = 1 ∨ m = 2 then ps.map (·.1) ++ [a] else ps.map (·.1)) → AllClean k [a] →
    (m = 2 → isSpread (k.nat a) = true) → vccOf s k = none →
    LocalAt s sid k (addressRule k a m o).1 (partBytes ps) align needRd l → CleanRange s l (partBytes ps) → l.key < scratchBase →
    ¬(m = 3 ∧ o / 2 ^ 11 = 4) → cachedLine s (clusterOf k.core) l.key (partBytes ps) = some x →
    lineCurrent s (clusterOf k.core / 16) l.key (partBytes ps) = true →
    let held := Config.holdsLine s.fresh
    exec i s = .next (((if held then s else afterRead s (clusterOf k.core) k.ctx l).nextFree.putStrand sid
      (((k.awaiting (ps.map (·.1))).bumped a (addressRule k a m o).2).advance)).send
        (.loadRet sid k.gen
          (if held then loadFills (fun off n => x.read (l.key + off) n) 0 ps else cleanFills s l.key ps) none))) ∧
  (∀ (s : State) (sid : Nat) (k : Strand) (i : Instr) (ps : List (Nat × Nat × Bool)) (a m o align : Nat) (l : Loc),
    loadForm i = some (ps, a, m, o, align) →
    Issues s sid k i [a] (if m = 1 ∨ m = 2 then ps.map (·.1) ++ [a] else ps.map (·.1)) → AllClean k [a] →
    (m = 2 → isSpread (k.nat a) = true) → vccOf s k = none →
    LocalAt s sid k (addressRule k a m o).1 (partBytes ps) align needRd l → l.poisoned = false →
    (l.key + partBytes ps ≤ scratchBase ∨ (scratchBase ≤ l.key ∧ l.key + partBytes ps ≤ storageBase)) →
    (∀ u ∈ unitsOf l.key (partBytes ps), Tab.has s.prot.damage u = false) →
    (¬(m = 3 ∧ o / 2 ^ 11 = 4) → cacheHit s (clusterOf k.core) l (partBytes ps) = none) →
    ∃ t k' fills, exec i s = .next t ∧ Tab.find t.flights s.nextId = some (.loadRet sid k.gen fills none) ∧
      Tab.find t.strands sid = some k' ∧ k'.st = k.st ∧ fills.length = ps.length ∧
      ∀ j r n sgn, ps[j]? = some (r, n, sgn) →
        let key := l.key + partBytes (ps.take j)
        (k'.g r).full = false ∧ (k'.g r).pend = true ∧
        (∀ c, Tab.find s.prot.poison (unitBase key) = some c → ∃ x, fills[j]? = some ⟨r, x, true, c⟩) ∧
        ((unitsOf key n).all (fun u => !Tab.has s.prot.poison u) = true → fills[j]? = (cleanFills s key [(r, n, sgn)]).head?))

/-- R97: when its data returns, a load's destinations are full with it, and a park on one of them ends; the frame of the step
is everything else. R48, R315: the reply fills the destination and merges the flags of an `AMOF` into the issuer's st.FF. -/
def Obligations.RepliesFillRegisters : Prop :=
  (∀ (s : State) (id sid gen : Nat) (k : Strand) (f : Fill),
    Tab.find s.flights id = some (.loadRet sid gen [f] none) → Tab.find s.strands sid = some k → k.gen = gen →
    ∃ t k', exec (.loadDataReturn id) s = .next t ∧ Tab.find t.strands sid = some k' ∧
      k'.g f.reg = ⟨f.val, true, f.fray, f.code, false⟩ ∧ (∀ r, r % 16 ≠ f.reg % 16 → k'.g r = k.g r) ∧
      (∀ r, k.phase = .parked (.ret r) → r % 16 = f.reg % 16 → k'.phase = .running) ∧
      k'.st = k.st ∧ k'.pc = k.pc ∧ t.flights = Tab.del s.flights id ∧ t.mem = s.mem ∧
      ∀ j, j ≠ sid → Tab.find t.strands j = Tab.find s.strands j) ∧
  (∀ (s : State) (id sid gen pkg : Nat) (k : Strand) (f : Fill) (fl : Fp.Flags),
    Tab.find s.flights id = some (.atomicRet sid gen f fl pkg) → Tab.find s.strands sid = some k → k.gen = gen →
    ∃ t k', exec (.atomicResultReturn id) s = .next t ∧ Tab.find t.strands sid = some k' ∧
      k'.g f.reg = ⟨f.val, true, f.fray, f.code, false⟩ ∧ (∀ r, r % 16 ≠ f.reg % 16 → k'.g r = k.g r) ∧
      k'.st = { k.st with ff := k.st.ff ||| fl } ∧ k'.pc = k.pc ∧ t.flights = Tab.del s.flights id ∧ t.mem = s.mem)

/-- R108 to R110, R113: a store granted at a place of its own die, of clean data and no taint that a release would carry,
writes its registers' low bytes there in little-endian order, one register after the other, and every byte outside them reads
as before; it puts nothing on its way where no cluster's cache holds a line that it writes (R223). R113: a store of a frayed register writes poison with its code over every unit it touches and taints its issuer. -/
def Obligations.StoresWriteMemory : Prop :=
  (∀ (s : State) (sid : Nat) (k : Strand) (i : Instr) (ds : List Nat) (n a m o align : Nat) (l : Loc),
    storeForm i = some (ds, n, a, m, o, align) →
    Issues s sid k i (a :: ds) (if m = 1 ∨ m = 2 then [a] else []) → AllClean k (a :: ds) →
    (m = 2 → isSpread (k.nat a) = true) → vccOf s k = none →
    (m = 3 → k.st.t = false ∧ releaseReady s sid k (o / 2 ^ 11) = true ∧ (o / 2 ^ 11 = 4 → k.lost = [])) →
    LocalAt s sid k (addressRule k a m o).1 (n * ds.length) align needWr l → s.mem.wf = true →
    ∃ t, exec i s = .next t ∧
      t.mem = s.mem.writeBytes l.key (ds.flatMap fun d => leBytes n (k.nat d)) ∧
      (∀ x, x < l.key ∨ l.key + n * ds.length ≤ x → t.mem.read x = s.mem.read x) ∧
      (s.sync.monitors = [] → t.groups = s.groups ∧
        t.strands = (s.putStrand sid ((k.bumped a (addressRule k a m o).2).advance)).strands) ∧
      (lineHeld s (fun _ => true) l.key (n * ds.length) = false → t.flights = s.flights) ∧ t.cores = s.cores ∧ t.ctxs = s.ctxs) ∧
  (∀ (s : State) (sid : Nat) (k : Strand) (d a w o : Nat) (l : Loc),
    Issues s sid k (.st d a w 0 o) [a, d] [] → AllClean k [a] → (k.g d).fray = true → vccOf s k = none →
    LocalAt s sid k (addressRule k a 0 o).1 (2 ^ w) (2 ^ w) needWr l → s.sync.monitors = [] →
    lineHeld s (fun _ => true) l.key (2 ^ w) = false →
    exec (.st d a w 0 o) s = .next
      { poisonWrite (s.putStrand sid ((k.taint (k.g d).code).advance)) l.key (2 ^ w) (k.g d).code with sync := s.sync })

/-- R91, R108: the checks of an access in their order: the segment trap, the alignment trap; a page that the cluster's TLB
does not hold with the right sends the access to the walker, a granted access is made at its place, a roaming strand leaves
for another core's scratchpad, and an anchored strand's access goes there as a request (R19, R138, R373, R374); an access to
another package leaves as a request, a read after the strand's own earlier writes there (R210, R229). -/
def Obligations.AccessOutcomes : Prop :=
  ∀ (s : State) (sid : Nat) (k : Strand) (ptr n align need : Nat) (moves : Bool) (body : Way → Out),
    (strandCheck s k ptr n need = false → withAccess s sid k ptr n align need moves body = .next (trap s sid 0x02)) ∧
    (strandCheck s k ptr n need = true → ptr % align ≠ 0 →
      withAccess s sid k ptr n align need moves body = .next (trap s sid 0x04)) ∧
    (∀ l, LocalAt s sid k ptr n align need l → withAccess s sid k ptr n align need moves body = body (.here l)) ∧
    (strandCheck s k ptr n need = true → ptr % align = 0 → memBusy s sid = false →
      (∀ va, isSpread ptr = false → translate s k ptr need = .miss va →
        withAccess s sid k ptr n align need moves body = .next (s.putStrand sid { k with stall := .walk va need })) ∧
      (isSpread ptr = true → ptrPkg ptr = s.pkg → ptrCore ptr ≠ homeCore s k.ctx k.core →
        (moves = true → k.vcount = 0 →
          withAccess s sid k ptr n align need moves body = .next (s.putStrand sid (k.wait (.leave (ptrCore ptr))))) ∧
        (0 < k.vcount ∨ moves = false →
          need % 2 = 1 ∨ dieOf (ptrCore ptr) = dieOf k.core ∨ stampRoom s (dieOf k.core) (writesOf n) = true →
          withAccess s sid k ptr n align need moves body = body (.request (scratchLoc k.ctx ptr)))) ∧
      (∀ l, l.pkg ≠ s.pkg → (need % 2 = 1 → farStores s sid l.pkg = false) →
        ((isSpread ptr = true ∧ l = scratchLoc k.ctx ptr) ∨
          (isSpread ptr = false ∧ translate s k ptr need = .at l ∧ rowBusy s l = false)) →
        withAccess s sid k ptr n align need moves body = body (.request l)))

/-! ### Atomics and claims -/

/-- R97, R213, R315, R321: an atomic or claim with clean operands, granted at a place of its own die, empties its destination
and goes on; on the core's own scratchpad it is performed at once, a gang member's after its virtual cycle; elsewhere it sends
its request with the operands read at its width, a claim into the combining stages, which a claim of the own scratchpad does not pass
(R322). On the own scratchpad it reads the
old value, writes the new one where the operation writes, and sends the old value on its way, as it does at a home (R316).
R316 to R318, R321: an atomic, or a claim that has reached its home, is performed there at its place in its page's present
frame: it reads the old value, writes the new value of its operation in the same instant, and sends the old value,
zero-extended, on its way to its issuer; a claim's goes to the stage that forwarded it (R322). R320: an atomic or claim that
meets poison writes nothing and fills its destination frayed with the poison's code. -/
def Obligations.AtomicsReadAndWrite : Prop :=
  (∀ (s : State) (sid : Nat) (k : Strand) (i : Instr) (op order d a b n r : Nat) (c : Option Nat) (l : Loc),
    atomicForm i = some (op, order, d, a, b, c, n, r) →
    Issues s sid k i (a :: b :: c.toList) [d] → AllClean k (a :: b :: c.toList) →
    (2 ≤ order → k.st.t = false ∧ releaseReady s sid k r = true ∧ (r = 4 → k.lost = [])) →
    LocalAt s sid k (k.nat a) n n 3 l →
    let x := atomicRequest s sid k op order d a b c n r l
    let s1 := s.putStrand sid (k.await d).advance
    exec i s = .next (if scratchBase ≤ l.key ∧ vccOf s k = none then ownReply s1 x
      else if op = 11 ∧ l.key < scratchBase then s1.send (.claim ⟨x, k.core, 0, []⟩) else s1.send (.atomic x false)) ∧
    (scratchBase ≤ l.key → CleanRange s l n →
      (ownReply s1 x).mem = atomicMem s x ∧ Tab.find (ownReply s1 x).flights s.nextId = some (atomicAnswer s x s.pkg) ∧
      s.nextId < (ownReply s1 x).nextId)) ∧
  (∀ (s : State) (id : Nat) (f : Flight) (a : Atomic),
    AtItsHome s id f a → a.poison = none → a.withhold = none → a.frayedOperand = false →
    a.op < 12 → (a.op = 10 → a.width = 4) → (a.op = 11 → a.width = 8) →
    a.y < 2 ^ (8 * a.width) → CleanRange s a.loc a.width →
    ∃ t, exec (.atomicAtHome id) s = .next t ∧ t.mem = atomicMem s a ∧
      (f = .atomic a false → ∃ j, s.nextId ≤ j ∧ Tab.find t.flights j = some (atomicAnswer s a a.loc.pkg)) ∧
      ∀ c, f = .claim c → Tab.find t.flights id = some (.claimReply c
        ⟨a.reg, BitVec.ofNat 64 (numberAt s a.loc.key a.width), false, 0⟩)) ∧
  (∀ (s : State) (id : Nat) (f : Flight) (a : Atomic) (c : Code),
    AtItsHome s id f a → a.loc.poisoned = false → Tab.find s.prot.poison (unitBase a.loc.key) = some c →
    ∃ t x, exec (.atomicAtHome id) s = .next t ∧ t.mem = s.mem ∧
      (f = .atomic a false →
        Tab.find t.flights s.nextId = some (.atomicRet a.sid a.gen ⟨a.reg, x, true, c⟩ 0 a.loc.pkg)) ∧
      ∀ d, f = .claim d → Tab.find t.flights id = some (.claimReply d ⟨a.reg, x, true, c⟩))

/-- R322: a claim joins a claim that waits at its stage, adding its count to the group's, or waits there itself; after its
wait a group goes on with the sum of its counts. Which stage a claim is at is the model's record; the meeting of claims is a
choice of the turns (log 1, log 16). R322: when the reply of base B returns to a stage that combined the claims of two
strands, one of them receives B and the other B plus the first one's count: the ranges do not overlap. Which of the two
strands receives B is the choice number's (log 16). -/
def Obligations.ClaimsCombine : Prop :=
  ((∀ (s : State) (id : Nat) (c : Combined), Tab.find s.flights id = some (.claim c) → (c.stage = 0 ∨ c.stage = 2) →
    (waitingPeer s id c (c.stage + 1) = none →
      exec (.claimStageArrival id) s = .next ((s.putFlight id (.claim { c with stage := 8 })).send
        (.claim { c with stage := c.stage + 1, parts := [(id, c.claim.y)] }))) ∧
    (∀ g d, waitingPeer s id c (c.stage + 1) = some (g, d) →
      exec (.claimStageArrival id) s = .next ((s.putFlight id (.claim { c with stage := 8 })).putFlight g
        (.claim { d with
          claim := { d.claim with y := (d.claim.y + c.claim.y) % 2 ^ 64 }, parts := d.parts ++ [(id, c.claim.y)] })))) ∧
  (∀ (s : State) (id : Nat) (c : Combined), Tab.find s.flights id = some (.claim c) → (c.stage = 1 ∨ c.stage = 3) →
    exec (.claimCombineTimeout id) s = .next (s.putFlight id (.claim { c with stage := c.stage + 1 })))) ∧
  (∀ (s : State) (id i j : Nat) (g a b : Combined) (base : Fill),
    Tab.find s.flights id = some (.claimReply g base) → base.fray = false →
    g.parts = [(i, a.claim.y), (j, b.claim.y)] → i ≠ id → j ≠ id → i ≠ j → i < s.nextId → j < s.nextId →
    Tab.find s.flights i = some (.claim a) → Tab.find s.flights j = some (.claim b) → a.parts = [] → b.parts = [] →
    ∃ t x y, exec (.claimReplySplit id) s = .next t ∧
      Tab.find t.flights s.nextId = some x ∧ Tab.find t.flights (s.nextId + 1) = some y ∧
      ((x = .atomicRet a.claim.sid a.claim.gen ⟨a.claim.reg, base.val, false, base.code⟩ 0 a.claim.loc.pkg ∧
        y = .atomicRet b.claim.sid b.claim.gen ⟨b.claim.reg, base.val + BitVec.ofNat 64 a.claim.y, false, base.code⟩ 0
          b.claim.loc.pkg) ∨
       (x = .atomicRet b.claim.sid b.claim.gen ⟨b.claim.reg, base.val, false, base.code⟩ 0 b.claim.loc.pkg ∧
        y = .atomicRet a.claim.sid a.claim.gen ⟨a.claim.reg, base.val + BitVec.ofNat 64 b.claim.y, false, base.code⟩ 0
          a.claim.loc.pkg)))

/-! ### Fences, prefetch, page advice, control flow -/

/-- R115 to R117, R217, R231, R378: a fence with nothing to wait for completes, one that must wait holds its slot until its
wait is over, and a `FENCE.sys` after writes were lost observes code 3 instead; a prefetch of a spread pointer or of a page
without a leaf does nothing, and one of a resident page that the cluster's TLB does not hold fills it; page advice reaches the
memory manager once for each page of its range. A `FENCE.sys` that completes leaves its cluster's cache no line of another package (R230,
R228). The segment check of a prefetch, of one byte, is the model's choice (log 70). -/
def Obligations.FencesAndAdvice : Prop :=
  ∀ (s : State) (sid : Nat) (k : Strand),
    (∀ r, Issues s sid k (.fence r) [] [] →
      (fenceClear s sid k r = true → (r = 4 → k.lost = []) → exec (.fence r) s =
        .next ((if r = 4 then acquireSys s (clusterOf k.core) else s).putStrand sid k.advance)) ∧
      (fenceClear s sid k r = true → r = 4 → k.lost ≠ [] → exec (.fence r) s =
        .next (observeFray (s.putStrand sid { k with lost := [], stall := .none }) sid 3)) ∧
      (fenceClear s sid k r = false → exec (.fence r) s = .next (s.putStrand sid { k with stall := .fence r }))) ∧
    (∀ r, Tab.find s.strands sid = some k → k.stall = .fence r → fenceClear s sid k r = true → (r = 4 → k.lost = []) →
      exec (.fenceDrainComplete sid) s =
        .next ((if r = 4 then acquireSys s (clusterOf k.core) else s).putStrand sid k.advance)) ∧
    (∀ c, ∀ x ∈ Tab.get (acquireSys s c).caches.lines c [], x.base / 2 ^ 39 = s.pkg) ∧
    (∀ a, Issues s sid k (.pref a) [a] [] → AllClean k [a] →
      (isSpread (k.nat a) = true → exec (.pref a) s = .next (s.putStrand sid k.advance)) ∧
      (isSpread (k.nat a) = false → strandCheck s k (k.nat a) 1 needRd = true →
        let va := virtAddr (segsOf s k.ctx k.core) (k.nat a)
        (findPage s k.ctx va = none → exec (.pref a) s = .next (s.putStrand sid k.advance)) ∧
        (∀ key p, findPage s k.ctx va = some (key, p) → leafRights p.leaf needRd = true →
          (leafState p.leaf = 1 ∨ leafState p.leaf = 5) → tlbFind s (clusterOf k.core) k.ctx va = none →
          exec (.pref a) s = .next ((fillFrom s (clusterOf k.core) key p).putStrand sid k.advance)))) ∧
    (∀ a b v, Issues s sid k (.pgadv a b v) [a, b] [] → AllClean k [a, b] →
      strandCheck s k (k.nat a) (k.nat b) needRd = true →
      exec (.pgadv a b v) s = .next (((if isSpread (k.nat a) = true ∨ k.nat b = 0 then []
        else pagesIn s k.ctx (virtAddr (segsOf s k.ctx k.core) (k.nat a)) (k.nat b)).foldl
          (fun s p => s.send (.advice k.ctx p v)) s).putStrand sid k.advance))

/-- R118 to R120: a branch is taken to its word plus four times its offset when its condition holds of g[a] and zero, and
falls through otherwise; `BRC` counts g[a] down first; `JMP` and `CALL` always go, `CALL` with the next word's address in g15;
`JR` goes to g[a] plus four times its offset, and traps on a target that is no multiple of four (R61). -/
def Obligations.Branches : Prop :=
  ∀ (s : State) (sid : Nat) (k : Strand),
    (∀ c a o, Issues s sid k (.br c a o) [a] [] → AllClean k [a] →
      exec (.br c a o) s = .next (s.putStrand sid (if ccHolds c (k.val a) 0
        then k.jump ((k.pc + 4 * (BitVec.ofNat 18 o).toInt : Int) % 2 ^ 64).toNat else k.advance))) ∧
    (∀ c a o, Issues s sid k (.brc c a o) [a] [a] → AllClean k [a] →
      exec (.brc c a o) s = .next (s.putStrand sid (if ccHolds c (k.val a - 1) 0
        then (k.writeG a (k.val a - 1)).jump ((k.pc + 4 * (BitVec.ofNat 18 o).toInt : Int) % 2 ^ 64).toNat
        else (k.writeG a (k.val a - 1)).advance))) ∧
    (∀ o, Issues s sid k (.jmp o) [] [] →
      exec (.jmp o) s = .next (s.putStrand sid (k.jump ((k.pc + 4 * (BitVec.ofNat 26 o).toInt : Int) % 2 ^ 64).toNat))) ∧
    (∀ o, Issues s sid k (.call o) [] [15] →
      exec (.call o) s = .next (s.putStrand sid ((k.writeG 15 (BitVec.ofNat 64 (k.pc + 4))).jump
        ((k.pc + 4 * (BitVec.ofNat 26 o).toInt : Int) % 2 ^ 64).toNat))) ∧
    (∀ a o, Issues s sid k (.jr a o) [a] [] → AllClean k [a] →
      let target := ((k.nat a + 4 * (BitVec.ofNat 18 o).toInt : Int) % 2 ^ 64).toNat
      (target % 4 = 0 → exec (.jr a o) s = .next (s.modStrand sid fun k => k.jump target)) ∧
      (target % 4 ≠ 0 → exec (.jr a o) s = .next (trap s sid 0x04)))

/-! ### Strands and scopes -/

/-- R141, R146, R149, R162: `FORK` and `FORKR` push a record with the entry, g0 to g3 and their frays, the spawner's scope and
kernel, a fresh ticket and half the spawner's share onto the core's spool, and return the ticket in g[d]; a frayed one of g0
to g3 taints the spawner. Which free ticket is taken is the choice number's (log 16), and a spool's pool on chip is taken as
empty (log 28). R150, R151, R153 to R155: `EXIT` ends a strand whose scopes are closed and traps otherwise; `YIELD` lets the
other ready slots of the core go first, for at most eight cycles, where the core keeps no fixed phases; `SELF` returns the
strand's handle; `MODE` returns the old MODE and sets the new, `EMPTY` empties the registers of its list, and both then take
what messages they can. -/
def Obligations.StrandInstructions : Prop :=
  (∀ (s : State) (sid : Nat) (k : Strand) (i : Instr) (d e ix : Nat) (extra : List Nat),
    ((∃ o, i = .fork d o ∧ extra = [] ∧ e = ((k.pc + 4 * (BitVec.ofNat 18 o).toInt : Int) % 2 ^ 64).toNat) ∨
      ∃ b, i = .forkr d b ∧ extra = [b] ∧ e = k.nat b) →
    Issues s sid k i ([0, 1, 2, 3] ++ extra) [d] → Quiet k → AllClean k extra → e % 4 = 0 →
    freeTicket s k.ctx (dieOf k.core) = some ix → spoolRoom s k.ctx (homeCore s k.ctx k.core) = true → 0 < k.share →
    let key := k.ctx * 2 ^ 22 + dieOf k.core * 2 ^ 19 + ix
    let spool := k.ctx * 4096 + homeCore s k.ctx k.core
    let r : Spawn := {
      entry := e, args := [k.val 0, k.val 1, k.val 2, k.val 3]
      frays := [0, 1, 2, 3].map fun j => if (k.g j).fray then some (k.g j).code else none
      ticket := ticketValue s key, scope := k.sc, share := k.share - 1, kernel := k.kernel }
    let k1 := { k.pointed with share := k.share - 1 }
    ∃ t, exec i s = .next t ∧
      Tab.find t.groups.spools spool = some (Tab.get s.groups.spools spool [] ++ [r]) ∧
      Tab.find t.groups.tickets key = some ⟨none, []⟩ ∧
      Tab.find t.strands sid = some ((match firstFray k [0, 1, 2, 3] with
        | some c => k1.taint c
        | none => k1).writeG d (BitVec.ofNat 64 (ticketValue s key))).advance ∧
      t.mem = s.mem ∧ ∀ j, j ≠ sid → Tab.find t.strands j = Tab.find s.strands j) ∧
  (∀ (s : State) (sid : Nat) (k : Strand),
    (Issues s sid k .exit [] [] →
      (k.opened = 0 → exec .exit s = .next (s.putStrand sid { k.endUnit with phase := .cancelling, pair := [] })) ∧
      (0 < k.opened → exec .exit s = .next (trap s sid 0x01))) ∧
    (Issues s sid k .yield [] [] → Quiet k →
      exec .yield s = .next ((s.pointed sid).putStrand sid { k.pointed.advance with
        yieldTo := if ((Tab.find s.cores k.core).bind (·.phase)).isSome then [] else otherReady (s.pointed sid) k.core k.slot
        yieldBy := s.cycle + 8 })) ∧
    (∀ d, Issues s sid k (.self d) [] [d] →
      exec (.self d) s = .next (s.putStrand sid (k.writeG d
        (BitVec.ofNat 64 (s.pkg * 2 ^ 51 + k.entry * 2 ^ 36 + k.gen))).advance)) ∧
    (∀ d m, Issues s sid k (.mode d m) [] [d] →
      let k' := ((k.writeG d (k.st.mode.zeroExtend 64)).setSt { k.st with mode := BitVec.ofNat 16 m }).advance
      exec (.mode d m) s = .next (deliverHeld (s.putStrand sid k') sid) ∧
      (k.mail = [] → exec (.mode d m) s = .next (s.putStrand sid k'))) ∧
    (∀ m, Issues s sid k (.empty m) [] (maskRegs m) →
      ∃ k', (∀ r, r < 16 → k'.g r = if m / 2 ^ r % 2 = 1 then ⟨0, false, false, 0, false⟩ else k.g r) ∧
        k'.st = k.st ∧ k'.pc = k.advance.pc ∧ k'.mail = k.mail ∧
        exec (.empty m) s = .next (deliverHeld (s.putStrand sid k') sid) ∧
        (k.mail = [] → exec (.empty m) s = .next (s.putStrand sid k'))))

/-- R147, R152, R162, R167: a `SEND` that finds room at its target puts the message on its way with half the sender's share,
entered in the scope's remote list when the target lies in another package; a frayed value goes with its code and taints the
sender, a clean value of a tainted sender goes frayed with code 9; with an acknowledgment g[d] awaits it. R147, R152, Tables
06-7 and 06-8: a message to a strand whose MODE admits it fills its empty register, or is held to the end of a cycle in which
the strand may still issue; one to a handle that names no strand bounces with acknowledgment 1, one of a marked scope is
discarded with 2, and the units return; an acknowledgment fills its register. -/
def Obligations.MessagesAreDelivered : Prop :=
  (∀ (s : State) (sid : Nat) (k : Strand) (d h v t a : Nat),
    Issues s sid k (.send d h v t a) [h, v] (if a = 1 then [d] else []) → Quiet k → AllClean k [h] →
    sendMalformed s k (k.nat h) = false → memBusy s sid = false → 0 < k.share →
    let pkg := k.nat h / 2 ^ 51 % 2 ^ 13
    releaseReady s sid k (if pkg = s.pkg then 3 else 4) = true → (pkg ≠ s.pkg → k.lost = []) →
    (pkg = s.pkg → messageRoom s k.ctx (targetDie s k.ctx (k.nat h)) = true) →
    let k1 := { k.pointed with share := k.share - 1 }
    let k2 := if (k.g v).fray then k1.taint (k.g v).code else k1
    let s1 := if pkg = s.pkg then s.pointed sid else addRemote (s.pointed sid) k.ctx k.sc pkg (2 ^ (k.share - 1))
    exec (.send d h v t a) s = .next ((s1.putStrand sid (if a = 1 then k2.await d else k2).advance).send (.msg {
      ctx := k.ctx, target := k.nat h, reg := t, val := k.val v, fray := (k.g v).fray || k.st.t
      code := if (k.g v).fray then (k.g v).code else if k.st.t then 9 else 0
      sender := sid, senderGen := k.gen, scope := k.sc, units := 2 ^ (k.share - 1)
      ack := if a = 1 then some d else none }))) ∧
  (∀ (s : State) (id : Nat) (m : Msg), Tab.find s.flights id = some (.msg m) →
    (∀ k, messageFirst s id m = true → m.target / 2 ^ 51 % 2 ^ 13 = s.pkg → scopeMarked s m.ctx m.scope = false →
      m.target / 2 ^ 35 % 2 = 0 → Tab.find s.strands (m.ctx * 32768 + m.target / 2 ^ 36 % 2 ^ 15) = some k →
      k.gen = m.target % 2 ^ 16 → takesMail k = true → k.mail = [] → (k.g m.reg).full = false →
      (k.g m.reg).pend = false → k.st.mode.getLsbD (m.reg % 16) = true → m.ack = none →
      (mayIssueNow s k = true → exec (.messageArrival id) s =
        .next ((s.delFlight id).putStrand (m.ctx * 32768 + m.target / 2 ^ 36 % 2 ^ 15) { k with mail := [m] })) ∧
      (mayIssueNow s k = false → ∃ t k', exec (.messageArrival id) s = .next t ∧
        Tab.find t.strands (m.ctx * 32768 + m.target / 2 ^ 36 % 2 ^ 15) = some k' ∧ k'.g m.reg = ⟨m.val, true, m.fray, m.code, false⟩ ∧
        (∀ r, r % 16 ≠ m.reg % 16 → k'.g r = k.g r) ∧ k'.pc = k.pc ∧ t.mem = s.mem)) ∧
    (∀ r, messageFirst s id m = true → m.target / 2 ^ 51 % 2 ^ 13 = s.pkg → m.ack = some r →
      (∀ v, (v = 2 ∧ scopeMarked s m.ctx m.scope = true) ∨
          (v = 1 ∧ scopeMarked s m.ctx m.scope = false ∧ m.target / 2 ^ 35 % 2 = 0 ∧
            Tab.find s.strands (m.ctx * 32768 + m.target / 2 ^ 36 % 2 ^ 15) = none) →
        ∃ t, exec (.messageArrival id) s = .next t ∧ t.strands = s.strands ∧
          (∃ j, Tab.find t.flights j = some (.ack m.sender m.senderGen ⟨r, BitVec.ofNat 64 v, false, 0⟩)) ∧
          ∃ j, Tab.find t.flights j = some (.share m.ctx m.scope m.units s.pkg))) ∧
    (∀ id sid gen k f, Tab.find s.flights id = some (.ack sid gen f) → Tab.find s.strands sid = some k → k.gen = gen →
      ∃ t k', exec (.sendAckReturn id) s = .next t ∧ Tab.find t.strands sid = some k' ∧
        k'.g f.reg = ⟨f.val, true, f.fray, f.code, false⟩ ∧ (∀ r, r % 16 ≠ f.reg % 16 → k'.g r = k.g r)))

/-- R130, R142, R143: an idle slot places a record of its core's spool, or a stolen one: the strand starts with the record's
entry, arguments, scope and share, with every other register empty, and its ticket names it from then on. Where a thief's
search begins before its first steal is the model's choice (log 5). R128, R137 to R139, R150, R171, R180: a placed strand of
an unmarked scope runs once it is set up, in a later cycle; a strand that is to leave for another core departs as a message,
with what its die's clock covers, when nothing of it is on its way, arrives in a free slot as the message describes it, or
takes a slot from the arrival queue; a cancelling strand retires when its release is ready and returns its share; the eager
count forces a cancellation point. -/
def Obligations.RecordsArePlaced : Prop :=
  (∀ (s : State) (core slot e : Nat) (c : Core) (r : Spawn), runningCore s core = some c → nextArrival s core c = none →
    takeEntry s c.ctx (homeCore s c.ctx core) slot = some e → s.sync.monitors = [] →
    ∀ i, ((i = .recordPop core slot ∧ ∃ j, popChoice s core slot c = some (j, r)) ∨
      (i = .recordSteal core slot ∧ popChoice s core slot c = none ∧
        ∃ d v j, stealFrom s core slot c [1, 2, 3, 4] = some (d, v, j, r))) →
    ∃ t k, exec i s = .next t ∧ Tab.find t.strands (c.ctx * 32768 + e) = some k ∧ k.phase = .placed ∧ k.out = false ∧
      k.ctx = c.ctx ∧ k.entry = e ∧ k.core = core ∧ k.slot = slot ∧ k.pc = r.entry ∧ k.sc = r.scope ∧ k.share = r.share ∧
      k.kernel = r.kernel ∧ k.ticket = r.ticket ∧ (∀ j, j < 4 → (k.g j).full = true ∧ (k.g j).val = r.args.getD j 0) ∧
      (∀ j, 4 ≤ j → j < 16 → k.g j = ⟨0, false, false, 0, false⟩) ∧ k.st.sd = 0 ∧ k.st.t = false ∧ k.st.c = false ∧
      k.st.a = decide (0 < k.vcount) ∧ Tab.find t.groups.tickets (ticketKey c.ctx r.ticket) = some ⟨some (c.ctx * 32768 + e), []⟩) ∧
  (∀ (s : State) (sid : Nat) (k : Strand), Tab.find s.strands sid = some k → k.out = false →
    (k.phase = .placed → k.since < s.cycle → scopeMarked s k.ctx k.sc = false → k.mail = [] →
      exec (.strandSetupDone sid) s = .next (s.putStrand sid { k with phase := .running })) ∧
    (k.phase = .placed → k.since < s.cycle → scopeMarked s k.ctx k.sc = true →
      exec (.strandSetupDone sid) s = .next (s.putStrand sid { k.endUnit with phase := .cancelling, pair := [] })) ∧
    (∀ dest, k.errs = [] → k.phase = .running → k.stall = .leave dest → nonePending k = true → memBusy s sid = false → s.images = [] →
      ∃ t, exec (.migrationDepart sid) s = .next t ∧
        Tab.find t.strands sid = some { k with phase := .migrating, stall := .none, ibuf := [] } ∧
        Tab.find t.flights s.nextId = some (.migration sid dest k.message (clockOf s (dieOf k.core))) ∧ t.mem = s.mem) ∧
    (∀ id dest c i j ws vec, ((i = Instr.migrationArrival id ∧ Tab.find s.flights id = some (.migration sid dest ws vec) ∧
          j = k.unpack ws s.free ∧ c.arrivals = [] ∧ freeSlot c = some 0) ∨
        (i = Instr.arrivalQueueTake dest 0 ∧ j = k ∧ c.arrivals = [sid] ∧ Tab.has c.slots 0 = false)) →
      Tab.find s.cores dest = some c → c.mode = .running → c.ctx = k.ctx → otherKernel s k.ctx dest k.kernel = false →
      kernelReady s dest k.ctx k.kernel = true →
      k.phase = .migrating → k.st.c = false → j.st.c = false → j.st.t = false → k.mail = [] → s.sync.monitors = [] →
      ∃ t k', exec i s = .next t ∧ Tab.find t.strands sid = some k' ∧ k'.phase = .running ∧ k'.core = dest ∧ k'.slot = 0 ∧
        k'.regs = j.regs ∧ k'.pc = j.pc ∧ k'.st = j.st ∧ k'.sc = j.sc ∧ k'.share = j.share) ∧
    (k.phase = .cancelling → nonePending k = true → memBusy s sid = false → holdsLoad s sid = false →
      releaseReady s sid k 3 = true → k.gang = none → (s.sync.holders.filter fun p => p.2 == sid) = [] → k.mail = [] →
      ∃ t, exec (.strandRetire sid) s = .next t ∧
        Tab.find t.flights s.nextId = some (.share k.ctx k.sc (2 ^ k.share) s.pkg) ∧
        Tab.find t.groups.dirGen sid = some ((k.gen + 1) % 2 ^ 16) ∧ t.mem = s.mem ∧
        ∀ j, j ≠ sid → (Tab.find t.strands j).map (·.regs) = (Tab.find s.strands j).map (·.regs)) ∧
    (k.phase = .running → eagerDue k = true → exec (.eagerCountExpiry sid) s = .next (cancelPoint s sid).1))

/-- R164, R174: `SOPEN` makes a record of 2^31 units at a free index, with its parent, opener, landing address and flags,
open, or, under a cancelling parent, cancelling and with its opener marked; it gives the opener exponent 31 and the new scope
as its own, returns the handle in g[d], and enters the child in its parent's list, at once on the parent's die and by a link
on its way otherwise. That a scope opened under a cancelling parent begins with result cancelled is read from R164 and R174
(log 39), that a strand's `SCLOSE` of a scope which it did not open traps before its cancellation point is the model's choice
(log 86), and which free index is taken is the choice number's (log 16). R175: the opener's `SCLOSE` sets its scope
emptying, returns its own share and parks until the scope is empty; a strand that is no opener of its scope traps. R176 to
R178: `SCANCEL` of a stale handle or of the context root does nothing, of this die's scope cancels it, and of another die's
scope sends a cancel; `SHIELD` and `UNSHIELD` move the shield depth between 0 and 15 and trap beyond; `CPT` alone passes a
cancellation point. -/
def Obligations.ScopeInstructions : Prop :=
  (∀ (s : State) (sid : Nat) (k : Strand) (d v e o key : Nat) (p : Scope),
    Issues s sid k (.sopen d v e o) [] [d] → takeIndex s k.ctx 8 (dieOf k.core) = some key →
    findScope s k.ctx k.sc = some p →
    let born := p.state == .cancelling
    let k1 := if born then k.setSt { k.st with c := true } else k
    let s1 := (s.putScope key {
        units := 2 ^ 31, handle := handleAt s key, parent := k.sc, opener := strandHandle s k
        landing := ((k.pc + 4 * (BitVec.ofNat 16 o).toInt : Int) % 2 ^ 64).toNat
        child := 0, sibling := 0, succeeder := 0, remote := 0, remotes := [], withheld := 0, root := false
        eager := e == 1 || p.eager, selv := v == 1, state := if born then .cancelling else .open
        result := if born then .cancelled else .ok, fray := 0, saved := k.share }).putStrand sid
      { (k1.writeG d (BitVec.ofNat 64 (handleAt s key))).advance with
        sc := handleAt s key, counts := e == 1 || p.eager, share := 31, opened := k.opened + 1 }
    exec (.sopen d v e o) s = .next (if k.sc / 2 ^ 29 = dieOf k.core then linkChild s1 k.ctx k.sc (handleAt s key)
      else s1.send (.childLink k.ctx k.sc (handleAt s key)))) ∧
  (∀ (s : State) (sid : Nat) (k : Strand) (d : Nat) (r : Scope),
    Issues s sid k (.sclose d) [] [d] → findScope s k.ctx k.sc = some r →
    (r.root = false → r.opener = strandHandle s k → memBusy s sid = false → releaseReady s sid k 3 = true →
      k.st.t = false →
      ∃ t k', exec (.sclose d) s = .next t ∧ Tab.find t.strands sid = some k' ∧ k'.phase = .parked (.close d) ∧
        k'.st = { k.st with c := false } ∧ k'.regs = k.regs ∧
        findScope t k.ctx k.sc = some { r with state := .emptying } ∧
        Tab.find t.flights s.nextId = some (.share k.ctx k.sc (2 ^ k.share) s.pkg)) ∧
    (r.root = true ∨ r.opener ≠ strandHandle s k → exec (.sclose d) s = .next (trap s sid 0x01))) ∧
  (∀ (s : State) (sid : Nat) (k : Strand),
    (∀ h, Issues s sid k (.scancel h) [h] [] → AllClean k [h] →
      (findScope s k.ctx (k.nat h % 2 ^ 32) = none → exec (.scancel h) s = .next (s.putStrand sid k.advance)) ∧
      (∀ r, findScope s k.ctx (k.nat h % 2 ^ 32) = some r → r.root = true → r.parent = 0 →
        exec (.scancel h) s = .next (s.putStrand sid k.advance)) ∧
      (∀ r, findScope s k.ctx (k.nat h % 2 ^ 32) = some r → ¬ (r.root = true ∧ r.parent = 0) →
        (k.nat h % 2 ^ 32 / 2 ^ 29 ≠ dieOf k.core →
          exec (.scancel h) s = .next ((s.putStrand sid k.advance).send (.cancel k.ctx (k.nat h % 2 ^ 32)))) ∧
        (k.nat h % 2 ^ 32 / 2 ^ 29 = dieOf k.core →
          exec (.scancel h) s = .next (cancelScope (s.putStrand sid k.advance) k.ctx (k.nat h % 2 ^ 32))))) ∧
    (Issues s sid k .shield [] [] →
      (k.st.sd < 15 → exec .shield s = .next (s.putStrand sid (k.setSt { k.st with sd := k.st.sd + 1 }).advance)) ∧
      (15 ≤ k.st.sd → exec .shield s = .next (trap s sid 0x01))) ∧
    (Issues s sid k .unshield [] [] →
      (0 < k.st.sd → exec .unshield s = .next (s.putStrand sid (k.setSt { k.st with sd := k.st.sd - 1 }).advance)) ∧
      (k.st.sd = 0 → exec .unshield s = .next (trap s sid 0x01))) ∧
    (Issues s sid k .cpt [] [] → Quiet k → exec .cpt s = .next ((s.pointed sid).putStrand sid k.pointed.advance)))

/-- R169: a marked, unshielded strand at a `CPT` lands at its scope's landing address when it is the opener, its pending
cancel discharged, and otherwise leaves to be retired. R177: the first `SUCCEED` in a scope that is open or emptying, other
than the context root, sets its result and makes its strand the succeeder; any other changes nothing, and the strand goes on.
R158, R179: `SINFO` returns the item of Table 07-7 for a live handle, whose record counts as used; for a stale one 4 as the
state and 0 otherwise. That the extension bit is read as the use found it is the model's choice (log 79). -/
def Obligations.ScopeRecords : Prop :=
  (∀ (s : State) (sid : Nat) (k : Strand) (r : Scope),
    Issues s sid k .cpt [] [] → k.again = false → k.st.c = true → k.st.sd = 0 → k.st.t = false → k.gang = none →
    findScope s k.ctx k.sc = some r → r.root = false →
    ∃ t k', exec .cpt s = .next t ∧ Tab.find t.strands sid = some k' ∧ k'.st = { k.st with c := false } ∧ k'.regs = k.regs ∧
      (r.opener = strandHandle s k → k'.pc = r.landing ∧ k'.phase = .running ∧ k'.sc = k.sc) ∧
      (r.opener ≠ strandHandle s k → k'.phase = .cancelling)) ∧
  (∀ (s : State) (sid : Nat) (k : Strand) (r : Scope),
    Issues s sid k .succeed [] [] → findScope s k.ctx k.sc = some r → k.sc < 2 ^ 32 → ScopesFiled s k.ctx →
    (r.result = .ok → (r.state = .open ∨ r.state = .emptying) → ¬ (r.root = true ∧ r.parent = 0) →
      ∃ t, exec .succeed s = .next t ∧ findScope t k.ctx k.sc = some { r with
        result := .succeeded, succeeder := strandHandle s k, state := if r.state = .open then .succeeded else .emptying }) ∧
    ((r.result ≠ .ok ∨ (r.state ≠ .open ∧ r.state ≠ .emptying) ∨ (r.root = true ∧ r.parent = 0)) →
      exec .succeed s = .next (s.putStrand sid k.advance))) ∧
  (∀ (s : State) (sid : Nat) (k : Strand) (d h item : Nat),
    Issues s sid k (.sinfo d h item) [h] [d] → AllClean k [h] →
    exec (.sinfo d h item) s = .next ((match findScope s k.ctx (k.nat h) with
      | none => s
      | some r => s.touchScope (scopeKey k.ctx r.handle)).putStrand sid (k.writeG d (BitVec.ofNat 64
      (match findScope s k.ctx (k.nat h) with
        | none => if item = 0 then 4 else 0
        | some r => match item with
          | 0 => (match r.state with
            | .open => 0
            | .cancelling => 1
            | .succeeded => 2
            | .emptying => 3
            | .closed => 3)
          | 1 => (match r.result with
            | .ok => 0
            | .succeeded => 1
            | .cancelled => 2
            | .frayed => 3 + 256 * r.fray.toNat)
          | 2 => r.parent
          | 3 => if r.root then 0 else r.opener
          | 4 => r.units
          | 5 => r.withheld
          | _ => r.selv.toNat + 2 * r.eager.toNat + 4 * r.root.toNat + 8 * (inExtension s (scopeKey k.ctx r.handle)).toNat +
            16 * (if r.remotes.any (fun p => p.2 != 0) then 1 else 0)))).advance))

/-- R162, R164, R167, R175: units that return are added to their scope, and the last of them completes the parked `SCLOSE`
with the scope's result; a kernel root, a root below the context root, closes at once and its record is live no more, with the result
that it has then (R404). A borrow is granted the greatest power of two that the home holds, and its strand goes on; a cancel
makes its scope and every open scope below it cancelling and marks their members, every other scope being as before; a child's
link takes effect at its parent's home. That the cancel marks the scope, the scopes below and all their members in one step is the
model's choice (log 4). -/
def Obligations.ScopeEvents : Prop :=
  ∀ (s : State) (id ctx h : Nat) (r : Scope),
    (∀ n, Tab.find s.flights id = some (.share ctx h n s.pkg) → findScope s ctx h = some r →
      (r.units + n ≠ 2 ^ 32 ∨ (r.state ≠ .emptying ∧ (r.root = false ∨ r.parent = 0)) →
        exec (.shareReturn id) s = .next ((s.delFlight id).putScope (scopeKey ctx h) { r with units := r.units + n })) ∧
      (∀ sid k d, r.units + n = 2 ^ 32 → r.state = .emptying → r.root = false → strandOf s ctx r.opener = some sid →
        Tab.find s.strands sid = some k → k.phase = .parked (.close d) → k.out = false → r.result ≠ .frayed →
        ∃ t k', exec (.shareReturn id) s = .next t ∧ Tab.find t.strands sid = some k' ∧ k'.phase = .running ∧
          k'.sc = r.parent ∧ k'.share = r.saved ∧ k'.opened = k.opened - 1 ∧ k'.pc = k.advance.pc ∧
          k'.g d = ⟨BitVec.ofNat 64 (match r.result with
            | .ok => 0
            | .succeeded => 1
            | .cancelled => 2
            | .frayed => 3), true, false, 0, false⟩) ∧
      (r.units + n = 2 ^ 32 → r.root = true → r.parent ≠ 0 →
        ∃ t, exec (.shareReturn id) s = .next t ∧ findScope t ctx h = none ∧ t.strands = s.strands ∧ t.mem = s.mem ∧
          Tab.find t.groups.scopes (scopeKey ctx h) = some { r with units := r.units + n, state := .closed })) ∧
    (∀ sid e, Tab.find s.flights id = some (.borrowReq sid ctx h) → findScope s ctx h = some r →
      1 ≤ r.units → e ≤ 16 → 2 ^ e ≤ r.units + 1 → (e < 16 → r.units + 1 < 2 ^ (e + 1)) →
      exec (.borrowRequest id) s = .next (((s.delFlight id).putScope (scopeKey ctx h)
        { r with units := r.units + 1 - 2 ^ e }).send (.borrowGrant sid e))) ∧
    (∀ sid e k, Tab.find s.flights id = some (.borrowGrant sid e) → Tab.find s.strands sid = some k → k.phase = .parked .borrow → k.out = false →
      ∃ t, exec (.borrowGrant id) s = .next t ∧ Tab.find t.strands sid = some { k with share := e, phase := .running } ∧
        t.flights = Tab.del s.flights id) ∧
    (Tab.find s.flights id = some (.cancel ctx h) → findScope s ctx h = some r → h < 2 ^ 32 → r.state = .open → r.result = .ok →
      ScopesFiled s ctx →
      ∃ t, exec (.cancelArrival id) s = .next t ∧
        findScope t ctx h = some { r with state := .cancelling, result := .cancelled } ∧
        (∀ d ∈ descendants s ctx h, d.state = .open →
          findScope t ctx d.handle = some { d with state := .cancelling, result := if d.result = .ok then .cancelled else d.result }) ∧
        (∀ g x, g < 2 ^ 32 → g ≠ h → findScope s ctx g = some x → x ∉ descendants s ctx h → findScope t ctx g = some x) ∧
        ∀ sid k, Tab.find s.strands sid = some k → k.ctx = ctx →
          (k.sc = h ∨ ∃ d ∈ descendants s ctx h, d.state = .open ∧ k.sc = d.handle) → k.phase = .running → k.out = false →
          ∃ k', Tab.find t.strands sid = some k' ∧ k'.st = { k.st with c := true } ∧ k'.pc = k.pc ∧ k'.regs = k.regs) ∧
    (∀ child c, Tab.find s.flights id = some (.childLink ctx h child) → findScope s ctx h = some r → findScope s ctx child = some c →
      scopeKey ctx h ≠ scopeKey ctx child → r.state = .open → r.result = .ok →
      exec (.childLinkArrival id) s = .next (((s.delFlight id).putScope (scopeKey ctx h) { r with child := child }).putScope
        (scopeKey ctx child) { c with sibling := r.child }))

/-! ### Barriers, locks, waiting on addresses -/

/-- R196: `BINIT` writes the whole object: counts, code and phase zero, the issuer's scope as owner, the mode, state
initialised; strands recorded on it receive code 5. R187, R188, R192, R197: on a barrier of count or bytes mode that is not
frayed, a clean `BEXPECT` acts by the procedure `expect`, and one of a frayed g[b] frays the barrier with its code and taints
its issuer; a frayed barrier it leaves alone. A clean arrival of an untainted issuer acts by the procedure `arrive`, on a
frayed barrier too; a completion answers every waiter with 0. R191, R197, R350, R353: an arrival from a frayed g[b] carries
its code and taints its issuer, one of a tainted issuer from a clean g[b] carries code 9: it frays a barrier inside the
issuer's selvedge, waking every waiter with that code, and is withheld and counted at one outside. -/
def Obligations.BarrierCounts : Prop :=
  (∀ (s : State) (sid : Nat) (k : Strand) (i : Instr) (a mode : Nat) (l : Loc),
    ((i = .binitCount a ∧ mode = 0) ∨ (i = .binitBytes a ∧ mode = 1) ∨ (i = .binitLock a ∧ mode = 2)) →
    Issues s sid k i [a] [] → ObjectAt s sid k a 32 3 false l → k.phase = .running →
    ∃ t, exec i s = .next t ∧
      t.mem = s.mem.writeBytes l.key (List.replicate 24 0 ++ leBytes 4 (k.sc % 2 ^ 32) ++ leBytes 4 (8 * mode)) ∧
      Tab.find t.strands sid = some k.advance ∧
      (s.sync.monitors = [] → ∀ j, j ≠ sid → Tab.find t.strands j = Tab.find s.strands j) ∧
      (∀ w ∈ Tab.get s.sync.waiters l.key [], ∃ id, Tab.find t.flights id = some (.bwaitRet w.sid (genOf s w.sid) w.reg 5 (keyClock s l.key))) ∧
      (∀ w ∈ Tab.get s.sync.queues l.key [], ∃ id, Tab.find t.flights id = some (.lockRet w.sid (genOf s w.sid) w.reg 5 (keyClock s l.key))) ∧
      (Tab.get s.sync.waiters l.key [] = [] → Tab.get s.sync.queues l.key [] = [] → lineHeld s (fun _ => true) l.key 32 = false →
        t.flights = s.flights)) ∧
  (∀ (s : State) (sid : Nat) (k : Strand) (a b : Nat) (l : Loc) (bar : Bar), BarAt s l bar → bar.mode < 2 →
    (Issues s sid k (.bexpect a b) [a, b] [] → ObjectAt s sid k a 32 3 false l →
      (bar.state ≠ 4 → (k.g b).fray = false →
        exec (.bexpect a b) s = .next ((afterTransition s l.key (expectRule bar (k.nat b))).modStrand sid Strand.advance)) ∧
      (bar.state ≠ 4 → (k.g b).fray = true →
        exec (.bexpect a b) s = .next ((afterTransition (logFray s 0 (k.g b).code k.ctx (k.sc % 2 ^ 32) (k.nat a) 0) l.key
          ({ bar with state := 4, code := (k.g b).code.toNat }, some (k.g b).code.toNat)).modStrand sid
            fun k => (k.taint (k.g b).code).advance)) ∧
      (bar.state = 4 → (k.g b).fray = false → exec (.bexpect a b) s = .next (s.modStrand sid Strand.advance))) ∧
    (Issues s sid k (.barrive a b) [a, b] [] → ObjectAt s sid k a 32 3 true l → k.st.t = false → (k.g b).fray = false →
      exec (.barrive a b) s = .next ((afterTransition s l.key (arriveRule bar (k.nat b) none)).modStrand sid Strand.advance))) ∧
  (∀ (s : State) (sid : Nat) (k : Strand) (a b : Nat) (l : Loc) (bar : Bar) (c : Code),
    BarAt s l bar → bar.mode < 2 → bar.state ≠ 4 →
    ((k.g b).fray = true ∧ c = (k.g b).code ∨ (k.g b).fray = false ∧ k.st.t = true ∧ c = 9) →
    Issues s sid k (.barrive a b) [a, b] [] → ObjectAt s sid k a 32 3 true l →
    let after := fun k : Strand => (if (k.g b).fray then k.taint c else k).advance
    (isOutside s k.ctx bar.owner (selvedgeOf s k.ctx k.sc) l.shared = false →
      exec (.barrive a b) s = .next ((afterTransition (logFray s 0 c k.ctx (k.sc % 2 ^ 32) (k.nat a) 0) l.key
        (arriveRule bar (k.nat b) (some c))).modStrand sid after)) ∧
    (isOutside s k.ctx bar.owner (selvedgeOf s k.ctx k.sc) l.shared = true →
      exec (.barrive a b) s =
        .next ((countWithheld s k.ctx (selvedgeOf s k.ctx k.sc) (k.nat a) c).modStrand sid after)))

/-- R192, R193, R198, R199: `BWAIT` returns 0 from a complete barrier, 0x100 from a cancelled-short one and the code, with
taint, from a frayed one, and parks as the last waiter on any other; `BTEST` returns the control word. R183: a barrier
instruction that finds an object of the other family traps with cause stale handle and has no effect. -/
def Obligations.BarrierWaits : Prop :=
  (∀ (s : State) (sid : Nat) (k : Strand) (d a : Nat) (l : Loc) (bar : Bar), bar.mode < 2 →
    (Issues s sid k (.bwait d a) [a] [d] → Quiet k → ObjectAt (s.pointed sid) sid k.pointed a 32 3 false l →
      BarAt (s.pointed sid) l bar →
      (bar.state = 2 → exec (.bwait d a) s = .next ((s.pointed sid).modStrand sid fun k => (k.writeG d 0).advance)) ∧
      (bar.state = 3 → exec (.bwait d a) s = .next ((s.pointed sid).modStrand sid fun k => (k.writeG d 0x100).advance)) ∧
      (bar.state = 4 → 0 < bar.code → exec (.bwait d a) s = .next ((s.pointed sid).modStrand sid fun k =>
        ((k.taint (BitVec.ofNat 4 bar.code)).writeG d (BitVec.ofNat 64 bar.code)).advance)) ∧
      (bar.state ≠ 2 → bar.state ≠ 3 → bar.state ≠ 4 → (k.st.c = false ∨ 0 < k.st.sd) →
        ∃ t k', exec (.bwait d a) s = .next t ∧ Tab.find t.strands sid = some k' ∧ k'.phase = .parked (.bwait d) ∧
          (k'.g d).full = false ∧ k'.pc = k.pc ∧ t.mem = s.mem ∧
          Tab.find t.sync.waiters l.key = some (Tab.get s.sync.waiters l.key [] ++ [⟨sid, d, 0⟩]))) ∧
    (Issues s sid k (.btest d a) [a] [d] → ObjectAt s sid k a 32 1 false l → BarAt s l bar →
      exec (.btest d a) s = .next (s.modStrand sid fun k => (k.writeG d (BitVec.ofNat 64 bar.control)).advance))) ∧
  (∀ (s : State) (sid : Nat) (k : Strand) (a b d : Nat) (l : Loc) (bar : Bar), BarAt s l bar →
    (bar.mode = 2 → ObjectAt s sid k a 32 3 true l →
      (Issues s sid k (.bexpect a b) [a, b] [] →
        exec (.bexpect a b) s = .next (trap (s.modStrand sid fun k => { k with stall := .none }) sid 0x0C)) ∧
      (Issues s sid k (.barrive a b) [a, b] [] →
        exec (.barrive a b) s = .next (trap (s.modStrand sid fun k => { k with stall := .none }) sid 0x0C))) ∧
    (bar.mode < 2 → Issues s sid k (.unlock a) [a] [] → ObjectAt s sid k a 32 3 true l →
      exec (.unlock a) s = .next (trap (s.modStrand sid fun k => { k with stall := .none }) sid 0x0C)) ∧
    (bar.mode < 2 → Issues s sid k (.lock d a) [a] [d] → Quiet k → ObjectAt (s.pointed sid) sid k.pointed a 32 3 false l →
      exec (.lock d a) s = .next (trap ((s.pointed sid).modStrand sid fun k => { k with stall := .none }) sid 0x0C)))

/-- R200: `LOCK` of a free lock makes its issuer the holder and returns 0; of a frayed lock it returns the code with taint; of
a lock held by another it parks at the end of the queue; a lock whose holder fields name its issuer traps. R201: `UNLOCK` by
the untainted holder passes the lock to the waiter of the highest priority that came first, or frees it when none is queued; a
tainted holder frays a lock inside its selvedge with code 9 (R353), which is written whole and answers every queued waiter
with the code (R202, R358), and passes one outside on with the signal withheld; a frayed lock it leaves alone, and of a lock
that its issuer does not hold it traps. -/
def Obligations.LocksPassOn : Prop :=
  (∀ (s : State) (sid : Nat) (k : Strand) (d a : Nat) (l : Loc) (bar : Bar), bar.mode = 2 →
    Issues s sid k (.lock d a) [a] [d] → Quiet k → ObjectAt (s.pointed sid) sid k.pointed a 32 3 false l →
    BarAt (s.pointed sid) l bar → k.phase = .running →
    let own := bar.short = strandHandle s k ∧ bar.hctx = k.ctx % 64
    (bar.state = 0 ∨ bar.state = 5 → ¬ own →
      ∃ t, exec (.lock d a) s = .next t ∧ Tab.find t.strands sid = some (k.pointed.writeG d 0).advance ∧
        t.mem = s.mem.writeBytes l.key
          ({ bar with state := 6, short := strandHandle s k, hctx := k.ctx % 64 } : Bar).bytes ∧
        Tab.find t.sync.holders l.key = some sid) ∧
    (bar.state = 4 → 0 < bar.code → exec (.lock d a) s = .next ((s.pointed sid).modStrand sid fun k =>
      ((k.taint (BitVec.ofNat 4 bar.code)).writeG d (BitVec.ofNat 64 bar.code)).advance)) ∧
    (bar.state = 6 → ¬ own → (k.st.c = false ∨ 0 < k.st.sd) →
      ∃ t k', exec (.lock d a) s = .next t ∧ Tab.find t.strands sid = some k' ∧ k'.phase = .parked (.lock d) ∧
        t.mem = s.mem.writeBytes l.key ({ bar with arrived := bar.arrived + 1 } : Bar).bytes ∧
        Tab.find t.sync.queues l.key = some (Tab.get s.sync.queues l.key [] ++ [⟨sid, d, priorityOf s k.ctx⟩])) ∧
    (bar.state ≠ 4 → own →
      exec (.lock d a) s = .next (trap ((s.pointed sid).modStrand sid fun k => { k with stall := .none }) sid 0x01))) ∧
  (∀ (s : State) (sid : Nat) (k : Strand) (a : Nat) (l : Loc) (bar : Bar), bar.mode = 2 →
    Issues s sid k (.unlock a) [a] [] → ObjectAt s sid k a 32 3 true l → BarAt s l bar → k.phase = .running →
    let own := bar.short = strandHandle s k ∧ bar.hctx = k.ctx % 64
    (bar.state = 6 → own → k.st.t = false →
      (Tab.get s.sync.queues l.key [] = [] →
        ∃ t, exec (.unlock a) s = .next t ∧ Tab.find t.strands sid = some k.advance ∧
          (lineHeld s (fun _ => true) l.key 32 = false → t.flights = s.flights) ∧
          t.mem = s.mem.writeBytes l.key ({ bar with state := 0, short := 0, hctx := 0 } : Bar).bytes) ∧
      (∀ w, w ∈ Tab.get s.sync.queues l.key [] →
        (∀ v ∈ Tab.get s.sync.queues l.key [], v.prio ≤ w.prio) →
        (∀ v ∈ (Tab.get s.sync.queues l.key []).takeWhile (fun v => v != w), v.prio < w.prio) →
        ∃ t h, exec (.unlock a) s = .next t ∧ Tab.find t.strands sid = some k.advance ∧
          (∃ j, s.nextId ≤ j ∧ Tab.find t.flights j = some (.lockRet w.sid (genOf s w.sid) w.reg 0 (keyClock s l.key))) ∧
          Tab.find t.sync.holders l.key = some w.sid ∧
          t.mem = s.mem.writeBytes l.key
            ({ bar with short := h, hctx := w.sid / 32768 % 64, arrived := bar.arrived - 1 } : Bar).bytes)) ∧
    (bar.state = 6 → own → k.st.t = true → isOutside s k.ctx bar.owner (selvedgeOf s k.ctx k.sc) l.shared = false →
      ∃ t, exec (.unlock a) s = .next t ∧ Tab.find t.strands sid = some k.advance ∧ LockFrayed s t l.key bar 9) ∧
    (bar.state = 6 → own → k.st.t = true → isOutside s k.ctx bar.owner (selvedgeOf s k.ctx k.sc) l.shared = true →
      exec (.unlock a) s = .next ((countWithheld (passLock s l.key bar) k.ctx (selvedgeOf s k.ctx k.sc) (k.nat a) 9).modStrand sid
        Strand.advance)) ∧
    (bar.state = 4 → exec (.unlock a) s = .next (s.modStrand sid Strand.advance)) ∧
    (bar.state ≠ 4 → (bar.state ≠ 6 ∨ ¬ own) →
      exec (.unlock a) s = .next (trap (s.modStrand sid fun k => { k with stall := .none }) sid 0x01)))

/-- R204 to R206: `WAITA` of a doubleword that differs from g[b] returns it at once, and of one that equals g[b] registers at
the doubleword's home and parks; `WAKEA` wakes the first g[b] waiters registered there, all of them for 0; a woken `WAITA`
re-reads its doubleword, through the leaf its page has now, and ends, after a `WAKEA` whatever it reads, after a write when it
reads another value. A frayed g[b] frays the result of a `WAITA` and taints its issuer when it ends. R193, R200, R204, R218,
R389: a reply fills the destination of the `BWAIT` or `LOCK` that waits for it, tainting on a code, the strand goes on, and
its die has seen what the home had; a switched-out strand's `BWAIT` reply is spilled; a polling waiter whose doubleword has
changed runs again. R184, R218: a barrier instruction whose object has its home elsewhere stalls its slot and sends its
request; when the home can serve it, the request is performed whole there and the instruction completes, its die having seen
what the home has. -/
def Obligations.AddressWaits : Prop :=
  (∀ (s : State) (sid : Nat) (k : Strand) (d a b : Nat) (l : Loc),
    let own := firstFray k [b]
    (Issues s sid k (.waita d a b) [a, b] [d] → Quiet k → wokenWaita s sid = none →
      ObjectAt (s.pointed sid) sid k.pointed a 8 1 false l → CleanRange s l 8 →
      (numberAt s l.key 8 ≠ k.nat b → exec (.waita d a b) s = .next ((s.pointed sid).modStrand sid fun k => (match own with
        | some c => (k.taint c).setG d (.frayed (BitVec.ofNat 64 (numberAt s l.key 8)) c)
        | none => k.writeG d (BitVec.ofNat 64 (numberAt s l.key 8))).advance)) ∧
      (numberAt s l.key 8 = k.nat b → (k.st.c = false ∨ 0 < k.st.sd) →
        ∃ t k', exec (.waita d a b) s = .next t ∧ Tab.find t.strands sid = some k' ∧ k'.phase = .parked (.waita d) ∧
          (k'.g d).full = false ∧ t.mem = s.mem ∧
          t.sync.monitors = s.sync.monitors ++ [⟨sid, k.nat a, l, d, k.nat b, own, monitorsFull s l, .no⟩] ∧
          k'.st = { k.st with p := monitorsFull s l })) ∧
    (Issues s sid k (.wakea a b) [a, b] [] → ObjectAt s sid k a 8 1 true l → k.phase = .running →
      ∃ t, exec (.wakea a b) s = .next t ∧ t.mem = s.mem ∧
        Tab.find t.strands sid = some (match own with
          | some c => k.taint c
          | none => k).advance ∧
        ∀ m ∈ firstOf (k.nat b) (s.sync.monitors.filter fun m => m.loc.key == l.key && m.woken != .byWakea),
          (∃ v ∈ t.sync.monitors, v = { m with woken := .byWakea }) ∧
          ∀ x e, m.sid ≠ sid → Tab.find s.strands m.sid = some x → x.out = false → x.phase = .parked (.waita e) →
            Tab.find t.strands m.sid = some { x with phase := .running }) ∧
    (∀ m, s.cur = some sid → Tab.find s.strands sid = some k → wokenWaita s sid = some m → (k.st.c = false ∨ 0 < k.st.sd) →
      (isSpread m.ptr = true → padDeferred s k m.ptr = false) → translate s k m.ptr needRd = .at l → l.pkg = s.pkg → l.die = dieOf k.core → homeServes s (dieOf k.core) l 8 = true →
      CleanRange s l 8 →
      (m.woken = .byWakea ∨ numberAt s l.key 8 ≠ m.val →
        exec (.waita d a b) s = .next (endWaita s m k (BitVec.ofNat 64 (numberAt s l.key 8)) m.own)) ∧
      (m.woken = .byWrite → numberAt s l.key 8 = m.val →
        ∃ t k', exec (.waita d a b) s = .next t ∧ Tab.find t.strands sid = some k' ∧ k'.phase = .parked (.waita m.reg) ∧
          t.mem = s.mem ∧ ∃ v ∈ t.sync.monitors, v = { m with loc := l, woken := .no }))) ∧
  (∀ (s : State) (id sid gen d v : Nat) (vec : List Nat) (k : Strand), Tab.find s.strands sid = some k → k.gen = gen →
    let completes := fun (i : Instr) => ∃ t k', exec i s = .next t ∧ Tab.find t.strands sid = some k' ∧ k'.phase = .running ∧
      k'.g d = ⟨BitVec.ofNat 64 v, true, false, 0, false⟩ ∧ (∀ r, r % 16 ≠ d % 16 → k'.g r = k.g r) ∧
      k'.st = (if v % 256 = 0 then k.st else { k.st with t := true, fc := (BitVec.ofNat 4 v).zeroExtend 8 }) ∧
      k'.pc = k.advance.pc ∧ t.flights = Tab.del s.flights id ∧ t.mem = s.mem ∧
      (vec ≠ [] → clockOf t (dieOf k.core) = clockMax (clockOf s (dieOf k.core)) vec)
    (Tab.find s.flights id = some (.bwaitRet sid gen d v vec) → k.phase = .parked (.bwait d) →
      (k.out = false → completes (.bwaitReply id)) ∧
      (k.out = true → exec (.bwaitReply id) s = .next (spillTo (s.delFlight id) sid k (.bwait gen d v vec)))) ∧
    (Tab.find s.flights id = some (.lockRet sid gen d v vec) → k.phase = .parked (.lock d) → completes (.lockGrant id)) ∧
    (∀ m l, (s.sync.monitors.find? fun m => m.sid == sid && m.poll && m.woken == .no) = some m → polledAt s k m = some l →
      homeServes s (dieOf k.core) l 8 = true → l.pkg = s.pkg → CleanRange s l 8 → numberAt s l.key 8 ≠ m.val → k.out = false →
      k.phase = .parked (.waita d) →
      ∃ t, exec (.waitaPoll sid) s = .next t ∧ Tab.find t.strands sid = some { k with phase := .running } ∧ t.mem = s.mem ∧
        ∃ x ∈ t.sync.monitors, x = { m with woken := .byWrite })) ∧
  (∀ (s : State) (id sid : Nat) (k : Strand) (d a : Nat) (l : Loc) (bar : Bar),
    (Issues s sid k (.btest d a) [a] [d] → AllClean k [a] → strandCheck s k (k.nat a) 32 1 = true → k.nat a % 32 = 0 →
      memBusy s sid = false → isSpread (k.nat a) = true → l = scratchLoc k.ctx (k.nat a) → l.pkg = s.pkg →
      ptrCore (k.nat a) ≠ homeCore s k.ctx k.core →
      exec (.btest d a) s = .next ((s.putStrand sid { k with again := true, stall := .home }).send
        (.barrier sid (.test d) l (k.nat a)))) ∧
    (Tab.find s.flights id = some (.barrier sid (.test d) l (k.nat a)) → Tab.find s.strands sid = some k →
      homeServes s (dieOf k.core) l 32 = true → BarAt s l bar → bar.mode < 2 →
      exec (.barrierHomeOperation id) s = .next ((learn (s.delFlight id) (dieOf k.core) l).modStrand sid fun k =>
        (k.writeG d (BitVec.ofNat 64 bar.control)).advance)))

/-! ### Frays -/

/-- R355 to R358, R360: `MEND` clears the frays of its registers and st.T; `MENDB` makes a frayed barrier mended with zero
counts and leaves any other alone; `MENDM` zeroes its 32-byte unit; `FRAY` frays its register, barrier, lock or unit with code
5, or a scope that its handle names and that is not the context root; `BNDSET` sets a bound register of the core. -/
def Obligations.MendAndFray : Prop :=
  ∀ (s : State) (sid : Nat) (k : Strand) (l : Loc),
    (∀ m, Issues s sid k (.mend m) [] (maskRegs m) →
      ∃ k', exec (.mend m) s = .next (s.putStrand sid k') ∧ k'.st = { k.st with t := false } ∧ k'.pc = k.advance.pc ∧
        ∀ r, r < 16 → k'.g r = if m / 2 ^ r % 2 = 1 then { k.g r with fray := false, code := 0 } else k.g r) ∧
    (∀ a bar, Issues s sid k (.mendb a) [a] [] → ObjectAt s sid k a 32 3 false l → BarAt s l bar →
      (bar.state = 4 → exec (.mendb a) s = .next ((putBar s l.key { bar with
        expected := 0, arrived := 0, short := 0, code := 0, hctx := 0, phase := (bar.phase + 1) % 256, state := 5 }).modStrand
          sid Strand.advance)) ∧
      (bar.state ≠ 4 → exec (.mendb a) s = .next (s.modStrand sid Strand.advance))) ∧
    (∀ a, Issues s sid k (.mendm a) [a] [] → AllClean k [a] → vccOf s k = none →
      LocalAt s sid k (k.nat a / 32 * 32) 32 32 2 l →
      exec (.mendm a) s = .next (writeAt (s.putStrand sid k.advance) ⟨l.key, List.replicate 32 0, none⟩)) ∧
    (∀ x, Issues s sid k (.fray x 0) [x] [x] →
      exec (.fray x 0) s = .next (s.putStrand sid (k.remark x { k.g x with fray := true, code := 5 }).advance)) ∧
    (∀ a bar, Issues s sid k (.fray a 1) [a] [] → ObjectAt s sid k a 32 3 false l → BarAt s l bar →
      exec (.fray a 1) s = .next ((frayBar s l.key bar 5 ⟨k.ctx, k.sc % 2 ^ 32, k.nat a⟩).modStrand sid Strand.advance) ∧
      (bar.mode < 2 → bar.state ≠ 4 →
        exec (.fray a 1) s = .next ((afterTransition (logFray s 0 5 k.ctx (k.sc % 2 ^ 32) (k.nat a) 0) l.key
          ({ bar with state := 4, code := 5 }, some 5)).modStrand sid Strand.advance)) ∧
      (bar.mode = 2 → bar.state ≠ 4 → k.phase = .running →
        ∃ t, exec (.fray a 1) s = .next t ∧ Tab.find t.strands sid = some k.advance ∧ LockFrayed s t l.key bar 5)) ∧
    (∀ a, Issues s sid k (.fray a 2) [a] [] → AllClean k [a] → vccOf s k = none →
      LocalAt s sid k (k.nat a / 32 * 32) 32 32 2 l →
      exec (.fray a 2) s = .next (writeAt (s.putStrand sid k.advance) ⟨l.key, List.replicate 32 0, some 5⟩)) ∧
    (∀ a, Issues s sid k (.fray a 3) [a] [] → AllClean k [a] →
      exec (.fray a 3) s = .next (match findScope s k.ctx (k.nat a % 2 ^ 32) with
        | none => s.putStrand sid k.advance
        | some r => if r.root = true ∧ r.parent = 0 then s.putStrand sid k.advance
          else frayScope (s.putStrand sid k.advance) k.ctx (k.nat a % 2 ^ 32) 5)) ∧
    (∀ a b m r, Issues s sid k (.bndset a b m r) [a, b] [] → AllClean k [a, b] →
      let x : Bound := ⟨k.nat a % 2 ^ 32, k.nat a / 2 ^ 32, m, k.nat b % 2 ^ 32⟩
      exec (.bndset a b m r) s =
        .next ((s.modCore k.core fun c => { c with bounds := Tab.put c.bounds r x }).putStrand sid k.advance))

/-! ### Vectors and masks -/

/-- R246, R248 to R250, R256: a lane-wise instruction with clean sources writes each active lane of vd with its function of
the lanes of va, vb and vd, keeps the inactive lanes, merges the active lanes' flags, and changes nothing else. R246, R349: in
an addition under any mask, a chunk of the result is frayed exactly where an active lane has a frayed source lane or the mask
is frayed, or where the chunk was frayed and keeps an inactive lane; a frayed active lane taints the issuer with the code of
the first frayed source, va before vb before the mask, and the register takes that code. -/
def Obligations.VectorLaneResults : Prop :=
  (∀ (s : State) (sid : Nat) (k : Strand) (i : Instr) (d m t a b : Nat) (vs : List Nat)
    (f : Option Nat → Nat → Nat → Nat → Nat × Fp.Flags),
    laneRule i = some (d, m, t, vs, f) → (vs = [d, a, b] ∨ (vs = [d, a] ∧ b = 0)) →
    IssuesV s sid k i vs [] [] → CleanV k vs m →
    let lane := fun j => f k.mod (laneAt (k.v a) t j) (laneAt (k.v b) t j) (laneAt (k.v d) t j)
    ∃ k', exec i s = .next (s.putStrand sid k') ∧ OnlyVector k k' d ∧ (k'.v d).fray = 0 ∧
      (∀ j, j < laneCount t → laneAt (k'.v d) t j =
        if laneActive k m t j then (lane j).1 % 2 ^ laneBits t else laneAt (k.v d) t j) ∧
      k'.st.ff = (List.range (laneCount t)).foldl
        (fun acc j => if laneActive k m t j then acc ||| (lane j).2 else acc) k.st.ff) ∧
  (∀ (s : State) (sid : Nat) (k : Strand) (d a b m t : Nat),
    IssuesV s sid k (.vadd d a b m t) [d, a, b] [] [] →
    let act := (List.range (laneCount t)).filter (laneActive k m t)
    let at_ := fun (x : VReg) (j : Nat) => x.fray.getLsbD (laneBits t * j / 64)
    let fa := act.any (at_ (k.v a))
    let fb := act.any (at_ (k.v b))
    let fm := maskFrayed k m && !act.isEmpty
    let tainted := fun (k' : Strand) (c : Code) => (k'.v d).code = c ∧ k'.st.t = true ∧ k'.st.fc = c.zeroExtend 8
    ∃ k', exec (.vadd d a b m t) s = .next (s.putStrand sid k') ∧
      (∀ c, c < 16 → (k'.v d).fray.getLsbD c =
        ((act.any fun j => laneBits t * j / 64 == c && (at_ (k.v a) j || at_ (k.v b) j || maskFrayed k m)) ||
          ((k.v d).fray.getLsbD c && (List.range (laneCount t)).any fun j => laneBits t * j / 64 == c && !laneActive k m t j))) ∧
      (fa = true → tainted k' (k.v a).code) ∧ (fa = false → fb = true → tainted k' (k.v b).code) ∧
      (fa = false → fb = false → fm = true → tainted k' (k.m m).code) ∧
      (fa = false → fb = false → fm = false → k'.st.t = k.st.t ∧ k'.st.fc = k.st.fc ∧
        (k'.v d).code = (if (k'.v d).fray = 0 then 0 else (k.v d).code)))

/-- R251, R252: with clean sources `VSEL` takes active lanes from va and the others from vb; `VCMP` sets the mask bits of the
active lanes for which the condition holds and clears all others, and a result for k0 is discarded. R253 to R255: a conversion
between lane types writes destination lane j, for j below the smaller lane count, from source lane j where it is active and
zeroes the lanes beyond; one to blocks writes each 32-byte slot with the block of its sixteen lanes; one from blocks writes
each active lane with its element. -/
def Obligations.VectorComparesAndConversions : Prop :=
  ((∀ (s : State) (sid : Nat) (k : Strand) (d a b m t : Nat),
    IssuesV s sid k (.vsel d a b m t) [d, a, b] [] [] → CleanV k [a, b] m →
    ∃ k', exec (.vsel d a b m t) s = .next (s.putStrand sid k') ∧ OnlyVector k k' d ∧ k'.st = k.st ∧
      ∀ j, j < laneCount t → laneAt (k'.v d) t j = if laneActive k m t j then laneAt (k.v a) t j else laneAt (k.v b) t j) ∧
  (∀ (s : State) (sid : Nat) (k : Strand) (d a b m t c : Nat),
    IssuesV s sid k (.vcmp d a b m t c) [a, b] [] [] → CleanV k [a, b] m →
    ∃ k', exec (.vcmp d a b m t c) s = .next (s.putStrand sid k') ∧ k'.vregs = k.vregs ∧ k'.regs = k.regs ∧
      k'.pc = k.advance.pc ∧ (d = 0 → k'.masks = k.masks) ∧ (∀ r, r % 8 ≠ d % 8 → k'.m r = k.m r) ∧
      (0 < d → (k'.m d).fray = false ∧ ∀ j e, j < laneCount t → e < laneBits t / 8 →
        (k'.m d).data.getLsbD (laneBits t / 8 * j + e) = (laneActive k m t j &&
          (if t ≤ 7 then ccHolds c (BitVec.ofNat (laneBits t) (laneAt (k.v a) t j)) (BitVec.ofNat (laneBits t) (laneAt (k.v b) t j))
            else (condFp (if t = 9 then Fp.fp16 else if t = 10 then Fp.bf16 else Fp.fp32) c
              (laneAt (k.v a) t j) (laneAt (k.v b) t j)).1))))) ∧
  (∀ (s : State) (sid : Nat) (k : Strand) (d a b m t y : Nat),
    IssuesV s sid k (.vcvt d a b m t y) [d, a, b] [] [] → CleanV k [d, a, b] m →
    ∃ k', exec (.vcvt d a b m t y) s = .next (s.putStrand sid k') ∧ OnlyVector k k' d ∧ (k'.v d).fray = 0 ∧
      (t ≤ 10 → y ≤ 10 → ∀ j, j < laneCount t → laneAt (k'.v d) t j =
        if Nat.min (laneCount t) (laneCount y) ≤ j then 0
        else if laneActive k m t j then
          (if t ≤ 7 ∧ y ≤ 7 then keepInt t (modSat k.mod) (laneInt y (laneAt (k.v a) y j))
            else (convertElem t y (modRound k.mod) ((k.v b).data.toNat / 2 ^ (16 * j) % 2 ^ 16) (laneAt (k.v a) y j)).1
              % 2 ^ laneBits t)
        else laneAt (k.v d) t j) ∧
      (11 ≤ t → ∀ g, g < laneCount y / 16 → (k'.v d).data.toNat / 2 ^ (256 * g) % 2 ^ 256 =
        (Fp.toSx t (modRound k.mod) ((List.range 16).map fun e => (k.v b).data.toNat / 2 ^ (16 * (16 * g + e)) % 2 ^ 16)
          ((List.range 16).map fun e => Fp.value (fmtOf y) (laneAt (k.v a) y (16 * g + e)))).1 % 2 ^ 256) ∧
      (11 ≤ y → ∀ j, j < laneCount t → laneAt (k'.v d) t j =
        if laneActive k m t j then (Fp.deliver (fmtOf t) (modRound k.mod) 0
          (Fp.sxElement y ((k.v a).data.toNat / 2 ^ (256 * (j / 16)) % 2 ^ 256) (j % 16))).1 % 2 ^ laneBits t
        else laneAt (k.v d) t j))

/-- R57, R257: an integer `VRED` of clean lanes leaves in lane 0 the sum modulo 2^w, the greatest or the least of the active
lanes, and zeroes the rest of vd; the indexed forms put the lowest index of the extreme lane beside it. R258: an integer
`VSCAN` writes each active lane with the sum, the greatest or the least of the active lanes up to it. -/
def Obligations.VectorReductions : Prop :=
  (∀ (s : State) (sid : Nat) (k : Strand) (d a m t : Nat), t ≤ 7 → modSat k.mod = false → CleanV k [d, a] m →
    let act := (List.range (laneCount t)).filter (laneActive k m t)
    let x := fun j => laneInt t (laneAt (k.v a) t j)
    (IssuesV s sid k (.vredSum d a m t) [d, a] [] [] →
      ∃ k', exec (.vredSum d a m t) s = .next (s.putStrand sid k') ∧ OnlyVector k k' d ∧ (k'.v d).fray = 0 ∧
        (k'.v d).data.toNat = ((act.map x).sum % 2 ^ laneBits t).toNat) ∧
    (IssuesV s sid k (.vredMax d a m t) [d, a] [] [] → ∀ j ∈ act, (∀ i ∈ act, x i ≤ x j) →
      ∃ k', exec (.vredMax d a m t) s = .next (s.putStrand sid k') ∧ OnlyVector k k' d ∧ (k'.v d).fray = 0 ∧
        (k'.v d).data.toNat = laneAt (k.v a) t j) ∧
    (IssuesV s sid k (.vredMin d a m t) [d, a] [] [] → ∀ j ∈ act, (∀ i ∈ act, x j ≤ x i) →
      ∃ k', exec (.vredMin d a m t) s = .next (s.putStrand sid k') ∧ OnlyVector k k' d ∧ (k'.v d).fray = 0 ∧
        (k'.v d).data.toNat = laneAt (k.v a) t j) ∧
    (IssuesV s sid k (.vredMaxi d a m t) [d, a] [] [] → ∀ j ∈ act, (∀ i ∈ act, x i ≤ x j) → (∀ i ∈ act, i < j → x i < x j) →
      ∃ k', exec (.vredMaxi d a m t) s = .next (s.putStrand sid k') ∧ OnlyVector k k' d ∧ (k'.v d).fray = 0 ∧
        (k'.v d).data.toNat = laneAt (k.v a) t j + j * 2 ^ (if laneBits t = 64 then 64 else 32)) ∧
    (IssuesV s sid k (.vredMini d a m t) [d, a] [] [] → ∀ j ∈ act, (∀ i ∈ act, x j ≤ x i) → (∀ i ∈ act, i < j → x j < x i) →
      ∃ k', exec (.vredMini d a m t) s = .next (s.putStrand sid k') ∧ OnlyVector k k' d ∧ (k'.v d).fray = 0 ∧
        (k'.v d).data.toNat = laneAt (k.v a) t j + j * 2 ^ (if laneBits t = 64 then 64 else 32))) ∧
  (∀ (s : State) (sid : Nat) (k : Strand) (d a m t : Nat), t ≤ 7 → modSat k.mod = false → CleanV k [d, a] m →
    let upTo := fun j => (List.range (j + 1)).filter (laneActive k m t)
    let x := fun j => laneInt t (laneAt (k.v a) t j)
    (IssuesV s sid k (.vscanSum d a m t) [d, a] [] [] →
      ∃ k', exec (.vscanSum d a m t) s = .next (s.putStrand sid k') ∧ OnlyVector k k' d ∧ (k'.v d).fray = 0 ∧
        ∀ j, j < laneCount t → laneAt (k'.v d) t j =
          if laneActive k m t j then (((upTo j).map x).sum % 2 ^ laneBits t).toNat else laneAt (k.v d) t j) ∧
    (IssuesV s sid k (.vscanMax d a m t) [d, a] [] [] →
      ∃ k', exec (.vscanMax d a m t) s = .next (s.putStrand sid k') ∧ OnlyVector k k' d ∧ (k'.v d).fray = 0 ∧
        ∀ j, j < laneCount t → if laneActive k m t j
          then (∃ i ∈ upTo j, laneAt (k'.v d) t j = laneAt (k.v a) t i ∧ ∀ e ∈ upTo j, x e ≤ x i)
          else laneAt (k'.v d) t j = laneAt (k.v d) t j) ∧
    (IssuesV s sid k (.vscanMin d a m t) [d, a] [] [] →
      ∃ k', exec (.vscanMin d a m t) s = .next (s.putStrand sid k') ∧ OnlyVector k k' d ∧ (k'.v d).fray = 0 ∧
        ∀ j, j < laneCount t → if laneActive k m t j
          then (∃ i ∈ upTo j, laneAt (k'.v d) t j = laneAt (k.v a) t i ∧ ∀ e ∈ upTo j, x i ≤ x e)
          else laneAt (k'.v d) t j = laneAt (k.v d) t j))

/-- R90, R259 to R261: the moves of lanes with clean sources: permutation by an index register over one or two registers, the
interleaving of low halves, the broadcast of a general register, and copies of one, two or four registers that read every
source before any write. R261: `VINS` writes one lane of vd and `VEXT` reads one lane of va, sign- or zero-extended by its
type; an index beyond the lanes writes nothing, or zero. -/
def Obligations.VectorMoves : Prop :=
  (∀ (s : State) (sid : Nat) (k : Strand) (d a b m t : Nat), maskFrayed k m = false →
    (IssuesV s sid k (.vperm d a b m t) [d, a, b] [] [] → CleanV k [d, a, b] m →
      ∃ k', exec (.vperm d a b m t) s = .next (s.putStrand sid k') ∧ OnlyVector k k' d ∧ k'.st = k.st ∧
        ∀ j, j < laneCount t → laneAt (k'.v d) t j = if laneActive k m t j
          then (if laneAt (k.v b) t j < laneCount t then laneAt (k.v a) t (laneAt (k.v b) t j) else 0)
          else laneAt (k.v d) t j) ∧
    (IssuesV s sid k (.vpermX2 d a b m t) [d, a, a + 1, b] [] [] → CleanV k [d, a, a + 1, b] m →
      ∃ k', exec (.vpermX2 d a b m t) s = .next (s.putStrand sid k') ∧ OnlyVector k k' d ∧ k'.st = k.st ∧
        ∀ j, j < laneCount t → laneAt (k'.v d) t j = if laneActive k m t j
          then (if laneAt (k.v b) t j < laneCount t then laneAt (k.v a) t (laneAt (k.v b) t j)
            else if laneAt (k.v b) t j < 2 * laneCount t then laneAt (k.v (a + 1)) t (laneAt (k.v b) t j - laneCount t) else 0)
          else laneAt (k.v d) t j) ∧
    (IssuesV s sid k (.vshuf d a b m t) [d, a, b] [] [] → CleanV k [d, a, b] m →
      ∃ k', exec (.vshuf d a b m t) s = .next (s.putStrand sid k') ∧ OnlyVector k k' d ∧ k'.st = k.st ∧
        ∀ j, j < laneCount t → laneAt (k'.v d) t j = if laneActive k m t j
          then laneAt (k.v (if j % 2 = 0 then a else b)) t (j / 2) else laneAt (k.v d) t j) ∧
    (IssuesV s sid k (.vbcast d a m t) [d] [a] [] → CleanV k [d] m → AllClean k [a] →
      ∃ k', exec (.vbcast d a m t) s = .next (s.putStrand sid k') ∧ OnlyVector k k' d ∧ k'.st = k.st ∧
        ∀ j, j < laneCount t → laneAt (k'.v d) t j = if laneActive k m t j
          then k.nat a % 2 ^ laneBits t else laneAt (k.v d) t j) ∧
    (∀ i n, ((i = .vmov d a m t ∧ n = 1) ∨ (i = .vmovX2 d a m t ∧ n = 2) ∨ (i = .vmovX4 d a m t ∧ n = 4)) →
      IssuesV s sid k i ((List.range n).flatMap fun j => [d + j, a + j]) [] [] →
      CleanV k ((List.range n).flatMap fun j => [d + j, a + j]) m →
      ∃ k', exec i s = .next (s.putStrand sid k') ∧ k'.st = k.st ∧ k'.regs = k.regs ∧ k'.pc = k.advance.pc ∧
        (∀ r, r < 32 → (r < d ∨ d + n ≤ r) → k'.v r = k.v r) ∧
        ∀ e j, e < n → j < laneCount t → laneAt (k'.v (d + e)) t j =
          if laneActive k m t j then laneAt (k.v (a + e)) t j else laneAt (k.v (d + e)) t j)) ∧
  (∀ (s : State) (sid : Nat) (k : Strand) (d a b t : Nat),
    (IssuesV s sid k (.vins d a b t) [d] [a, b] [] → AllClean k [a, b] →
      (k.nat b < laneCount t → (k.v d).fray = 0 →
        ∃ k', exec (.vins d a b t) s = .next (s.putStrand sid k') ∧ OnlyVector k k' d ∧ k'.st = k.st ∧
          ∀ j, j < laneCount t → laneAt (k'.v d) t j = if j = k.nat b then k.nat a % 2 ^ laneBits t else laneAt (k.v d) t j) ∧
      (laneCount t ≤ k.nat b → exec (.vins d a b t) s = .next (s.putStrand sid k.advance))) ∧
    (IssuesV s sid k (.vext d a b t) [a] [b] [d] → AllClean k [b] →
      (k.nat b < laneCount t → (k.v a).fray = 0 →
        exec (.vext d a b t) s = .next (s.putStrand sid (k.writeG d
          (if t ≤ 7 then BitVec.ofInt 64 (laneInt t (laneAt (k.v a) t (k.nat b)))
            else BitVec.ofNat 64 (laneAt (k.v a) t (k.nat b)))).advance)) ∧
      (laneCount t ≤ k.nat b → exec (.vext d a b t) s = .next (s.putStrand sid (k.writeG d 0).advance))))

/-- R243, R268: the mask instructions on clean masks; a result for k0 is discarded and k0 reads as all ones. -/
def Obligations.MaskInstructions : Prop :=
  ∀ (s : State) (sid : Nat) (k : Strand) (d a b : Nat),
    let put := fun (x : BitVec 128) => if d % 8 = 0 then k else k.setM d ⟨x, false, 0⟩
    (k.m 0 = ⟨BitVec.allOnes 128, false, 0⟩) ∧
    ((k.m a).fray = false → (k.m b).fray = false →
      (IssuesV s sid k (.kand d a b) [] [] [] →
        exec (.kand d a b) s = .next (s.putStrand sid (put ((k.m a).data &&& (k.m b).data)).advance)) ∧
      (IssuesV s sid k (.kor d a b) [] [] [] →
        exec (.kor d a b) s = .next (s.putStrand sid (put ((k.m a).data ||| (k.m b).data)).advance)) ∧
      (IssuesV s sid k (.kxor d a b) [] [] [] →
        exec (.kxor d a b) s = .next (s.putStrand sid (put ((k.m a).data ^^^ (k.m b).data)).advance))) ∧
    ((k.m a).fray = false →
      (IssuesV s sid k (.knot d a) [] [] [] → exec (.knot d a) s = .next (s.putStrand sid (put (~~~(k.m a).data)).advance)) ∧
      (IssuesV s sid k (.kmov d a) [] [] [] → exec (.kmov d a) s = .next (s.putStrand sid (put (k.m a).data).advance)) ∧
      (IssuesV s sid k (.kmovLo d a) [] [] [d] →
        exec (.kmovLo d a) s = .next (s.putStrand sid (k.writeG d ((k.m a).data.setWidth 64)).advance)) ∧
      (IssuesV s sid k (.kmovHi d a) [] [] [d] →
        exec (.kmovHi d a) s = .next (s.putStrand sid (k.writeG d (((k.m a).data >>> 64).setWidth 64)).advance)) ∧
      (IssuesV s sid k (.kpop d a) [] [] [d] →
        exec (.kpop d a) s = .next (s.putStrand sid (k.writeG d
          (BitVec.ofNat 64 ((List.range 128).countP fun j => (k.m a).data.getLsbD j))).advance))) ∧
    (IssuesV s sid k (.kmovG d a b) [] [a, b] [] → AllClean k [a, b] →
      exec (.kmovG d a b) s = .next (s.putStrand sid (put ((k.val b ++ k.val a).setWidth 128)).advance))

/-- R262 to R265: a vector load of elements of the issuer's own core, quad or package's memory, clean and in no cache, writes each active
lane with the little-endian number at its element's place and keeps the others. R19, R264: one with an element in another core's
scratchpad or another package issues, and its data returns when each such element has been read at its home; that the others are read
as it issues is the model's choice (log 42). R97, R265: the data that returns is the register's. -/
def Obligations.VectorLoads : Prop :=
  (∀ (s : State) (sid : Nat) (k : Strand) (i : Instr) (d m t sp a : Nat) (rs xs : List Nat) (disp : Nat → Int)
    (ls : List (Nat × Loc)),
    vmemForm k i = some (false, d, m, t, sp, a, rs, xs, disp) → IssuesV s sid k i (d :: xs) rs [] → AllClean k rs →
    CleanV k (d :: xs) m →
    let n := laneBits t / 8
    let es := elementsRule k m t sp a disp
    (∀ e ∈ ls, cachedLine s (clusterOf k.core) e.2.key n = none) →
    (ElementsAt s sid k sp 1 n es ls → (∀ e ∈ ls, remoteElement s k e.2 = false ∧ CleanRange s e.2 n) →
      ∃ t' k', exec i s = .next t' ∧ Tab.find t'.strands sid = some k' ∧ OnlyVector k k' d ∧ k'.st = k.st ∧ t'.mem = s.mem ∧
        (∀ j, j ≠ sid → Tab.find t'.strands j = Tab.find s.strands j) ∧
        ∀ j, j < laneCount t → laneAt (k'.v d) t j = match Tab.find ls j with
          | some l => numberAt s l.key n
          | none => laneAt (k.v d) t j) ∧
    (firstTrap s k sp 1 n es = none → memBusy s sid = false → (sp ≠ 0 → mvuClear s sid k = true) → placeElements s k sp 1 es = .at ls →
      ls.all (fun e => elementReady s sid k sp 1 n e.2) = true → elementRoom s k 1 ls = true → vccOf s k = none →
      (∃ e ∈ ls, remoteElement s k e.2 = true) →
      ∃ t' got left, exec i s = .next t' ∧ Tab.find t'.strands sid = some k.advance ∧ t'.mem = s.mem ∧
        Tab.find t'.flights s.nextId = some (.vecLoad sid k.gen d t got left none none) ∧
        ∀ e, e ∈ left ↔ ∃ x ∈ ls, remoteElement s k x.2 = true ∧ e = (x.1, x.2.key))) ∧
  (∀ (s : State) (id sid gen d : Nat) (x : VReg) (k : Strand), Tab.find s.flights id = some (.vecRet sid gen d x none) →
    Tab.find s.strands sid = some k → k.gen = gen →
    ∃ t, exec (.loadDataReturn id) s = .next t ∧ Tab.find t.strands sid = some (k.setV d x) ∧ t.mem = s.mem ∧
      t.flights = Tab.del s.flights id ∧ ∀ j, j ≠ sid → Tab.find t.strands j = Tab.find s.strands j)

/-- R264, R265: a vector store to elements of the issuer's own die writes each active lane at its element's place, and no other byte, at
once but for those in other cores' scratchpads, to which requests go (R19); a frayed lane is written as poison with the register's code,
which taints the issuer. That the clean lanes are written before the frayed ones is the model's choice (log 64), and so is the address
that a bounded store's log entry names, the first active element's (log 65). R266, R361, R363: a bounded store checks every active lane: one within its bound is written as it is, under clamp mode one
beyond it as the nearer bound, under flag mode as poison with code 4, counted in one log entry; under trap mode it raises the
bound trap and writes nothing. A lane that is frayed is written as poison unchecked. -/
def Obligations.VectorStores : Prop :=
  (∀ (s : State) (sid : Nat) (k : Strand) (i : Instr) (d m t sp a : Nat) (rs xs : List Nat) (disp : Nat → Int)
    (ls : List (Nat × Loc)),
    vmemForm k i = some (true, d, m, t, sp, a, rs, xs, disp) → IssuesV s sid k i (d :: xs) rs [] → AllClean k rs →
    CleanV k xs m → ElementsAt s sid k sp 2 (laneBits t / 8) (elementsRule k m t sp a disp) ls →
    let n := laneBits t / 8
    let bytes := fun j => leBytes n (laneAt (k.v d) t j)
    exec i s = .next (vectorStore
      (s.putStrand sid (if someLane t (laneActive k m t) (k.v d) then k.taint (k.v d).code else k).advance) sid k
      (fun j => (bytes j, if laneFrayed (k.v d) t j then some (k.v d).code else none)) ls) ∧
    ((k.v d).fray = 0 → k.phase = .running → s.mem.wf = true → (∀ e ∈ ls, remoteElement s k e.2 = false) →
      ∃ t', exec i s = .next t' ∧ Tab.find t'.strands sid = some k.advance ∧
        t'.mem = ls.foldl (fun mem e => mem.writeBytes e.2.key (bytes e.1)) s.mem ∧
        ∀ x, (∀ e ∈ ls, x < e.2.key ∨ e.2.key + n ≤ x) → t'.mem.read x = s.mem.read x)) ∧
  (∀ (s : State) (sid : Nat) (k : Strand) (d a b m t sp : Nat) (ls : List (Nat × Loc)),
    IssuesV s sid k (.vstBnd d a b m t sp) [d] [a] [] → AllClean k [a] → maskFrayed k m = false →
    let es := elementsRule k m t sp a fun j => (j * (laneBits t / 8) : Nat)
    ElementsAt s sid k sp 2 (laneBits t / 8) es ls →
    let n := laneBits t / 8
    let check := fun j => if laneFrayed (k.v d) t j then BoundWrite.write (laneAt (k.v d) t j)
      else boundCheck (fmtOf t) (boundOf s k.core b) (laneAt (k.v d) t j)
    ((∃ e ∈ es, check e.1 = .fail) → exec (.vstBnd d a b m t sp) s = .next (trap s sid 0x05)) ∧
    ((∀ e ∈ es, check e.1 ≠ .fail) →
      exec (.vstBnd d a b m t sp) s = .next (vectorStore
        (logBound (s.putStrand sid (if someLane t (laneActive k m t) (k.v d) then k.taint (k.v d).code else k).advance) k
          (boundOf s k.core b) (es.filter fun e => check e.1 == .poison true).length (((es.map (·.2)).head?).getD 0)) sid k
        (fun j => if laneFrayed (k.v d) t j then (leBytes n (laneAt (k.v d) t j), some (k.v d).code)
          else match check j with
            | .write y => (leBytes n y, none)
            | _ => (leBytes n 0, some 4)) ls)) ∧
    ((k.v d).fray = 0 → k.phase = .running → (∀ e ∈ es, ∃ y, check e.1 = .write y) → (∀ e ∈ ls, remoteElement s k e.2 = false) →
      ∃ t', exec (.vstBnd d a b m t sp) s = .next t' ∧ Tab.find t'.strands sid = some k.advance ∧
        t'.mem = ls.foldl (fun mem e => mem.writeBytes e.2.key (leBytes n (match check e.1 with
          | .write y => y
          | _ => 0))) s.mem))

/-! ### The matrix-vector unit, gangs -/

/-- R270, R278, R280 to R284, R287: with clean registers and operands that are aligned and inside their buffers, a matrix
instruction of an anchored strand enters the core's dispatch queue with its operands as read, an `MWR` of a frayed row
tainting its issuer when it completes; `MSLOT` writes the quad's slot table; a strand without vector registers traps. -/
def Obligations.MatrixInstructionsEnqueue : Prop :=
  ∀ (s : State) (sid : Nat) (k : Strand) (c : Core),
    (∀ x, k.vcount = 0 → Issues s sid k (.mzero x) [] [] → exec (.mzero x) s = .next (trap s sid 0x01)) ∧
    (MvuFree s sid k c →
      (∀ i m sh t x a b p, ((i = .mma sh t x a b p ∧ m = .mma) ∨ (i = .mmas sh t x a b p ∧ m = .mmas)) →
        Issues s sid k i [a, b] [] → AllClean k [a, b] →
        k.nat a % 64 = 0 → k.nat a + dimM sh * rowBytes sh t ≤ 2 ^ 17 →
        k.nat b % 64 = 0 → k.nat b + dimN sh * colBytes sh t (p == 1) ≤ 2 ^ 18 →
        exec i s = .next (s.enqueued sid k c { MvuOp.blank sid k m with
          shape := sh, ty := t, sparse := p == 1, tile := x, a := k.nat a, b := k.nat b
          bound := if m = .mma then tileBound s k x else none
          waits := trapMode (if m = .mma then tileBound s k x else none) })) ∧
      (∀ sh t x a b p v n voff base stride, ∀ os : List Nat,
        Issues s sid k (.mmag sh t x a b p v) [a, b, v] [] → AllClean k [a, b, v] →
        Unharmed s → coreMvuClear s k.core = true → buffersReady s k.ctx (quadOf k.core) = true →
        k.nat a % 64 = 0 → k.nat a + dimM sh * rowBytes sh t ≤ 2 ^ 17 →
        k.nat b = base + stride * 2 ^ 32 → base < 2 ^ 32 → base % 64 = 0 →
        k.nat v = voff + n * 2 ^ 32 → 1 ≤ n → n ≤ 256 → voff % 4 = 0 → voff + 4 * (n + 1) ≤ 2 ^ 17 →
        os = (List.range (n + 1)).map (fun g => numberAt s (bufferKey k.ctx (quadOf k.core) bufA (voff + 4 * g)) 4) →
        (∀ g, g < n → os.getD g 0 ≤ os.getD (g + 1) 0) → os.getD n 0 ≤ dimM sh →
        (∀ g, g < n → os.getD g 0 < os.getD (g + 1) 0 →
          (base + g * stride) % 64 = 0 ∧ base + g * stride + dimN sh * colBytes sh t (p == 1) ≤ 2 ^ 18) →
        exec (.mmag sh t x a b p v) s = .next (s.enqueued sid k c { MvuOp.blank sid k .mmag with
          shape := sh, ty := t, sparse := p == 1, tile := x, a := k.nat a, b := base, p := stride, offsets := os
          bound := tileBound s k x, waits := trapMode (tileBound s k x) })) ∧
      (∀ x a b p, Issues s sid k (.mxs x a b p) [a, b] [] → AllClean k [a, b] →
        k.nat a % 64 = 0 → k.nat a + 64 ≤ 2 ^ 17 → k.nat b % 64 = 0 → k.nat b + 64 ≤ 2 ^ 17 →
        exec (.mxs x a b p) s = .next (s.enqueued sid k c { MvuOp.blank sid k .mxs with
          tile := x, a := k.nat a, b := k.nat b, p := p, bound := tileBound s k x, waits := trapMode (tileBound s k x) })) ∧
      (∀ x, Issues s sid k (.mzero x) [] [] →
        exec (.mzero x) s = .next (s.enqueued sid k c { MvuOp.blank sid k .mzero with tile := x })) ∧
      (∀ r x a v, IssuesV s sid k (.mrd r x a v) ((List.range (2 ^ r)).map (v + ·)) [a] [] → AllClean k [a] →
        k.nat a + 2 ^ r ≤ 32 →
        exec (.mrd r x a v) s = .next (s.enqueued sid k c { MvuOp.blank sid k .mrd with
          ty := r, tile := x, a := k.nat a, v := v, waits := true })) ∧
      (∀ r x a v, IssuesV s sid k (.mwr r x a v) ((List.range (2 ^ r)).map (v + ·)) [a] [] → AllClean k [a] →
        k.nat a + 2 ^ r ≤ 32 →
        let rows := (List.range (2 ^ r)).map (fun j => k.v (v + j))
        let waits := trapMode (tileBound s k x)
        let k1 := match rows.find? fun y => decide (y.fray ≠ 0) with
          | some y => if waits then k else k.taint y.code
          | none => k
        exec (.mwr r x a v) s = .next (s.enqueued sid k1 c { MvuOp.blank sid k .mwr with
          ty := r, tile := x, a := k.nat a, rows := rows, bound := tileBound s k x, waits := waits })) ∧
      (∀ t a b w, Issues s sid k (.ldt t a b w) [a, b] [] → AllClean k [a, b] →
        strandCheck s k (k.nat a) 8 1 = true → isSpread (k.nat a) = true → ptrPkg (k.nat a) = s.pkg →
        quadOf (ptrCore (k.nat a)) = quadOf k.core → k.nat a % 8 = 0 → k.nat a % 128 + 32 * ldtBytes t ≤ 128 →
        k.nat a % 2 ^ 16 / 128 * 128 + 4096 ≤ 65536 → k.nat b % 64 = 0 → k.nat b + 1024 * ldtBytes t ≤ 2 ^ 17 →
        exec (.ldt t a b w) s = .next (s.enqueued sid k c { MvuOp.blank sid k .ldt with
          ty := t, a := k.nat a, b := k.nat b, p := w })) ∧
      (∀ a x, Issues s sid k (.mslot a) [a] [] → AllClean k [a] →
        (∀ p, p < 16 → k.nat a / 16 ^ p % 16 ≤ 3 ∨ k.nat a / 16 ^ p % 16 = 8) → kernelOf s k = some x →
        (x.sright = false → exec (.mslot a) s = .next (trap s sid 0x0B)) ∧
        (x.sright = true → exec (.mslot a) s = .next ((s.putQuad (quadOf k.core) { quadAt s (quadOf k.core) with
          slotTable := (List.range 16).map fun p => k.nat a / 16 ^ p % 16 }).putStrand sid k.advance))))

/-- R286: at a dispatch opportunity of a free unit the next position of the quad's table is served: the head of the named
core's queue, if no operation of its gang goes before it (R221), starts where that core has one; at an open position the head of the
first core after the round-robin pointer that has one starts, and the pointer moves there. That the cores after the pointer are served
in the same way where the named core has no head to start is the model's choice (log 38). R278 to R284: what an operation of the unit has done at its
end, with no bound check and no poison or damage in memory: `MMA` has added and `MMAS` has stored the products of its rows and
columns, `MXS` has added its scaled tile, `MZERO` has cleared its tile, `MWR` has written its rows, `MRD` has filled the
registers of its waiting slot, `LDT` has transposed its source into buffer A, each step of an `MMAG` has done one group, and
the unit is free again. -/
def Obligations.MvuOperationsPerform : Prop :=
  (∀ (s : State) (quad x : Nat) (c : Core) (o : MvuOp) (rest : List MvuOp),
    (quadAt s quad).busy = none → s.images = [] → x < 4 → Tab.find s.cores (quad * 4 + x) = some c → c.mode ≠ .preempting →
    c.dispatch = o :: rest → (o.kind = .ldt → ldtReady s (quad * 4 + x) o = true) →
    buffersReady s (o.sid / 32768) (quadOf (quad * 4 + x)) = true → mvuTurn s (quadOf (quad * 4 + x)) (quad * 4 + x) o = true →
    let pos := ((quadAt s quad).pos + 1) % 16
    let slot := (quadAt s quad).slotTable.getD pos 8
    let rr := (quadAt s quad).rr
    (∀ r, (slot = x ∧ r = rr) ∨
        ((4 ≤ slot ∨ headReady s (quad * 4 + slot) = none) ∧ r = x ∧ ∃ i, 1 ≤ i ∧ i ≤ 4 ∧ x = (rr + i) % 4 ∧
          ∀ j, 1 ≤ j → j < i → headReady s (quad * 4 + (rr + j) % 4) = none) →
      ∃ t, exec (.mvuDispatchOpportunity quad) s = .next t ∧ (quadAt t quad).busy = some (quad * 4 + x, o) ∧
        (quadAt t quad).pos = pos ∧ (quadAt t quad).rr = r ∧
        Tab.find t.cores (quad * 4 + x) = some { c with dispatch := rest } ∧ t.mem = s.mem ∧ t.strands = s.strands)) ∧
  (∀ (s : State) (quad core : Nat) (o : MvuOp),
    (quadAt s quad).busy = some (core, o) → Unharmed s → o.bound = none → o.kept = [] → (o.kind ≠ .mrd → o.waits = false) →
    (∃ t, exec (.mvuOperationDone quad) s = .next t ∧ (o.kind ≠ .mmag → (quadAt t quad).busy = none) ∧
      (o.kind = .mma → ProductIn s t quad o 0 (dimM o.shape) o.b false) ∧
      (o.kind = .mmas → ProductIn s t quad o 0 (dimM o.shape) o.b true) ∧
      (o.kind = .mzero → ∀ x, t.mem.read x =
        if cKey (o.sid / 32768) quad o.tile 0 0 ≤ x ∧ x < cKey (o.sid / 32768) quad (o.tile + 1) 0 0 then 0 else s.mem.read x) ∧
      (o.kind = .mwr → ∀ j x, o.rows[j]? = some x → x.fray = 0 → o.rows.length ≤ 8 →
        numberAt t (cKey (o.sid / 32768) quad o.tile (o.a + j) 0) 128 = x.data.toNat) ∧
      (o.kind = .mxs → ∀ i j, i < 32 → j < 32 →
        numberAt t (cKey (o.sid / 32768) quad o.tile i j) 4 =
          (Fp.scaledAccumulate (numberAt s (cKey (o.sid / 32768) quad o.tile i j) 4)
            (numberAt s (bufferKey (o.sid / 32768) quad bufA (o.a + 2 * i)) 2)
            (numberAt s (bufferKey (o.sid / 32768) quad bufA (o.b + 2 * j)) 2)
            (numberAt s (cKey (o.sid / 32768) quad o.p i j) 4)).1 % 2 ^ 32) ∧
      (o.kind = .ldt → o.a % 8 = 0 → ∀ e q, e < 32 → q < 32 →
        numberAt t (bufferKey (o.sid / 32768) quad bufA (o.b + ldtBytes o.ty * (32 * e + q))) (ldtBytes o.ty) =
          numberAt s (ldtKey o (ldtSource o (ldtBytes o.ty) e q) + ldtBytes o.ty * e % 8) (ldtBytes o.ty)) ∧
      (o.kind = .mrd → ∀ k, Tab.find s.strands o.sid = some k → k.gen = o.gen → k.stall = .mvu → o.ty < 4 →
        o.v + 2 ^ o.ty ≤ 32 →
        t.mem = s.mem ∧ ∃ k', Tab.find t.strands o.sid = some k' ∧ k'.stall = .none ∧ k'.pc = k.advance.pc ∧
          (∀ r, r < 32 → (r < o.v ∨ o.v + 2 ^ o.ty ≤ r) → k'.v r = k.v r) ∧
          ∀ j, j < 2 ^ o.ty → (k'.v (o.v + j)).fray = 0 ∧
            (k'.v (o.v + j)).data.toNat = numberAt s (cKey (o.sid / 32768) quad o.tile (o.a + j) 0) 128)) ∧
    (o.kind = .mmag → ∀ g, o.nextStep = some g →
      ∃ t, exec (.mmagGroupStepDone quad) s = .next t ∧
        ProductIn s t quad o (o.offsets.getD g 0) (o.offsets.getD (g + 1) 0) (o.b + g * o.p) false ∧
        ∃ o', (quadAt t quad).busy = some (core, o') ∧ o'.group = g + 1) ∧
    (o.kind = .mmag → o.nextStep = none →
      ∃ t, exec (.mvuOperationDone quad) s = .next t ∧ (quadAt t quad).busy = none ∧ t.mem = s.mem ∧
        ∀ k, Tab.find s.strands o.sid = some k → k.gen = o.gen →
          Tab.find t.strands o.sid = some (k.mergeFlags o.flags)))

/-- R290, R291, R294, R297: `GANG.ENTER` with a legal word starts a gang with its strand parked in it, or completes the
rendezvous of one that waits for it; a strand that is a member already traps; `AT` makes the next instruction wait for a later
virtual cycle and traps on one that has come; `GANG.EXIT` takes its strand out of the gang, which ends with its last member.
The order of the rendezvous and the first virtual cycle is read from R291 (log 48). R293, R294, R296: a member's load fills
when the VCC reaches its due cycle; a wait of `AT` ends when the VCC reaches its target; a gang that has paused for 65,536
cycles, or has not met for as long, is aborted: it is gone and its members are free of it. -/
def Obligations.GangsMeetAndEnd : Prop :=
  (∀ (s : State) (sid : Nat) (k : Strand), k.vcount ≠ 0 →
    (∀ a, Issues s sid k (.gangEnter a) [a] [] → AllClean k [a] → gangWordOk s k (k.nat a) = true →
      (k.gang ≠ none → exec (.gangEnter a) s = .next (trap s sid 0x01)) ∧
      (k.gang = none → equalGangs s k (k.nat a) = [] →
        ∃ t k', exec (.gangEnter a) s = .next t ∧ Tab.find t.strands sid = some k' ∧ k'.phase = .parked .gang ∧
          k'.gang = some ⟨s.nextId, k.sc⟩ ∧ k'.gangAborted = false ∧
          Tab.find t.gangs s.nextId = some ⟨k.ctx, clusterOf k.core, k.nat a, [sid], none, none, 0, s.cycle⟩) ∧
      (∀ g x m j, k.gang = none → s.gangs = [(g, x)] → x.ctx = k.ctx → x.cluster = clusterOf k.core → x.word = k.nat a →
        x.begun = none → x.members = [m] → m ≠ sid → Tab.find s.strands m = some j → j.phase = .parked .gang →
        (gangCores x.cluster x.word = [j.core, k.core] ∨ gangCores x.cluster x.word = [k.core, j.core]) → j.core ≠ k.core →
        ∃ t k' j', exec (.gangEnter a) s = .next t ∧ t.gangs = [(g, { x with members := [m, sid], begun := some s.cycle })] ∧
          Tab.find t.strands sid = some k' ∧ k'.phase = .running ∧ k'.pc = k.advance.pc ∧
          Tab.find t.strands m = some j' ∧ j'.phase = .running ∧ j'.pc = j.advance.pc)) ∧
    (∀ a, Issues s sid k (.atVcc a) [a] [] → AllClean k [a] → k.gang = none →
      (k.gangAborted = true → exec (.atVcc a) s = .next (s.putStrand sid k.advance)) ∧
      (k.gangAborted = false → exec (.atVcc a) s = .next (trap s sid 0x01))) ∧
    (∀ a m v, Issues s sid k (.atVcc a) [a] [] → AllClean k [a] → k.gang = some m → vccOf s k = some v →
      (v < k.nat a → exec (.atVcc a) s = .next (s.putStrand sid { k.advance with vccTarget := some (k.nat a) })) ∧
      (k.nat a ≤ v → exec (.atVcc a) s = .next (trap s sid 0x06))) ∧
    (∀ m x, Issues s sid k .gangExit [] [] → k.gang = some m → Tab.find s.gangs m.gang = some x → holdsLoad s sid = false →
      ∃ t, exec .gangExit s = .next t ∧ (x.members.filter (fun y => y != sid) = [] → t.gangs = Tab.del s.gangs m.gang) ∧
        (x.members.filter (fun y => y != sid) ≠ [] →
          t.gangs = Tab.put s.gangs m.gang { x with members := x.members.filter fun y => y != sid }) ∧
        Tab.find t.strands sid = some { k.advance with gang := none, vccTarget := none }) ∧
    (Issues s sid k .gangExit [] [] → k.gang = none →
      (k.gangAborted = true → exec .gangExit s = .next (s.putStrand sid { k with gangAborted := false }.advance)) ∧
      (k.gangAborted = false → exec .gangExit s = .next (trap s sid 0x01)))) ∧
  (∀ (s : State),
    (∀ id sid gen f due k v, Tab.find s.flights id = some (.loadRet sid gen [f] (some due)) →
      Tab.find s.strands sid = some k → k.gen = gen → vccOf s k = some v → due ≤ v →
      ∃ t k', exec (.gangLoadDue id) s = .next t ∧ Tab.find t.strands sid = some k' ∧
        k'.g f.reg = ⟨f.val, true, f.fray, f.code, false⟩ ∧ t.flights = Tab.del s.flights id) ∧
    (∀ sid k v n, Tab.find s.strands sid = some k → k.vccTarget = some n → vccOf s k = some v → n ≤ v →
      exec (.atTargetReached sid) s = .next (s.putStrand sid { k with vccTarget := none })) ∧
    (∀ g x e, Tab.find s.gangs g = some x →
      ((e = Instr.gangPauseTimeout g ∧ 65536 ≤ x.paused) ∨
        (e = Instr.gangRendezvousTimeout g ∧ x.begun = none ∧ x.since + 65536 ≤ s.cycle)) →
      ∃ t, exec e s = .next t ∧ t.gangs = Tab.del s.gangs g ∧
        ∀ m k, m ∈ x.members → Tab.find s.strands m = some k →
          ∃ k', Tab.find t.strands m = some k' ∧ k'.gang = none ∧ k'.gangAborted = true))

/-! ### Copies and selections -/

/-- R300 to R304, R307, R309, R328: an engine command whose ranges, barrier and alignment pass their checks sets up its
operation, queued or waiting for its predecessors, with half of its issuer's share, and its issuer goes on. R300: a `COPY.T` whose
descriptor's page cannot be read faults no strand; that it issues without its fields and is to end with code 2 is read from that (log
50). -/
def Obligations.EngineCommandsIssue : Prop :=
  ∀ (s : State) (sid : Nat) (k : Strand) (x r a : Nat),
    (∀ i d b c n dsp ssp rs tag, ((i = .copy x r d a b c ∧ rs = [d, a, b, c] ∧ tag = none) ∨
        ∃ q, i = .copyTag x r d a b c q ∧ rs = [d, a, b, c, q] ∧ tag = some (k.nat q % 2 ^ 16) ∧ dsp = 2) →
      Issues s sid k i rs [] → AllClean k rs → EngineFree s sid k true r →
      k.nat b = n + dsp * 2 ^ 44 + ssp * 2 ^ 46 → n < 2 ^ 40 → dsp < 3 → ssp < 4 → ssp ≠ 1 →
      SideOk s k ssp (k.nat a) n needRd → SideOk s k dsp (k.nat d) n needWr → (ssp ≠ 0 ∨ dsp ≠ 0 → n % 64 = 0) →
      BarrierOk s k (k.nat c) →
      ∃ o, exec i s = .next (s.commanded sid k o) ∧ OpOf s sid k x r (k.nat c) o ∧ o.size = n ∧ o.sspace = ssp ∧
        o.dspace = dsp ∧ o.dims = [] ∧ o.sel = none ∧ o.cut = none ∧ o.tag = tag ∧
        o.src = (if ssp = 0 then resolve (segsOf s k.ctx k.core) (k.nat a) else k.nat a) ∧
        o.dst = (if dsp = 0 then resolve (segsOf s k.ctx k.core) (k.nat d) else k.nat d)) ∧
    (∀ d b c raw e, Issues s sid k (.copyT x r d a b c) [d, a, b, c] [] → AllClean k [d, a, b, c] →
      EngineFree s sid k true r → DescAt s sid k (k.nat b) raw → tensorDesc raw = some e → e.sspace ≠ 1 → e.dspace ≠ 3 →
      sideTrap s k e false (k.nat a) (if e.size = 0 then 0 else reachLo false e.dims)
        (if e.size = 0 then 0 else reachHi false e.esize e.dims) = none →
      sideTrap s k e true (k.nat d) (if e.size = 0 then 0 else reachLo true e.dims)
        (if e.size = 0 then 0 else reachHi true e.esize e.dims) = none →
      BarrierOk s k (k.nat c) → k.nat a % e.esize = 0 → k.nat d % e.esize = 0 →
      (∀ m ∈ e.dims, m.sstride % e.esize = 0 ∧ m.dstride % e.esize = 0) →
      ∃ o, exec (.copyT x r d a b c) s = .next ((fillAddr s (clusterOf k.core) k.ctx
          (resolve (segsOf s k.ctx k.core) (k.nat b))).commanded sid k o) ∧ OpOf s sid k x r (k.nat c) o ∧ o.size = e.size ∧
        o.esize = e.esize ∧ o.dims = e.dims ∧ o.sspace = e.sspace ∧ o.dspace = e.dspace ∧ o.sel = none ∧ o.cut = none) ∧
    (∀ d b c, Issues s sid k (.copyT x r d a b c) [d, a, b, c] [] → AllClean k [d, a, b, c] →
      EngineFree s sid k true r → descRead s sid k (k.nat b) = .fail → BarrierOk s k (k.nat c) →
      ∃ o, exec (.copyT x r d a b c) s = .next (s.commanded sid k o) ∧ OpOf s sid k x r (k.nat c) o ∧ o.size = 0 ∧
        o.sel = none ∧ o.cut = some 2) ∧
    (∀ i kind raw, ((i = .selp x r a ∧ kind = 0) ∨ (i = .selk x r a ∧ kind = 1) ∨ (i = .selr x r a ∧ kind = 2)) →
      Issues s sid k i [a] [] → AllClean k [a] → EngineFree s sid k false r → DescAt s sid k (k.nat a) raw →
      let d : SelDesc := ⟨kind, raw⟩
      Sel.ok d = true → isSpread (Sel.base d) = false → engineCheck s k (Sel.base d) (Sel.span d) needRd = true →
      engineCheck s k (Sel.out d) (Sel.outMax d) needWr = true → BarrierOk s k (Sel.barrier d) →
      Sel.base d % Sel.esize d = 0 → Sel.stride d % Sel.esize d = 0 →
      ∃ o, exec i s = .next (s.commanded sid k o) ∧ OpOf s sid k x r (Sel.barrier d) o ∧ o.sel = some d ∧ o.cut = none ∧
        o.src = resolve (segsOf s k.ctx k.core) (Sel.base d) ∧ o.dst = resolve (segsOf s k.ctx k.core) (Sel.out d))

/-- R189, R236, R303, R326: an `.after` command whose predecessors have ended joins its queue; the oldest queued command of
its engine or merger takes an operation place; an operation's probe of its barrier lets it begin, ends a marked one, or one after a
command that stopped, short at once, ends one after a command that frayed with code 9, and refuses a barrier of the wrong kind without
an arrival. That the end with code 9 has no log entry is the model's choice (log 49), and so is the end with its code of one whose
descriptor could not be read (log 50). R188, R302, R310, R319, R321: a clean arrival of an operation adds its count to a
count-mode barrier, after which its share returns, and one at another package is kept until its acknowledgment comes (R424); a request that meets a page which is to come parks, with the memory manager
asked for the page, and is made again when the page can be used. -/
def Obligations.EngineOperationsBegin : Prop :=
  (∀ (s : State) (op : Nat) (o : EngineOp), Tab.find s.ops op = some o →
    (o.state = .waiting → o.after = [] →
      exec (.afterPredecessorsEnded op) s = .next (s.putOp op { o with state := .queued })) ∧
    (o.state = .queued → s.ops = [(op, o)] →
      (o.sel = none → exec (.copyOperationStart op) s = .next (s.putOp op { o with state := .active })) ∧
      (o.sel ≠ none → exec (.selectionRequestStart op) s = .next (s.putOp op { o with state := .active }))) ∧
    (∀ l b, o.state = .active → o.mode = none → o.probe s = .ok l b →
      (o.stopping = false → o.worst = .complete → o.cut = none →
        exec (.engineBarrierProbe op) s = .next ((noteLoc (fillBar s o) o.ctx l 32).putOp op { o with mode := some b.mode, parked := [] })) ∧
      ((o.stopping = true ∨ o.worst = .short) → o.away = none →
        ∃ t, exec (.engineBarrierProbe op) s = .next t ∧ EndsWith s t op o 0 0 (some o.done)) ∧
      (o.stopping = false → o.worst = .frayed → o.away = none →
        ∃ t, exec (.engineBarrierProbe op) s = .next t ∧ EndsWith s t op o 0 9 none ∧ t.sys.frayLog = s.sys.frayLog) ∧
      (∀ c, o.stopping = false → o.worst = .complete → o.away = none → o.cut = some c → c ≠ 7 →
        ∃ t, exec (.engineBarrierProbe op) s = .next t ∧ EndsWith s t op o 0 c none)) ∧
    (∀ l c, o.state = .active → o.mode = none → o.probe s = .refused l c →
      ∃ t, exec (.engineBarrierProbe op) s = .next t ∧
        Tab.find t.flights s.nextId = some (.share o.ctx o.scope (2 ^ o.share) s.pkg) ∧
        (∃ e ∈ t.sys.frayLog, e.kind = 2 ∧ e.code = c ∧ e.ctx = o.ctx) ∧ t.mem = s.mem)) ∧
  (∀ (s : State),
    (∀ id a l b e, Tab.find s.flights id = some (.arrival a false) → arrivalFirst s id a.op = true →
      probeBar s a.ctx a.firm none a.ptr = .ok l b → b.mode = 0 → a.final = true → a.code = 0 → a.tainted = false →
      a.short = none → a.share = some e →
      let t := (afterTransition (noteLoc (s.delFlight id) a.ctx l 32) l.key (arriveRule b a.n none)).send
          (.share a.ctx a.scope (2 ^ e) s.pkg)
      exec (.engineArrival id) s = .next (if l.pkg = s.pkg then t else t.send (.arrived a l))) ∧
    (∀ op o u p, Tab.find s.ops op = some o → faultOf s o = some (u, p) → faultRoom s p = true →
      exec (.engineFaultPark op) s = .next (askRepair (s.putOp op { o with parked := o.parked ++ [(u, p)] }) o.ctx p)) ∧
    (∀ id a, Tab.find s.flights id = some (.atomic a true) → pathOpen s (replayLoc s a).pkg = true → atomicGone s a = false →
      atomicParks s { a with loc := replayLoc s a } = false →
      exec (.faultReplay id) s = .next (s.putFlight id (.atomic a false))) ∧
    (∀ id c, Tab.find s.flights id = some (.claim c) → c.stage = 5 → pathOpen s (replayLoc s c.claim).pkg = true →
      atomicGone s c.claim = false → atomicParks s { c.claim with loc := replayLoc s c.claim } = false →
      exec (.faultReplay id) s = .next (s.putFlight id (.claim { c with stage := 4 }))) ∧
    (∀ id o, Tab.find s.flights id = none → Tab.find s.ops id = some o →
      let still := o.parked.filter fun p => !pageSettled s p.2
      exec (.faultReplay id) s =
        .next (still.foldl (fun s p => askRepair s o.ctx p.2) (s.putOp id { o with parked := still }))))

/-- R305, R312 to R314: a copy at work writes a unit's bytes to their places and moves its done offset over chunks wholly
written; a copy that has written everything ends with a clean arrival of 1, one that meets a failure with the failure's code,
one whose path has died with code 3 where it stands (R311, R423),
and a marked one short, with its done offset, once no chunk that it has begun below the boundary is left. The units of 256
bytes are the model's choice (log 25). -/
def Obligations.CopiesMoveBytesAndEnd : Prop :=
  ∀ (s : State) (op : Nat) (o : EngineOp), Tab.find s.ops op = some o → o.state = .active → o.mode ≠ none → o.sel = none →
    o.away = none →
    (∀ c, o.cut = some c → c ≠ 7 → ∃ t, exec (.copyFail op) s = .next t ∧ EndsWith s t op o 0 c none ∧ t.mem = s.mem) ∧
    (∀ u src dst sk dk n, o.cut = none → readyUnits s o = [u] → unitWay s o u = .go src dst → RunAt src sk n → RunAt dst dk n → 0 < n →
      s.sync.monitors = [] → o.dspace ≠ 2 →
      let d := advanceDone o.size (u :: o.written) 17 o.done
      (d ≠ o.size →
        ∃ t o', exec (.copyProgress op) s = .next t ∧ t.mem = s.mem.writeBytes dk (s.mem.readBytes sk n) ∧
          Tab.find t.ops op = some o' ∧ o'.done = d ∧ t.strands = s.strands) ∧
      (d = o.size → o.done ≠ o.size → lineHeld s (fun _ => true) dk n = false →
        ∃ t, exec (.copyComplete op) s = .next t ∧ t.mem = s.mem.writeBytes dk (s.mem.readBytes sk n) ∧
          EndsWith s t op { o with done := o.size } 1 0 none)) ∧
    (o.cut = none → o.done = o.size → ∃ t, exec (.copyComplete op) s = .next t ∧ EndsWith s t op o 1 0 none) ∧
    (∀ u c, o.cut = none → firstBad s o (openUnits o) = some (u, c) → u / 16 * 4096 = o.done → c ≠ 7 →
      ∃ t, exec (.copyFail op) s = .next t ∧ EndsWith s t op o 0 c none ∧ t.mem = s.mem) ∧
    (∀ chunks, o.cut = none → o.stopping = true → o.done ≠ o.size → openUnits o = [] → beyondUnits o chunks = [] →
      ∃ t, exec (.copyStop op chunks) s = .next t ∧ EndsWith s t op o 0 0 (some o.done) ∧ t.mem = s.mem)

/-- R326, R336 to R341: a selection's engine reads the elements of a piece; its partial result arrives when the stack has no
more; the merged output is written with the final arrival, an unresolvable fault ends it with its code, and a marked request
stops before its first write. R333, R334: the output of a `SELK` without poison is a header with the number of records and
those of the k best elements present, in rank order: each ranks before the next, and before every element left out. -/
def Obligations.SelectionsScanAndEnd : Prop :=
  (∀ (s : State) (op : Nat) (o : EngineOp) (d : SelDesc),
    Tab.find s.ops op = some o → o.sel = some d → o.state = .active → o.mode ≠ none → o.away = none →
    (∀ stack i l, stack < 8 → nextPiece s o d stack = [i] → dieTurn s stack (dieOf o.core) = true → elementAt s o d i = .at l →
      CleanRange s l (Sel.esize d) → l.pkg = s.pkg →
      ∃ t o', exec (.selectionPieceScan op stack) s = .next t ∧ Tab.find t.ops op = some o' ∧
        o'.written = i :: o.written ∧ stack ∈ o'.engaged ∧ stack ∉ o'.arrived ∧ o'.bad = o.bad ∧ t.mem = s.mem ∧
        o'.found = (if d.kind = 0 ∧ Sel.selects d (numberAt s l.key (Sel.esize d)) = false then o.found
          else (i, numberAt s l.key (Sel.esize d)) :: o.found)) ∧
    (∀ stack, stack < 8 → stack ∈ o.engaged → stack ∉ o.arrived → (∀ i ∈ unread o d, stackAt s o d i ≠ some stack) →
      exec (.selectionPartialArrival op stack) s = .next (s.putOp op { o with arrived := stack :: o.arrived })) ∧
    (∀ a dst dk, o.stopping = false → selectFault s o d = none → unread o d = [] → (∀ x ∈ o.engaged, x ∈ o.arrived) → s.sync.monitors = [] →
      lineHeld s (fun _ => true) dk (Sel.output d o.found o.bad.length).length = false →
      outWay s o (Sel.output d o.found o.bad.length).length = .go a dst →
      RunAt dst dk (Sel.output d o.found o.bad.length).length →
      ∃ t, exec (.selectionOutputWrite op) s = .next t ∧
        t.mem = s.mem.writeBytes dk (Sel.output d o.found o.bad.length) ∧
        EndsWith s t op { o with done := (Sel.output d o.found o.bad.length).length }
          1 (if o.bad ≠ [] ∧ Sel.skip d = false then 7 else 0) none) ∧
    (∀ c, selectFault s o d = some c →
      ∃ t, exec (.selectionFail op) s = .next t ∧ EndsWith s t op { o with done := 0 } (if c = 7 then 1 else 0) c none) ∧
    (o.stopping = true →
      ∃ t, exec (.selectionStop op) s = .next t ∧ EndsWith s t op { o with done := 0 } 0 0 (some 0) ∧ t.mem = s.mem)) ∧
  (∀ (d : SelDesc) (found : List (Nat × Nat)), d.kind = 1 → (found.map (·.1)).Nodup →
    ∃ ps, Sel.output d found 0 = Sel.header ps.length 0 (if ps = [] then 1 else 0) ++ ps.flatMap (Sel.record d) ∧
      ps.length = Nat.min (Sel.k d) found.length ∧ ps.Nodup ∧ (∀ p ∈ ps, p ∈ found) ∧
      ps.Pairwise (fun p q => Sel.better d p q = true) ∧ ∀ p ∈ ps, ∀ q ∈ found, q ∉ ps → Sel.better d p q = true)

/-! ### System words, traps, launches -/

/-- R91, R92: a trap in a kernel with a usable entry changes of the whole machine only its strand, which continues at the
entry with the cause in st.EC and the address of its unit's first word in ep. -/
def Obligations.TrapEntry : Prop :=
  ∀ (s : State) (sid cause : Nat) (k : Strand), ∀ entry, Tab.find s.strands sid = some k → trapEntry s k = some entry →
    fetchSegOk (segsOf s k.ctx k.core) entry = true →
    ∃ k', trap s sid cause = s.putStrand sid k' ∧ k'.pc = entry ∧
      k'.st = { k.st with ec := BitVec.ofNat 8 cause } ∧
      (∀ r, k.run = some r → k'.ep = r.first) ∧ (k.run = none → k'.ep = k.pc) ∧
      k'.regs = k.regs ∧ k'.vregs = k.vregs ∧ k'.masks = k.masks ∧ k'.sc = k.sc ∧ k'.share = k.share ∧
      k'.phase = k.phase ∧ k'.run = none ∧ k'.pair = [] ∧ k'.mail = k.mail ∧ k'.opened = k.opened

/-- R93: without a usable entry the trap is observed as a fray with code 8 after st.EC and ep are written; a shielded strand
goes on with its next instruction. R80, R81, R120, R121: `TRAP` and `BKPT` take their traps with causes 0x08 and 0x09; a word
that is no instruction traps with cause 0x01 and a fetch that fails its segment check with cause 0x02; a poisoned fetch is
observed as a fray. R122 to R125: `NOP` only advances; `TIME` reads the package time base in nanoseconds; `SNAP` raises the
snapshot trigger with its right and traps without it; `CTLR` reads the control register of Table 05-7; `CTLW` writes ep, st.EC
or st.FF and traps on any other number. The relation of the time base to the cycle count is the model's choice (log 15), and so are that the number decides before a frayed
source of `CTLW` is observed (log 51), that the entry's segment is checked as a trap is delivered (log 80), and that the window a
snapshot holds is the state latched (log 26). -/
def Obligations.SystemInstructions : Prop :=
  (∀ (s : State) (sid cause : Nat) (k : Strand), Tab.find s.strands sid = some k →
    (∀ entry, trapEntry s k = some entry → fetchSegOk (segsOf s k.ctx k.core) entry = false) → k.phase = .running → 0 < k.st.sd →
    ∃ t k', trap s sid cause = t ∧ Tab.find t.strands sid = some k' ∧ k'.st.t = true ∧ k'.st.fc = 8 ∧
      k'.st.ec = BitVec.ofNat 8 cause ∧ k'.ep = k.unitPc ∧ k'.pc = k.advance.pc ∧ k'.regs = k.regs ∧ k'.phase = .running) ∧
  (∀ (s : State) (sid : Nat) (k : Strand),
    (∀ n, Issues s sid k (.trap n) [] [] → exec (.trap n) s = .next (trap s sid 0x08)) ∧
    (∀ n, Issues s sid k (.bkpt n) [] [] → exec (.bkpt n) s = .next (trap s sid 0x09)) ∧
    (s.cur = some sid →
      exec .illegalInstruction s = .next (trap s sid 0x01) ∧
      exec .targetFetchSegmentTrap s = .next (trap s sid 0x02) ∧
      ∀ c, exec (.poisonedInstructionFetch c) s = .next (observeFray s sid (BitVec.ofNat 4 c)))) ∧
  (∀ (s : State) (sid : Nat) (k : Strand),
    (Issues s sid k .nop [] [] → exec .nop s = .next (s.putStrand sid k.advance)) ∧
    (∀ d, Issues s sid k (.time d) [] [d] →
      exec (.time d) s = .next (s.putStrand sid (k.writeG d (BitVec.ofNat 64 (s.cycle * 2 / 5))).advance)) ∧
    (∀ c, Issues s sid k .snap [] [] → Tab.find s.ctxs k.ctx = some c →
      (c.rights / 2 % 2 = 0 → exec .snap s = .next (trap s sid 0x0B)) ∧
      (c.rights / 2 % 2 = 1 → s.sys.powerFail = true → s.sys.snapHeld = false → exec .snap s = .next (s.putStrand sid k.advance)) ∧
      (c.rights / 2 % 2 = 1 → (s.sys.powerFail = false ∨ s.sys.snapHeld = true) →
        exec .snap s = .next (({ s with sys := if s.sys.snapHeld
          then { s.sys with snapOverrun := (s.sys.snapOverrun + 1) % 2 ^ 32 }
          else { s.sys with snapHeld := true, window := some (latched s) } }).putStrand sid k.advance))) ∧
    (∀ d, Issues s sid k (.ctlr d 1) [] [d] → flagsPending s sid k = false →
      let st := { k.st with x := inExtension s (scopeKey k.ctx k.sc) }
      exec (.ctlr d 1) s = .next (s.putStrand sid ((k.setSt st).writeG d (BitVec.ofNat 64 st.toNat)).advance)) ∧
    (∀ d n, Issues s sid k (.ctlr d n) [] [d] → n ≠ 1 → (n = 6 → flagsPending s sid k = false) →
      exec (.ctlr d n) s = .next (s.putStrand sid (k.writeG d (BitVec.ofNat 64 (match n with
        | 0 => k.pc
        | 2 => k.sc % 2 ^ 32
        | 3 => k.ep
        | 4 => k.share % 32
        | 5 => k.st.ec.toNat
        | 6 => k.st.ff.toNat
        | 7 => k.vcount
        | 8 => Config.capFrame.toNat
        | 9 => (trapEntry s k).getD 0
        | n =>
          if n < 0x20 then (segsOf s k.ctx k.core).getD ((n - 0x10) / 2) 0 / 2 ^ (64 * (n % 2)) % 2 ^ 64
          else if n < 0x30 then (boundOf s k.core (n - 0x20)).high * 2 ^ 32 + (boundOf s k.core (n - 0x20)).low
          else (boundOf s k.core (n - 0x30)).tag * 2 ^ 32 + (boundOf s k.core (n - 0x30)).mode))).advance)) ∧
    (∀ a n, Issues s sid k (.ctlw a n) [a] [] →
      (n ≠ 3 → n ≠ 5 → n ≠ 6 → exec (.ctlw a n) s = .next (trap s sid 0x0B)) ∧
      (AllClean k [a] →
        (n = 3 → exec (.ctlw a n) s = .next (s.putStrand sid { k with ep := k.nat a / 4 * 4 }.advance)) ∧
        (n = 5 → exec (.ctlw a n) s =
          .next (s.putStrand sid (k.setSt { k.st with ec := (k.val a).setWidth 8 }).advance)) ∧
        (n = 6 → flagsPending s sid k = false → exec (.ctlw a n) s =
          .next (s.putStrand sid (k.setSt { k.st with ff := (k.val a).setWidth 5 }).advance)))))

/-- R83, R88, R89: a hint word joins the run of its unit, whose first word's address it keeps; a second of its kind traps; a P
word whose entries pass their checks leaves them both to be executed at its address; one with an index past the dictionary traps with
cause 0x01. That such an index traps before any other failure is the model's choice (log 76), and so is what a `HINT.MOD` of zeros
means (log 45). -/
def Obligations.HintsAndPairs : Prop :=
  ∀ (s : State) (sid : Nat) (k : Strand), s.cur = some sid → Tab.find s.strands sid = some k →
    (∀ i f run, ((∃ x, i = .hintImm x ∧ f = (fun r : Run => { r with imm := some x }) ∧ run.imm = none) ∨
        (∃ l, i = .hintLat l ∧ f = (fun r : Run => { r with lat := some l }) ∧ run.lat = none) ∨
        ∃ sat p r, i = .hintMod sat p r ∧ f = (fun x : Run => { x with mod := some (256 * sat + 8 * p + r) }) ∧ run.mod = none) →
      (k.run = some run ∨ (k.run = none ∧ run = ⟨k.pc, none, none, none⟩)) → (fits i && legalWith none i) = true →
      exec i s = .next (s.putStrand sid { k with run := some (f run), pc := (k.pc + 4) % 2 ^ 64, stall := .none })) ∧
    (∀ r, k.run = some r →
      (∀ x, r.imm ≠ none → exec (.hintImm x) s = .next (trap s sid 0x01)) ∧
      (∀ n, r.lat ≠ none → exec (.hintLat n) s = .next (trap s sid 0x01)) ∧
      (∀ sat p x, r.mod ≠ none → exec (.hintMod sat p x) s = .next (trap s sid 0x01))) ∧
    (∀ i j x w0 w1, Issues s sid k (.pair i j) [] [] → kernelOf s k = some x → i < x.dict.length → j < x.dict.length →
      dictReady s k i = true → dictReady s k j = true → Unharmed s →
      w0 = numberAt s (scratchKey k.ctx (s.pkg * 2 ^ 28 + homeCore s k.ctx k.core * 2 ^ 16 + 0xF000 + 4 * i)) 4 →
      w1 = numberAt s (scratchKey k.ctx (s.pkg * 2 ^ 28 + homeCore s k.ctx k.core * 2 ^ 16 + 0xF000 + 4 * j)) 4 →
      entryTrap k w0 = none → entryTrap k w1 = none → secondMajor w1 = true → secondWaits k w0 w1 = none →
      vecPending s sid (secondVregs w1) = false →
      exec (.pair i j) s = .next (s.putStrand sid { k with pair := [w0, w1], stall := .none })) ∧
    (∀ i j x, Issues s sid k (.pair i j) [] [] → kernelOf s k = some x → (x.dict.length ≤ i ∨ x.dict.length ≤ j) →
      exec (.pair i j) s = .next (trap s sid 0x01))

/-- R401, R405: `KLAUNCH` of a launchable kernel with a well-formed block in its own die makes the launch that the block
describes and returns the new kernel root's handle; a launch of one record makes an open root of 2^32 - 2^24 units below the
context root, a running kernel, and the record on the first core of the context's first quad. Which index and which core the
launch takes is the model's choice (log 53). -/
def Obligations.KlaunchLaunches : Prop :=
  ∀ (s : State) (sid : Nat) (k : Strand) (d a b : Nat) (l : Loc) (h : Nat) (s1 : State) (raw : Nat),
    (Issues s sid k (.klaunch d a b) [a, b] [d] → AllClean k [a, b] → LocalAt s sid k (k.nat b) 64 64 1 l → CleanRange s l 64 →
      homeServes s (dieOf k.core) l 64 = true → raw = numberAt s l.key 64 →
      launchable s k.ctx (k.nat a % 2 ^ 32) = true → blockTrap s k raw = none → releaseReady s sid k 3 = true →
      launch s k.ctx (k.nat a % 2 ^ 32) (raw / 2 ^ 256 % 2 ^ 16)
        ((List.range 4).map fun j => BitVec.ofNat 64 (raw / 2 ^ (64 * j) % 2 ^ 64))
        ⟨k.nat a % 2 ^ 32, none,
          if raw / 2 ^ 320 % 2 ^ 64 = 0 then none else some (resolve (segsOf s k.ctx k.core) (raw / 2 ^ 320 % 2 ^ 64)),
          if raw / 2 ^ 384 % 2 ^ 64 = 0 then none else some (resolve (segsOf s k.ctx k.core) (raw / 2 ^ 384 % 2 ^ 64))⟩ = some (h, s1) →
      exec (.klaunch d a b) s = .next (s1.putStrand sid (k.writeG d (BitVec.ofNat 64 h)).advance)) ∧
    (∀ ctx kernel args info c x key p ix q rest, launch s ctx kernel 1 args info = some (h, s1) →
      Tab.find s.ctxs ctx = some c → Tab.find s.kernels (ctx * 2 ^ 32 + kernel) = some x → takeIndex s ctx 8 0 = some key →
      findScope s ctx c.root = some p → p.state = .open → p.result = .ok → quadsOf c = q :: rest →
      freeTicket s ctx (dieOf (q * 4)) = some ix →
      h = handleAt s key ∧ Tab.find s1.launches key = some info ∧
        (∃ r, Tab.find s1.groups.scopes key = some r ∧ r.units = 2 ^ 32 - 2 ^ 24 ∧ r.parent = c.root ∧ r.root = true ∧
          r.state = .open ∧ r.result = .ok) ∧
        Tab.find s1.kernels (ctx * 2 ^ 32 + kernel) =
          some { x with state := .running, roots := x.roots ++ [h], launches := x.launches + 1 } ∧
        Tab.find s1.groups.spools (ctx * 4096 + q * 4) = some (Tab.get s.groups.spools (ctx * 4096 + q * 4) [] ++ [{
          entry := x.image + 4 * x.entry, args := args, frays := [none, none, none, none]
          ticket := ticketValue s (ctx * 2 ^ 22 + dieOf (q * 4) * 2 ^ 19 + ix), scope := h, share := 24, kernel := kernel }]) ∧
        s1.mem = s.mem ∧ s1.strands = s.strands)

/-! ### Scratchpads, memory, pages -/

/-- R30, R31, R33, R34: a bank enters retention, is retained, leaves and is ready again, its content unchanged; the contents
of a claimed region are saved, and the claimant's own restored after them, once the banks are out of retention; a request to another core's scratchpad is performed
at its home. That a region's bytes stay where they are named is the model's choice (log 23). -/
def Obligations.ScratchpadEvents : Prop :=
  ∀ (s : State),
    (∀ core bank, core < 4096 → bank < 16 →
      (Tab.find s.prot.banks (core * 16 + bank) = none → bankIdle s core bank = true →
        exec (.bankRetentionEntry core bank) s = .next { s with
        prot := { s.prot with banks := Tab.put s.prot.banks (core * 16 + bank) .entering } }) ∧
      (Tab.find s.prot.banks (core * 16 + bank) = some .retained → exec (.bankRetentionExit core bank) s = .next { s with
        prot := { s.prot with banks := Tab.put s.prot.banks (core * 16 + bank) .leaving } }) ∧
      (Tab.find s.prot.banks (core * 16 + bank) = some .entering → exec (.retentionTransitionDone core bank) s = .next { s with
        prot := { s.prot with banks := Tab.put s.prot.banks (core * 16 + bank) .retained } }) ∧
      (Tab.find s.prot.banks (core * 16 + bank) = some .leaving → exec (.retentionTransitionDone core bank) s = .next { s with
        prot := { s.prot with banks := Tab.del s.prot.banks (core * 16 + bank) } })) ∧
    (∀ n r old img, Tab.find s.prot.regions n = some r → r.saving = some old → r.owner = some img → regionAwake s n = true →
      ∃ t r', exec (.regionSaveDone n) s = .next t ∧ Tab.find t.prot.regions n = some r' ∧ r'.saving = none ∧
        r'.owner = some img ∧ old ∈ r'.saved ∧ (img ∈ r.saved → r'.restoring = some img) ∧ t.mem = s.mem) ∧
    (∀ n r img, Tab.find s.prot.regions n = some r → r.saving = none → r.restoring = some img → regionAwake s n = true →
      exec (.regionRestoreDone n) s = .next { s with
        prot := { s.prot with regions := Tab.put s.prot.regions n { r with restoring := none } } }) ∧
    (∀ id sid gen w, Tab.find s.flights id = some (.remoteStore sid gen w none) → requestFirst s id sid s.pkg = true →
      requestReady s w.key w.bytes.length = true → requestLanded s sid w.key = true → scratchBase ≤ w.key → w.key < bufferBase →
      keyPackage s w.key = s.pkg → w.poison = none → s.sync.monitors = [] →
      ∃ t, exec (.remoteScratchpadRequest id) s = .next t ∧ t.mem = s.mem.writeBytes w.key w.bytes ∧
        t.flights = Tab.del s.flights id ∧ t.strands = s.strands) ∧
    (∀ id sid gen key r n sgn v due, Tab.find s.flights id = some (.remoteLoad sid gen key [(r, n, sgn)] v due) →
      requestFirst s id sid s.pkg = true → requestReady s key n = true → requestLanded s sid key = true → scratchBase ≤ key →
      keyPackage s key = s.pkg → Unharmed s →
      ∃ t, exec (.remoteScratchpadRequest id) s = .next t ∧ t.mem = s.mem ∧
        Tab.find t.flights s.nextId = some (.loadRet sid gen [⟨r, if sgn then
          BitVec.ofInt 64 (BitVec.ofNat (8 * n) (numberAt s key n)).toInt else BitVec.ofNat 64 (numberAt s key n), false, 0⟩] due))

/-- R223, R225, R364, R365: a stamped write is applied when its die has applied all that its stamp covers; the invalidation that goes
with it to the other dies takes the lines that it meets from their caches, and a write at its home those of the home's die; a link's retry
succeeds or counts, and after 64 failures the fault is recorded with its link and the package is held for reset; a row in
which an uncorrectable sector has been found, or 16 corrected errors, is remapped to its spare, and then journalled, and a
full CAM refuses and has its pages retired; a scrub pass corrects correctable damage and counts it, and writes poison with
code 1 over the rest. Which numbers the links have (log 75), that a retry succeeds by the choice number (log 16) and the
journal's value for a row (log 32, log 24) are the model's choice. -/
def Obligations.MemorySystemEvents : Prop :=
  ∀ (s : State),
    (∀ id src dst sid vec w, Tab.find s.flights id = some (.stamped src dst sid vec w) →
      mayApply (appliedOf s dst) src vec = true →
      (w.bytes ≠ [] → writeReady s w = true → w.poison = none → s.sync.monitors = [] →
        ∃ t, exec (.crossDieWriteApply id) s = .next t ∧ t.mem = s.mem.writeBytes w.key w.bytes ∧
          (lineHeld s (fun _ => true) w.key w.bytes.length = false →
            t.flights = Tab.del s.flights id ∧ appliedOf t dst = (appliedOf s dst).set src (vec.getD src 0))) ∧
      (w.bytes = [] →
        ∃ t, exec (.crossDieWriteApply id) s = .next t ∧ t.mem = s.mem ∧ t.flights = Tab.del s.flights id ∧
          appliedOf t dst = (appliedOf s dst).set src (vec.getD src 0) ∧ lineHeld t (fun c => c / 16 == dst) w.key 256 = false)) ∧
    (∀ w, w.key < scratchBase →
      lineHeld (writeAt s w) (fun c => c / 16 == stackOf w.key (swizzleOf s w.key)) w.key w.bytes.length = false) ∧
    (∀ link, link < 7 → Tab.get s.links.d2d link 0 < 64 → exec (.d2dFlitRetry link) s = .next { s with links := { s.links with
      d2d := if s.pick % 2 = 0 then Tab.del s.links.d2d link else Tab.put s.links.d2d link (Tab.get s.links.d2d link 0 + 1) } }) ∧
    (∀ link, link < 7 → 64 ≤ Tab.get s.links.d2d link 0 → exec (.packageFault link) s =
      .next { s with sys := { s.sys with packageFault := true, faultLink := some link } }) ∧
    (∀ controller row spare, controller < 64 → row < 2 ^ 25 → rowDue s (controller * 2 ^ 25 + row) = true →
      Tab.find s.prot.remap (controller * 2 ^ 25 + row) = none →
      ((s.prot.remap.filter fun p => p.1 / 2 ^ 25 == controller).any fun p => p.2 == spare) = false →
      ((s.prot.remap.filter fun p => p.1 / 2 ^ 25 == controller).length < 1024 →
        exec (.rowRemap controller row spare) s = .next { s with prot := { s.prot with
          remap := Tab.put s.prot.remap (controller * 2 ^ 25 + row) spare
          remapping := (controller * 2 ^ 25 + row) :: s.prot.remapping } }) ∧
      (1024 ≤ (s.prot.remap.filter fun p => p.1 / 2 ^ 25 == controller).length →
        ∃ t, exec (.rowRemap controller row spare) s = .next t ∧ t.prot = s.prot ∧ t.mem = s.mem ∧
          ∀ p ∈ pagesOfRow s controller row, p ∈ t.xlat.retire)) ∧
    (∀ controller row, controller * 2 ^ 25 + row ∈ s.prot.remapping → s.prot.damage = [] →
      ∃ t, exec (.rowRemapDone controller row) s = .next t ∧
        t.prot.remapping = s.prot.remapping.erase (controller * 2 ^ 25 + row) ∧ t.mem = s.mem ∧
        t.sys.staged = s.sys.staged ++
          [(1, (controller * 2 ^ 25 + row) * 2 ^ 25 + Tab.get s.prot.remap (controller * 2 ^ 25 + row) 0)]) ∧
    (∀ u d i, s.prot.damage = [(u, d)] →
      (∃ st, i = .hbmScrubPass st ∧ stackOf u (swizzleOf s u) = st ∧ ownHbm s u = true) ∨
        (∃ die, i = .sramScrubPass die ∧ sramDie s u = some die ∧ bankAwake s u = true ∧ s.prot.arrays = [] ∧
          ∀ p ∈ s.strands, p.2.errs = []) →
      ∃ t, exec i s = .next t ∧ t.prot.damage = [] ∧
        (d = .correctable → t.prot.corrected = s.prot.corrected + 1 ∧ t.mem = s.mem) ∧
        (d ≠ .correctable → Tab.find t.prot.poison u = some 1))
/-! ### Pages -/

/-- R373, R374: a walk that finds a usable page with the rights fills the cluster's TLB and the access issues again, one that
finds a page to come leaves the strand faulted-out, with the memory manager asked for one that is absent or spilled, and one that finds no page or no
right is observed as a fray with code 2; the repair's wake lets the strand run, and is spilled while it is switched out
(R389). R372, R373, R378: a fault request begins a repair, whose end makes the page resident in its frame, zero-filled where
it was never present, with the strands that wait for it sent their wakes; a migrating page's bytes move to their new frame,
a word that cannot be corrected as poison with code 1 (R32), and so do the waiters recorded at its barriers (R192) where no other page
has its frame; a cold page is spilled to storage with its bytes; advice reaches its
page. -/
def Obligations.PageLife : Prop :=
  (∀ (s : State) (sid va need : Nat) (k : Strand), Tab.find s.strands sid = some k → k.out = false → k.phase = .running →
    (k.stall = .walk va need →
      (∀ key p, findPage s k.ctx va = some (key, p) → leafRights p.leaf need = true →
        (leafState p.leaf = 1 ∨ leafState p.leaf = 4 ∨ leafState p.leaf = 5 →
          ∃ t k', exec (.pageWalk sid) s = .next t ∧ Tab.find t.strands sid = some k' ∧ k'.stall = .none ∧ k'.phase = .running ∧
            k'.regs = k.regs ∧ t.mem = s.mem ∧
            ∃ e, e ∈ Tab.get t.xlat.tlb (clusterOf k.core) [] ∧ e.ctx = pageCtx key ∧ e.va = pageVa key ∧
              (e.leaf = p.leaf ∨ e.leaf = p.leaf + 2 ^ 52)) ∧
        (leafState p.leaf = 0 ∨ leafState p.leaf = 2 ∨ leafState p.leaf = 3 →
          ∃ t k', exec (.pageWalk sid) s = .next t ∧ Tab.find t.strands sid = some k' ∧ k'.phase = .faultedOut key ∧
            k'.regs = k.regs ∧ t.mem = s.mem ∧
            (leafState p.leaf ≠ 2 → Tab.find s.xlat.pages key = some p → key ∉ s.xlat.repairs →
              (∀ f ∈ s.flights, ∀ c, f.2 ≠ .faultReq c key) → Tab.find t.flights s.nextId = some (.faultReq k.ctx key)))) ∧
      ((findPage s k.ctx va = none ∨ ∃ key p, findPage s k.ctx va = some (key, p) ∧ leafRights p.leaf need = false) →
        exec (.pageWalk sid) s = .next (observeFray (abandonWaita (s.putStrand sid { k with stall := .none }) sid) sid 2))) ∧
    (∀ id key gen j x, Tab.find s.flights id = some (.repairWake j gen) → Tab.find s.strands j = some x →
      x.phase = .faultedOut key → x.gen = gen →
      (x.out = false → ∃ t, exec (.repairWake id) s = .next t ∧ Tab.find t.strands j = some { x with phase := .running }) ∧
      (x.out = true → ∃ t, exec (.repairWake id) s = .next t ∧ t.strands = s.strands ∧ t.flights = Tab.del s.flights id ∧
        Tab.find t.groups.spill (x.ctx * 8 + x.entry / 4096) =
          some (Tab.get s.groups.spill (x.ctx * 8 + x.entry / 4096) [] ++ [(j, .repair gen)])))) ∧
  (∀ (s : State) (ctx va key : Nat) (p : Page),
    (∀ id, Tab.find s.flights id = some (.faultReq ctx key) → Tab.find s.xlat.pages key = some p →
      (leafState p.leaf = 0 ∨ leafState p.leaf = 3) → key ∉ s.xlat.repairs →
      exec (.pageFaultRequest id) s =
        .next { s with flights := Tab.del s.flights id, xlat := { s.xlat with repairs := key :: s.xlat.repairs } }) ∧
    (∀ frame, findPage s ctx va = some (key, p) → key ∈ s.xlat.repairs → leafState p.leaf = 0 →
      frameOk s frame (leafSize p.leaf) (leafPkg p.leaf) (leafSwz p.leaf) = true → s.mem.wf = true →
      ∃ t q, exec (.pageRepairDone ctx va frame) s = .next t ∧ Tab.find t.xlat.pages key = some q ∧
        q.leaf = withFrame (withState p.leaf 1) frame ∧
        (∀ j x, Tab.find s.strands j = some x → x.phase = .faultedOut key →
          ∃ id, Tab.find t.flights id = some (.repairWake j x.gen)) ∧
        (∀ x, t.mem.read x = if frame ≤ x ∧ x < frame + leafSize p.leaf then 0 else s.mem.read x)) ∧
    (∀ frame, findPage s ctx va = some (key, p) → (leafState p.leaf = 1 ∨ leafState p.leaf = 5 ∧ key ∈ s.xlat.retire) →
      frameOk s frame (leafSize p.leaf) (frame / 2 ^ 39) (leafSwz p.leaf) = true → shooting s ctx (pageVa key) = false →
      ∃ t q, exec (.pageMigrationStart ctx va frame) s = .next t ∧ Tab.find t.xlat.pages key = some q ∧
        q.leaf = withState p.leaf 2 ∧ q.former = leafState p.leaf ∧ q.target = frame ∧ t.mem = s.mem) ∧
    (findPage s ctx va = some (key, p) → leafState p.leaf = 2 → shooting s ctx (pageVa key) = false → s.mem.wf = true →
      (leafFrame p.leaf + leafSize p.leaf ≤ p.target ∨ p.target + leafSize p.leaf ≤ leafFrame p.leaf) →
      ∃ t q, exec (.pageMigrationCopyEnd ctx va) s = .next t ∧ Tab.find t.xlat.pages key = some q ∧
        q.leaf = withFrame (withState p.leaf p.former) p.target ∧
        (s.prot.damage = [] → ∀ j, j < leafSize p.leaf → t.mem.read (p.target + j) = s.mem.read (leafFrame p.leaf + j)) ∧
        (∀ u, s.prot.damage = [(u, .uncorrectable)] → leafFrame p.leaf ≤ u → u < leafFrame p.leaf + leafSize p.leaf →
          Tab.find t.prot.poison (u - leafFrame p.leaf + p.target) = some 1) ∧
        ∀ j ws, j < leafSize p.leaf → leafValid p.leaf = true → sharesFrame s key p.leaf = false → (p.former = 1 ∨ p.former = 5) →
          p.target % leafSize p.leaf = 0 → p.target < 2 ^ 52 → s.sync.waiters = [(leafFrame p.leaf + j, ws)] →
          t.sync.waiters = [(p.target + j, ws)]) ∧
    (findPage s ctx va = some (key, p) → leafState p.leaf = 1 → p.cold = true → oldHeld s p.leaf = false →
      shooting s ctx (pageVa key) = false → s.mem.wf = true → s.prot.damage = [] →
      ∃ t q, exec (.pageSpill ctx va) s = .next t ∧ Tab.find t.xlat.pages key = some q ∧
        q.leaf = withFrame (withState p.leaf 3) (leafPkg p.leaf * 2 ^ 39) ∧
        ∀ j, j < leafSize p.leaf → t.mem.read (storageKey ctx (pageVa key) + j) = s.mem.read (leafFrame p.leaf + j)) ∧
    (∀ id frame, Tab.find s.flights id = some (.advice ctx key 2) → Tab.find s.xlat.pages key = some p → leafValid p.leaf = true →
      leafState p.leaf = 1 →
      ∃ t, exec (.pageAdviceEvent id frame) s = .next t ∧ t.flights = Tab.del s.flights id ∧
        Tab.find t.xlat.pages key = some { p with cold := true } ∧ t.mem = s.mem))

/-- R376: a shootdown writes a leaf that takes away rights, changes the swizzle or unmaps the page, takes the page out of
every TLB and fetch buffer of its context, and completes once no access holds the old leaf; `MAP` of a page that has no leaf,
and `LEAF`, are answered at once, and a `MAP` met while another's shootdowns are in progress stays its core's next command (R440). That a
swizzle is refused where its frame would share sectors is R368. -/
def Obligations.ShootdownsAndMapping : Prop :=
  ∀ (s : State),
    (∀ ctx va leaf key p, findPage s ctx va = some (key, p) → p.leaf / 2 ^ 52 % 2 = 1 → leaf + 2 ^ 52 = p.leaf →
      exec (.shootdown ctx va leaf) s =
        .next { s with xlat := { s.xlat with pages := Tab.put s.xlat.pages key { p with leaf := leaf } } }) ∧
    (∀ ctx va leaf key p, findPage s ctx va = some (key, p) → leaf + 2 ^ 52 ≠ p.leaf → narrows p.leaf leaf = true →
      leafWellFormed leaf (pageVa key) = true → leafState p.leaf ≠ 2 → shooting s ctx (pageVa key) = false →
      swizzlesOk s key leaf = true →
      ∃ t, exec (.shootdown ctx va leaf) s = .next t ∧ Tab.find t.xlat.pages key = some { p with leaf := leaf } ∧
        (∀ c e, e ∈ Tab.get t.xlat.tlb c [] → e.ctx = ctx →
          ¬ (e.va < pageVa key + leafSize p.leaf ∧ pageVa key < e.va + leafSize e.leaf)) ∧
        (∀ sid k, Tab.find t.strands sid = some k → k.ctx = ctx → k.ibuf = []) ∧
        t.xlat.shootdowns = s.xlat.shootdowns ++ [⟨ctx, pageVa key, p.leaf, none⟩] ∧ t.mem = s.mem) ∧
    (∀ x, s.xlat.shootdowns = [x] → oldHeld s x.old = false →
      ∃ t, exec (.shootdownComplete x.ctx x.va) s = .next t ∧ t.xlat.shootdowns = [] ∧ t.mem = s.mem ∧
        (∀ tag, x.tag = some tag → Tab.find t.sys.mailboxes 3 = some ⟨tag % 2 ^ 16, 0, 0⟩)) ∧
    (firmwareUp s = true → managerBusy s = false → ∀ tag ctx va leaf, Tab.has s.ctxs ctx = true →
      (va < 2 ^ 61 → leafWellFormed leaf va = true → leafValid leaf = true → swizzlesOk s (pageKey ctx va) leaf = true → overlapping s ctx va (leafSize leaf) = [] →
        ∃ t p, exec (.map tag ctx va leaf) s = .next t ∧ Tab.find t.xlat.pages (pageKey ctx va) = some p ∧ p.leaf = leaf ∧
          Tab.find t.sys.mailboxes 3 = some ⟨tag % 2 ^ 16, 0, 0⟩) ∧
      (∃ t, exec (.leaf tag ctx va) s = .next t ∧ Tab.find t.sys.mailboxes 3 = some ⟨tag % 2 ^ 16, 0,
        match findPage s ctx va with
          | some (_, p) => p.leaf
          | none => 0⟩ ∧ t.mem = s.mem ∧ t.xlat = s.xlat)) ∧
    (firmwareUp s = true → managerBusy s = true → ∀ tag ctx va leaf,
      ∃ t, exec (.map tag ctx va leaf) s = .next t ∧ t.xlat = s.xlat ∧ t.sys.mailboxes = s.sys.mailboxes ∧
        submitted t 3 = ⟨0x30, tag, [ctx, va, leaf]⟩ :: submitted s 3)

/-! ### Contexts, kernels, queues -/

/-- R381, R383, R391 to R395, R444: the commands of the scheduling core, each on a context in the state that the command is
for, and their responses; `TEARDOWN` answers when nothing of its context is on its way any more. That KEYSET reads 56 bytes
and refuses a key that cannot be read (log 9), that commands carry physical addresses (log 12), which number is given (log 53,
freeCtx) and what the records of a context under `TEARDOWN` hold meanwhile (log 83) is the model's choice. -/
def Obligations.ContextCommands : Prop :=
  ∀ (s : State) (tag ctx : Nat) (c : Context), firmwareUp s = true →
    (s.ctxs.any fun p => p.2.suspending.isSome || p.2.setseg.isSome || p.2.tearing.isSome) = false →
    let answered := fun (t : State) (v : Nat) => Tab.find t.sys.mailboxes 2 = some ⟨tag % 2 ^ 16, 0, v⟩
    (∀ addr n raw, freeCtx s = some n → (readAt s addr 512).code = none →
      raw = withoutFused s (leNat (readAt s addr 512).bytes) → descriptorOk raw = true →
      ∃ t x r, exec (.define tag addr) s = .next t ∧ answered t n ∧ Tab.find t.ctxs n = some x ∧ x.state = .defined ∧
        x.segs = (List.range 8).map (fun i => raw / 2 ^ (128 * i) % 2 ^ 128) ∧ x.quads = raw / 2 ^ 1024 % 2 ^ 1024 ∧
        x.prio = raw / 2 ^ 2148 % 16 ∧ x.keySet = false ∧ Tab.find t.groups.scopes (n * 2 ^ 17) = some r ∧
        r.handle = x.root ∧ r.units = 2 ^ 32 ∧ r.selv = true ∧ r.parent = 0 ∧ r.state = .open ∧ r.result = .ok) ∧
    (Tab.find s.ctxs ctx = some c →
      (∀ addr, (readAt s addr 128).code = none → segsOk (segsFrom (leNat (readAt s addr 128).bytes)) = true →
        (∀ p ∈ s.cores, p.2.ctx = ctx → p.2.mode = .idle) →
        ∃ t x, exec (.setseg tag ctx addr) s = .next t ∧ answered t 0 ∧ Tab.find t.ctxs ctx = some x ∧
          x.segs = segsFrom (leNat (readAt s addr 128).bytes) ∧ x.setseg = none) ∧
      (∀ prio quantum, prio ≤ 15 → quantum < 2 ^ 16 →
        ∃ t, exec (.setprio tag ctx prio quantum) s = .next t ∧ answered t 0 ∧
          Tab.find t.ctxs ctx = some { c with prio := prio, quantum := quantum }) ∧
      (c.state = .resident → (∀ p ∈ s.cores, p.2.ctx = ctx → p.2.mode = .idle) →
        ∃ t, exec (.suspend tag ctx) s = .next t ∧ answered t 0 ∧
          Tab.find t.ctxs ctx = some { c with state := .suspended, suspending := none }) ∧
      (c.state = .suspended →
        ∃ t, exec (.resume tag ctx) s = .next t ∧ answered t 0 ∧ Tab.find t.ctxs ctx = some { c with state := .resident }) ∧
      (∀ r, findScope s ctx c.root = some r → (s.groups.scopes.any fun p => p.1 / 2 ^ 17 == ctx && p.2.parent == c.root && p.2.state != .closed) = false →
        ∃ t, exec (.mendroot tag ctx) s = .next t ∧ answered t 0 ∧
          findScope t ctx c.root = some { r with state := .open, result := .ok, fray := 0 }) ∧
      (s.sync.holders = [] → s.sync.queues = [] → (∀ p ∈ s.queues, p.2.ctx ≠ ctx ∧ p.2.waiting = none) →
        ((∀ p ∈ s.ops, p.2.ctx ≠ ctx) → (∀ x ∈ s.xlat.shootdowns, x.ctx ≠ ctx) →
          (∀ p ∈ s.flights, flightCtx s p.2 = some ctx → keptFlight p.2 = false) →
          ∃ t, exec (.teardown tag ctx) s = .next t ∧ answered t 0 ∧ t.ctxs = Tab.del (Tab.put s.ctxs ctx { c with tearing := some tag }) ctx ∧
            (∀ sid k, Tab.find t.strands sid = some k → k.ctx ≠ ctx) ∧
            (∀ core x, Tab.find t.cores core = some x → x.ctx = ctx → x.mode = .idle) ∧
            (∀ key p, Tab.find t.xlat.pages key = some p → pageCtx key ≠ ctx) ∧
            (∀ id f, Tab.find t.flights id = some f → flightCtx t f ≠ some ctx)) ∧
        ((∃ j o, Tab.find s.ops j = some o ∧ o.ctx = ctx) →
          ∃ t, exec (.teardown tag ctx) s = .next t ∧ Tab.find t.ctxs ctx = some { c with tearing := some tag } ∧
            t.sys.mailboxes = s.sys.mailboxes ∧
            (∀ sid k, Tab.find t.strands sid = some k → k.ctx = ctx → k.phase = .cancelling ∧ k.out = true) ∧
            (∀ j o, Tab.find t.ops j = some o → o.ctx = ctx → o.marked = true ∧ o.shielded = false))) ∧
      (∀ addr, s.prot.damage = [] →
        ((readAt s addr 56).code = none →
          ∃ t, exec (.keyset tag ctx addr) s = .next t ∧ Tab.find t.sys.mailboxes 0 = some ⟨tag % 2 ^ 16, 0, 0⟩ ∧
            Tab.find t.ctxs ctx = some { c with key := readNat s addr 56, keySet := true }) ∧
        ((readAt s addr 56).code ≠ none →
          ∃ t, exec (.keyset tag ctx addr) s = .next t ∧ Tab.find t.sys.mailboxes 0 = some ⟨tag % 2 ^ 16, 1, 0⟩ ∧ t.ctxs = s.ctxs)))

/-- R203, R383 to R385, R388, R391: a free core of a resident context with work is given a new image, or resumes a saved one
with its slots, strands and dispatch queue; the interrupt for a context of higher priority, or of one left without work, or a
quantum of microseconds that is spent stops issue, and at the release the image is saved, its strands switched out and the core free; a donation runs
the holder's image; a core takes new segments. -/
def Obligations.ImagesComeAndGo : Prop :=
  ∀ (s : State) (ctx core : Nat),
    (eligible s ctx core = true → coreFree s core = true → highestThere s ctx core = true →
      (Tab.find s.images (ctx * 4096 + core) = none → hasWork s ctx core = true →
        (∀ x, Tab.find s.cores core = some x → x.arrivals = []) →
        ∃ t c, exec (.imageGiven ctx core) s = .next t ∧ Tab.find t.cores core = some c ∧ c.mode = .running ∧ c.ctx = ctx ∧
          c.slots = [] ∧ c.kernel = none ∧ t.mem = s.mem) ∧
      (∀ im, Tab.find s.images (ctx * 4096 + core) = some im → im.runsOn = none → hasWork s ctx core = true →
        s.groups.spill = [] →
        ∃ t c, exec (.imageResume ctx core core) s = .next t ∧ Tab.find t.cores core = some c ∧ c.mode = .running ∧
          c.ctx = ctx ∧ c.slots = im.slots ∧ c.kernel = im.kernel ∧ c.bounds = im.bounds ∧ c.dispatch = im.dispatch ∧
          t.images = Tab.del s.images (ctx * 4096 + core) ∧
          ∀ slot sid k, (slot, sid) ∈ im.slots → Tab.find s.strands sid = some k →
            ∃ k', Tab.find t.strands sid = some k' ∧ k'.out = false ∧ k'.core = core ∧ k'.regs = k.regs ∧ k'.pc = k.pc)) ∧
    (∀ c, Tab.find s.cores core = some c → c.mode = .running →
      c.dispatch = [] → (quadAt s (quadOf core)).busy = none →
        (∀ other o, (other, o) ∈ s.ctxs → other ≠ c.ctx → eligible s other core = true → hasWork s other core = true →
          (effectivePrio s c.ctx < effectivePrio s other ∨ hasWork s c.ctx core = false →
            exec (.meshInterrupt core) s = .next { s with cores := Tab.put s.cores core { c with mode := .preempting } }) ∧
          (∀ x, Tab.find s.ctxs c.ctx = some x → x.quantum ≠ 0 → c.began + 2500 * x.quantum ≤ s.cycle → donatedHere s c = false →
            effectivePrio s other = effectivePrio s c.ctx →
            ∃ t, exec (.quantumExpiry core) s = .next t ∧ t.mem = s.mem ∧ t.strands = s.strands ∧
              t.cores = Tab.put s.cores core { c with mode := .preempting, spent := c.ctx :: c.spent.erase c.ctx })) ∧
        (s.sync.donations = [] →
          (∀ other o, (other, o) ∈ s.ctxs → other ≠ c.ctx → eligible s other core = true → hasWork s other core = false) →
          exec (.meshInterrupt core) s = .next s ∧ exec (.quantumExpiry core) s = .next s)) ∧
    (∀ c, Tab.find s.cores core = some c → c.mode = .preempting → (quadAt s (quadOf core)).busy = none → s.images = [] →
      (∀ sid k, Tab.find s.strands sid = some k → k.gang = none) → s.sync.holders = [] → c.arrivals = [] →
      (∀ slot sid k, (slot, sid) ∈ c.slots → Tab.find s.strands sid = some k → settled k = true ∧ k.errs = []) →
      ∃ t im c', exec (.preemptRelease core) s = .next t ∧ Tab.find t.images (c.ctx * 4096 + core) = some im ∧
        im.slots = c.slots ∧ im.kernel = c.kernel ∧ im.bounds = c.bounds ∧ im.dispatch = c.dispatch ∧
        Tab.find t.cores core = some c' ∧ c'.mode = .idle ∧ c'.slots = [] ∧ t.mem = s.mem ∧
        ∀ slot sid k, (slot, sid) ∈ c.slots → Tab.find s.strands sid = some k →
          ∃ k', Tab.find t.strands sid = some k' ∧ k'.out = true ∧ k'.regs = k.regs ∧ k'.st = k.st) ∧
    (∀ c o, Tab.find s.cores core = some c → c.oldSegs = some o →
      (∀ x, Tab.find s.ctxs c.ctx = some x → x.setseg = none) →
      exec (.segmentInterrupt core) s = .next { s with cores := Tab.put s.cores core { c with oldSegs := none } }) ∧
    (∀ id key prio holder k im, Tab.find s.flights id = some (.donation key ctx prio holder) →
      Tab.find s.sync.holders key = some holder → Tab.has s.sync.donations key = true → Tab.find s.strands holder = some k →
      k.out = true → Tab.find s.images (ctx * 4096 + k.core) = some im → im.runsOn = none → eligible s ctx core = true →
      coreFree s core = true → quadOf core = quadOf k.core → s.groups.spill = [] →
      ∃ t c, exec (.donationEvent id core) s = .next t ∧ Tab.find t.cores core = some c ∧ c.mode = .running ∧ c.ctx = ctx ∧
        c.slots = im.slots)

/-- R397 to R400, R402, R404: `LOAD` returns a free number for a verified kernel whose descriptor, ranges, dictionary and,
where its context asks it, signature check, and otherwise the number of the check that failed; memory that is to come makes it
wait. The kernel's pages are pinned, their repair asked for where they are to come, and it is launchable; `UNLOAD` retires it,
or lets it drain while it runs; the close of its last root writes the result that the root closed with and makes the arrival its launch asked
for. Physical addresses (log 12), the code of tables that cannot be read (log 57), the form of the LMS key and signature (log 9) and which number
is given (log 53, freeKernel) are the model's choice. -/
def Obligations.KernelLife : Prop :=
  ∀ (s : State) (ctx kernel tag : Nat),
    (firmwareUp s = true → s.prot.damage = [] → ∀ addr c raw d, Tab.find s.ctxs ctx = some c → addr % 64 = 0 → (readAt s addr 128).code = none →
      raw = leNat (readAt s addr 128).bytes → d = kernelDesc raw →
      let fails := fun v : Nat => ∃ t, exec (.load tag ctx addr) s = .next t ∧ Answered t 1 tag 1 v ∧ t.kernels = s.kernels
      let accepted := fun words presets : Nat =>
        ∃ t x, exec (.load tag ctx addr) s = .next t ∧ Answered t 1 tag 0 (freeKernel s ctx) ∧
          Tab.find t.kernels (ctx * 2 ^ 32 + freeKernel s ctx) = some x ∧ x.state = .verified ∧ x.image = d.image ∧
          x.isize = d.isize ∧ x.entry = d.entry ∧ x.vregs = d.vregs ∧ x.steal = d.steal ∧ x.gang = d.gang ∧ x.roots = [] ∧
          x.tvec = (if d.trapOff = 2 ^ 32 - 1 then none else some (d.image + 4 * d.trapOff)) ∧
          x.dict = ((List.range d.dcount).map fun i => words / 2 ^ (32 * i) % 2 ^ 32) ∧
          x.bounds = presetBounds ((List.range d.bcount).map fun i => presets / 2 ^ (128 * i) % 2 ^ 128)
      (descriptorFields raw c = false ∨ poolOk s c d = false → fails 1) ∧
      (descriptorFields raw c = true → poolOk s c d = true →
        (rangesOk s c d = false → fails 2) ∧
        (rangesOk s c d = true →
          (firmwareReads s ctx (tableRanges c d) = .bad → fails 2) ∧
          (∀ p, firmwareReads s ctx (tableRanges c d) = .wait p →
            ∃ t, exec (.load tag ctx addr) s = .next t ∧ t.kernels = s.kernels ∧ t.sys.mailboxes = s.sys.mailboxes ∧
              submitted t 1 = submitted s 1 ++ [⟨0x13, tag, [addr, ctx]⟩]) ∧
          (∀ words presets, firmwareReads s ctx (tableRanges c d) = .ok [words, presets] →
            (presetsOk ((List.range d.bcount).map fun i => presets / 2 ^ (128 * i) % 2 ^ 128) = false → fails 1) ∧
            (presetsOk ((List.range d.bcount).map fun i => presets / 2 ^ (128 * i) % 2 ^ 128) = true →
              ((∃ i, i < d.dcount ∧ dictWordOk (words / 2 ^ (32 * i) % 2 ^ 32) = false) → fails 3) ∧
              ((∀ i, i < d.dcount → dictWordOk (words / 2 ^ (32 * i) % 2 ^ 32) = true) →
                (c.rights / 2 ^ 3 % 2 = 0 → accepted words presets) ∧
                (c.rights / 2 ^ 3 % 2 = 1 →
                  (c.keySet = false ∨ d.siglen = 0 → fails 4) ∧
                  (canVerify c d = true → ∀ parts, firmwareReads s ctx (signedRanges c d) = .ok parts →
                    (signatureOk c raw parts = true → accepted words presets) ∧
                    (signatureOk c raw parts = false → fails 4))))))))) ∧
    (∀ x, Tab.find s.kernels (ctx * 2 ^ 32 + kernel) = some x →
      (x.state = .verified →
        (imageCovered s ctx x = true →
          ∃ t, exec (.kernelPinningDone ctx kernel) s = .next t ∧
            Tab.find t.kernels (ctx * 2 ^ 32 + kernel) = some { x with state := .resident } ∧ t.mem = s.mem ∧
            ∀ q p, (q, p) ∈ imagePages s ctx x → leafState p.leaf = 1 →
              ∃ p', Tab.find t.xlat.pages q = some p' ∧ leafState p'.leaf = 5) ∧
        (∀ q p, imagePages s ctx x = [(q, p)] → Tab.find s.xlat.pages q = some p → (leafState p.leaf = 0 ∨ leafState p.leaf = 3) →
          ∃ t, exec (.kernelPinningDone ctx kernel) s = .next t ∧ t.kernels = s.kernels ∧
            (q ∈ s.xlat.repairs ∨ ∃ id c, (id, Flight.faultReq c q) ∈ t.flights))) ∧
      (firmwareUp s = true → x.state = .resident →
        ∃ t, exec (.unload tag ctx kernel) s = .next t ∧ Answered t 1 tag 0 0 ∧
          t.kernels = Tab.del s.kernels (ctx * 2 ^ 32 + kernel) ∧ t.mem = s.mem ∧
          ∀ core y, Tab.find t.cores core = some y → y.ctx = ctx → y.kernel ≠ some kernel) ∧
      (firmwareUp s = true → x.state = .running →
        ∃ t, exec (.unload tag ctx kernel) s = .next t ∧ Answered t 1 tag 0 0 ∧
          Tab.find t.kernels (ctx * 2 ^ 32 + kernel) = some { x with state := .draining })) ∧
    (∀ root r l x, closedRoot s ctx root = some r → Tab.find s.launches (scopeKey ctx root) = some l → ctxRuns s ctx = true → Tab.find s.kernels (ctx * 2 ^ 32 + l.kernel) = some x →
      x.roots = [r.handle] → x.state = .running →
      (∀ addr, l.result = some addr →
        ∃ m, firmwareAt s ctx addr needWr = .at m ∧ firmwareReady s m 8 = true ∧ pathOpen s m.pkg = true) →
      ∃ t, exec (.kernelRootClose ctx root) s = .next t ∧ t.launches = Tab.del s.launches (scopeKey ctx root) ∧
        Tab.find t.kernels (ctx * 2 ^ 32 + l.kernel) = some { x with state := .resident, roots := [] } ∧
        (∀ addr m, l.result = some addr → firmwareAt s ctx addr needWr = .at m → s.mem.wf = true →
          numberAt t m.key 8 = resultWord r) ∧
        (∀ bar, l.barrier = some bar → ∃ j a, Tab.find t.flights j = some (.arrival a false) ∧ a.ctx = ctx ∧ a.ptr = bar ∧
          a.n = 1 ∧ a.code = 0 ∧ a.final = true ∧ a.firm = true) ∧
        ∀ q n y, l.queue = some (q, n) → Tab.find s.queues q = some y →
          ∃ y', Tab.find t.queues q = some y' ∧ y'.started = y.started.map fun c =>
            if c.n = n then { c with done := true, result := resultWord r } else c)

/-- R408 to R411, R415 to R417: `CREATE` makes a queue of a checked descriptor under a free number; a wake write runs an idle
queue and maps one that is unmapped; mapping ends idle or running; a queue parked on a `WAIT` for 1 ms may give up its slot;
one unmapped for 10 ms is paged out, and comes back mapped where it has a new tail; `RESUMEQ` runs a faulted queue again,
which is idle when the skipped command was its last, as a running queue is whose tail is set back to its head; a paged-out
queue waits from its wake write on. `DESTROY` takes it away at once, with state 7 in its status block where that can be written
then, and what it has started runs on. Physical addresses (log 12), which number is given (log 53, freeQueue) and that a status
block whose place is to come is written later, or not at all for a destroyed queue (log 30), are the model's choice. -/
def Obligations.QueueLife : Prop :=
  (∀ (s : State) (tag q : Nat), (∀ p ∈ s.queues, p.2.waiting = none) →
    (firmwareUp s = true → ∀ addr raw, freeQueue s = some q → (readAt s addr 64).code = none →
      raw = leNat (readAt s addr 64).bytes →
      let ring := raw % 2 ^ 64
      let size := raw / 2 ^ 64 % 2 ^ 32
      let ctx := raw / 2 ^ 96 % 2 ^ 6
      let status := raw / 2 ^ 128 % 2 ^ 64
      raw / 2 ^ 102 % 2 ^ 26 = 0 → raw / 2 ^ 192 % 2 ^ 320 = 0 → (∃ e, 4 ≤ e ∧ e ≤ 16 ∧ size = 2 ^ e) → ring % 64 = 0 →
      status % 32 = 0 → (∃ c, Tab.find s.ctxs ctx = some c ∧ c.tearing = none) →
      queueRange s ctx ring (64 * size) needRd = true → queueRange s ctx status 32 needWr = true →
      ∃ t x, exec (.create tag addr) s = .next t ∧ Answered t 1 tag 0 q ∧ Tab.find t.queues q = some x ∧ x.ctx = ctx ∧
        x.state = .created ∧ x.held = false ∧ x.ring = ring ∧ x.size = size ∧ x.status = status ∧ x.head = 0 ∧ x.done = 0 ∧
        x.tail = 0 ∧ x.started = []) ∧
    (∀ x, Tab.find s.queues q = some x →
      let slotFree := x.held = false ∧ heldSlots s < 4096 ∧ ctxRuns s x.ctx = true
      (firmwareUp s = true →
        (∃ t, exec (.destroy tag q) s = .next t ∧ Answered t 1 tag 0 0 ∧ t.queues = Tab.del s.queues q ∧
          (∀ m, firmwareAt s x.ctx (resolve (segsOfCtx s x.ctx) x.status) needWr = .at m → firmwareReady s m 32 = true →
            pathOpen s m.pkg = true → s.mem.wf = true → t.mem.read (m.key + 16) = 7) ∧
          ∀ j o n, Tab.find s.ops j = some o → o.queue = some (q, n) → Tab.find t.ops j = some { o with queue := none })) ∧
      (firmwareUp s = true → ∀ skip, x.state = .faulted → skip ≤ 1 →
        let y := { x with fault := 0, head := x.head + skip, done := x.done + skip, since := s.cycle }
        (x.held = true → ∃ t b, exec (.resumeq tag q skip) s = .next t ∧ Answered t 1 tag 0 0 ∧
          Tab.find t.queues q = some { y with
            state := if (x.head + skip) % x.size = x.tail ∧ x.started = [] then .idle else .running, statusDue := b }) ∧
        (slotFree → ∃ t b, exec (.resumeq tag q skip) s = .next t ∧ Answered t 1 tag 0 0 ∧
          Tab.find t.queues q = some { y with state := .mapped, held := true, waiting := none, statusDue := b })) ∧
      (firmwareUp s = true → s.links.hostUp = true → ∀ tail, x.head % x.size ≠ tail % x.size →
        (x.state = .idle → ∃ t b, exec (.queueWakeWrite q tail) s = .next t ∧ Tab.find t.queues q = some { x with
          tail := tail % x.size, state := .running, since := s.cycle, statusDue := b }) ∧
        ((x.state = .created ∨ x.state = .unmapped) → slotFree →
          ∃ t b, exec (.queueWakeWrite q tail) s = .next t ∧ Tab.find t.queues q = some { x with
            tail := tail % x.size, state := .mapped, held := true, waiting := none, statusDue := b }) ∧
        (x.state = .pagedOut → ∃ t, exec (.queueWakeWrite q tail) s = .next t ∧ Tab.find t.queues q = some { x with
          tail := tail % x.size, paging := true, waiting := some s.nextId })) ∧
      (firmwareUp s = true → s.links.hostUp = true → ∀ tail, x.state = .running → x.head % x.size = tail % x.size → x.started = [] →
        ∃ t b, exec (.queueWakeWrite q tail) s = .next t ∧ Tab.find t.queues q = some { x with
          tail := tail % x.size, state := .idle, since := s.cycle, statusDue := b }) ∧
      (x.state = .mapped → ∃ t b, exec (.queueMapDone q) s = .next t ∧ Tab.find t.queues q = some { x with
        state := if x.head % x.size = x.tail ∧ x.started = [] then .idle else .running, since := s.cycle, statusDue := b }) ∧
      (x.state = .pagedOut → x.paging = true → x.head % x.size = x.tail →
        ∃ t b, exec (.queuePageInDone q) s = .next t ∧ Tab.find t.queues q = some { x with
          state := .unmapped, paging := false, since := s.cycle, statusDue := b }) ∧
      (x.held = true → parkedOnWait x = true → x.since + 2500000 ≤ s.cycle →
        exec (.queueWaitEvictTimeout q) s = .next { s with queues := Tab.put s.queues q { x with evictable := true } }) ∧
      (x.state = .unmapped → x.since + 25000000 ≤ s.cycle →
        (longest (s.queues.filter fun p => p.2.state == .unmapped && p.2.waiting.isNone)).map (·.1) = some q →
        ∃ t b, exec (.queuePageOut q) s = .next t ∧ Tab.find t.queues q = some { x with state := .pagedOut, statusDue := b }))) ∧
  (∀ (s : State) (q w : Nat) (x : Queue), Tab.find s.queues q = some x → (∀ p ∈ Tab.del s.queues q, p.2.waiting = none) →
    x.state = .pagedOut → x.paging = true → x.waiting = some w → x.head % x.size ≠ x.tail → heldSlots s < 4096 → x.held = false →
    ∃ t b, exec (.queuePageInDone q) s = .next t ∧ Tab.find t.queues q = some { x with
      state := .mapped, held := true, waiting := none, paging := false, since := s.cycle, statusDue := b })

/-- R401, R412, R413, R416: the command at the head of a running queue starts when its checks pass: `LAUNCH` makes a kernel
root, `COPY` an engine operation of the context root, `SIGNAL` and `TIMESTAMP` write their doubleword at once, an arrival to
another package's barrier travels, and `WAIT` is recorded; a fenced command waits for those before it, and an operation of no listed number faults the queue with its head on
the command. The free numbers and the places of a launch's records are the model's choice (log 53). R410, R412 to R415: a
`WAIT` whose doubleword holds the value or more, or whose barrier has woken, is done, its queue evicted no more for it, and a
frayed barrier's code is kept for the status; one whose page is to come asks for it; a command that is done completes: the count grows, and a queue with nothing
left is idle. The time stamp's relation to the cycle count is the model's choice (log 15). -/
def Obligations.QueueCommands : Prop :=
  (∀ (s : State) (q raw : Nat) (x : Queue),
    (StartsAs s q x raw 1 → raw / 2 ^ 112 % 2 ^ 16 = 0 → raw / 2 ^ 448 % 2 ^ 64 = 0 → ∀ n res kernel h s1,
      n = raw / 2 ^ 96 % 2 ^ 16 → res = raw / 2 ^ 384 % 2 ^ 64 → kernel = raw / 2 ^ 64 % 2 ^ 32 → 1 ≤ n → n ≤ 256 → res % 8 = 0 →
      (res ≠ 0 → queueRange s x.ctx res 8 needWr = true) → launchable s x.ctx kernel = true →
      launch s x.ctx kernel n ((List.range 4).map fun j => BitVec.ofNat 64 (raw / 2 ^ (128 + 64 * j)))
        ⟨kernel, some (q, x.head), if res = 0 then none else some (resolve (segsOfCtx s x.ctx) res), none⟩ = some (h, s1) →
      ∃ t z, exec (.queueLaunch q) s = .next t ∧ HasStarted t q x (Started.blank x.head 1) ∧
        Tab.find t.kernels (x.ctx * 2 ^ 32 + kernel) = some z ∧ z.state = .running ∧ h ∈ z.roots ∧
        ∀ c, Tab.find s.ctxs x.ctx = some c → c.state = .defined →
          ∃ c', Tab.find t.ctxs x.ctx = some c' ∧ c'.state = .resident) ∧
    (StartsAs s q x raw 2 → raw / 2 ^ 328 % 2 ^ 8 = 0 → raw / 2 ^ 352 % 2 ^ 160 = 0 → ∀ dst src bar reach quad e c r,
      dst = raw / 2 ^ 64 % 2 ^ 64 → src = raw / 2 ^ 128 % 2 ^ 64 → bar = raw / 2 ^ 256 % 2 ^ 64 → reach = raw / 2 ^ 320 % 2 ^ 8 →
      quad = raw / 2 ^ 336 % 2 ^ 16 → copySize (raw / 2 ^ 192 % 2 ^ 64) = some e → Tab.find s.ctxs x.ctx = some c →
      findScope s x.ctx c.root = some r → reach ≤ 4 → e.sspace ≠ 1 → e.dspace ≠ 3 → quad < 1024 → c.quads / 2 ^ quad % 2 = 1 →
      queueSide s x.ctx e.sspace src e.size needRd = none → queueSide s x.ctx e.dspace dst e.size needWr = none →
      queueRange s x.ctx bar 32 (needBar ||| needEn) = true → bar % 32 = 0 → (e.sspace ≠ 0 → src % 64 = 0) →
      (e.dspace ≠ 0 → dst % 64 = 0) → (e.sspace ≠ 0 ∨ e.dspace ≠ 0 → e.size % 64 = 0) → 2 ^ 16 ≤ r.units →
      engineLoad s (quad * 4) true < 320 →
      ∃ t o, exec (.queueCopy q) s = .next t ∧ HasStarted t q x { Started.blank x.head 2 with op := s.nextId } ∧
        Tab.find t.ops s.nextId = some o ∧ o.issuer = none ∧ o.queue = some (q, x.head) ∧ o.scope = c.root ∧ o.share = 16 ∧
        o.core = quad * 4 ∧ o.size = e.size ∧ o.reach = reach ∧ o.tainted = false ∧ o.shielded = false ∧ o.state = .queued ∧
        Tab.find t.groups.scopes (scopeKey x.ctx c.root) = some { r with units := r.units - 2 ^ 16 }) ∧
    (StartsAs s q x raw 3 → raw / 2 ^ 200 % 2 ^ 312 = 0 → ∀ addr kind l, addr = raw / 2 ^ 64 % 2 ^ 64 →
      kind = raw / 2 ^ 192 % 2 ^ 8 → kind ≤ 2 → signalCheck s x.ctx addr kind (if kind = 2 then needRd else needBar) = none →
      PlaceFor s q x (resolve (segsOfCtx s x.ctx) addr) (if kind = 0 then 32 else 8)
        (if kind = 2 then needRd else needBar) l →
      ∃ t, exec (.queueSignal q) s = .next t ∧ HasStarted t q x { Started.blank x.head 3 with done := true, op := s.nextId } ∧
        (kind = 1 → numberAt t l.key 8 = raw / 2 ^ 128 % 2 ^ 64) ∧
        (kind = 0 → l.pkg ≠ s.pkg → ∃ a, Tab.find t.flights s.nextId = some (.arrival a false) ∧ a.ctx = x.ctx ∧
          a.ptr = resolve (segsOfCtx s x.ctx) addr ∧ a.n = raw / 2 ^ 128 % 2 ^ 64 ∧ a.code = 0 ∧ a.firm = true)) ∧
    (StartsAs s q x raw 4 → raw / 2 ^ 200 % 2 ^ 312 = 0 → ∀ addr kind, addr = raw / 2 ^ 64 % 2 ^ 64 →
      kind = raw / 2 ^ 192 % 2 ^ 8 → kind ≤ 1 → signalCheck s x.ctx addr kind (if kind = 0 then needBar else needRd) = none →
      ∃ t, exec (.queueWait q) s = .next t ∧ HasStarted t q x { Started.blank x.head 4 with
        waitKind := kind, waitAddr := resolve (segsOfCtx s x.ctx) addr, waitVal := raw / 2 ^ 128 % 2 ^ 64 }) ∧
    (StartsAs s q x raw 5 → raw / 2 ^ 128 % 2 ^ 384 = 0 → ∀ addr l, addr = raw / 2 ^ 64 % 2 ^ 64 → addr % 8 = 0 →
      queueRange s x.ctx addr 8 needWr = true → PlaceFor s q x (resolve (segsOfCtx s x.ctx) addr) 8 needWr l →
      ∃ t, exec (.queueTimestamp q) s = .next t ∧ HasStarted t q x { Started.blank x.head 5 with done := true } ∧
        numberAt t l.key 8 = s.cycle * 2 / 5 % 2 ^ 64) ∧
    (CommandAt s q x raw → ∀ i, i ∈ [Instr.queueLaunch q, .queueCopy q, .queueSignal q, .queueWait q, .queueTimestamp q] →
      (raw / 2 ^ 8 % 2 = 1 → x.started ≠ [] → exec i s = .next s) ∧
      ((raw / 2 ^ 8 % 2 = 1 → x.started = []) → (raw % 2 ^ 8 = 0 ∨ 5 < raw % 2 ^ 8) →
        ∃ t b, exec i s = .next t ∧ Tab.find t.queues q = some { x with state := .faulted, fault := 1, statusDue := b }))) ∧
  (∀ (s : State) (q n : Nat) (x : Queue) (c : Started), Tab.find s.queues q = some x →
    (∀ l, x.started.find? (fun c => c.n == n && c.kind == 4 && !c.done) = some c → x.held = true → x.state ≠ .mapped →
      firmwareAt s x.ctx c.waitAddr (if c.waitKind = 0 then needBar else needRd) = .at l → firmwareReady s l (if c.waitKind = 0 then 32 else 8) = true →
      (∀ code, (c.waitKind = 1 ∧ (readLoc s l 8).code = none ∧ c.waitVal ≤ leNat (readLoc s l 8).bytes ∧ code = 0) ∨
          (c.waitKind = 0 ∧ (readLoc s l 32).code = none ∧ (readBar s l.key).valid = true ∧
            (((readBar s l.key).state = 2 ∨ (readBar s l.key).state = 3) ∧ code = 0 ∨
              (readBar s l.key).state = 4 ∧ code = (readBar s l.key).code)) →
        ∃ t b, exec (.queueWaitSatisfied q n) s = .next t ∧ Tab.find t.queues q = some { x with
          started := x.started.map fun y => if y.n = n then { y with done := true } else y
          evictable := x.evictable && x.started.any fun y => y.kind == 4 && !y.done && y.n != n
          lastFray := if code = 0 then x.lastFray else code, statusDue := b })) ∧
    (∀ page, x.started.find? (fun c => c.n == n && c.kind == 4 && !c.done) = some c → x.held = true → x.state ≠ .mapped →
      firmwareAt s x.ctx c.waitAddr (if c.waitKind = 0 then needBar else needRd) = .resolvable page →
      exec (.queueWaitSatisfied q n) s = .next (askRepair s x.ctx page)) ∧
    (x.started.find? (fun c => c.n == n && c.done) = some c → arrivalsMade s c = true → (c.kind = 1 → ctxRuns s x.ctx = true) → (∀ p ∈ s.queues, p.2.waiting = none) →
      ∃ t y, exec (.queueCommandComplete q n) s = .next t ∧ Tab.find t.queues q = some y ∧ y.done = x.done + 1 ∧
        y.started = (x.started.filter fun y => y.n != n) ∧ y.head = x.head ∧
        y.state = if x.state = .running ∧ y.started = [] ∧ x.head % x.size = x.tail then .idle else x.state))

/-! ### Links, bring-up, management -/

/-- R418, R419, R421, R424, R426 to R428: a flit in order with its CRC is accepted, its acknowledgment covers what was sent,
and a retry request in it counts as a replay of each flit that is left; any other asks for a retry; a port that trains takes
control flits only. Lanes are removed, each with its counts begun anew, and ports die at the retry limit and in silence; a
path left without a port enters dead, with the engine operations at work beyond it to fail with code 3, and reopens with the
next epoch; notices and cancels reach their barriers and proxies, a cancel only over an open path; without a host link no
wake write arrives. The journal's value for a port is the model's choice (log 32), as are a flit's payload, which is passed
over, and a training port's first flit (log 31), the answer to a `QUIESCE` whose port dies (log 85), and a notice that finds
its object poisoned or malformed (log 87). R419, R420, R440: the link-management core quiesces a port once its flits are
acknowledged and nothing is in flight over it, brings it back, retrains it, and makes a route, whose path is open where one of
its ports carries traffic and no notice waits for it; a command met while a `QUIESCE` waits is taken after it. -/
def Obligations.LinksBetweenPackages : Prop :=
  (∀ (s : State) (p : Nat),
    (∀ bytes flit, flit = leNat ((bytes.take 64).map (BitVec.ofNat 8)) → p < 16 →
      ((portAt s p).state = .up ∨ (portAt s p).state = .degraded) → (portAt s p).quiescing = none →
      (crc32 (leBytes 60 flit) = flit / 2 ^ 480 % 2 ^ 32 → flit % 2 ^ 16 = ((portAt s p).recvSeq + 1) % 2 ^ 16 →
        let left := (portAt s p).unacked.filter fun f =>
          let d := (f % 2 ^ 16 + 2 ^ 16 - flit / 2 ^ 16 % 2 ^ 16) % 2 ^ 16
          decide (0 < d ∧ d < 2 ^ 15)
        let tries := (portAt s p).tries.drop ((portAt s p).unacked.length - left.length)
        ∃ t, exec (.flitReceive p bytes) s = .next t ∧ (portAt t p).recvSeq = flit % 2 ^ 16 ∧ (portAt t p).retryReq = false ∧
          (portAt t p).heard = s.cycle ∧ (portAt t p).state = (portAt s p).state ∧ (portAt t p).unacked = left ∧
          (portAt t p).tries = (if flit / 2 ^ 32 % 2 ^ 8 = 3 then tries.map fun e => (e.1 + 1, e.2 + 1) else tries)) ∧
      ((crc32 (leBytes 60 flit) ≠ flit / 2 ^ 480 % 2 ^ 32 ∨ flit % 2 ^ 16 ≠ ((portAt s p).recvSeq + 1) % 2 ^ 16) →
        ∃ t, exec (.flitReceive p bytes) s = .next t ∧
          portAt t p = { portAt s p with retryReq := true, heard := s.cycle })) ∧
    (∀ bytes, (portAt s p).state = .training → leNat ((bytes.take 64).map (BitVec.ofNat 8)) / 2 ^ 32 % 2 ^ 8 ≠ 4 →
      exec (.flitReceive p bytes) s = .next s) ∧
    (((portAt s p).state = .up ∨ (portAt s p).state = .degraded) →
      ((∃ e ∈ (portAt s p).tries, 16 ≤ e.1) → 4 < (portAt s p).lanes →
        ∃ t, exec (.laneRemoval p) s = .next t ∧
          portAt t p = { portAt s p with
            state := .degraded, lanes := (portAt s p).lanes - 1, tries := (portAt s p).tries.map fun e => (0, e.2) }) ∧
      (∀ i, (i = Instr.laneRemoval p ∧ (∃ e ∈ (portAt s p).tries, 16 ≤ e.1) ∧ (portAt s p).lanes ≤ 4) ∨
          (i = .portRetryLimit p ∧ ∃ e ∈ (portAt s p).tries, 64 ≤ e.2) ∨ (i = .portSilenceTimeout p ∧ (portAt s p).heard + 25000 ≤ s.cycle) →
        (s.links.paths = [] → ∃ t, exec i s = .next t ∧ (portAt t p).state = .dead ∧ t.mem = s.mem ∧
          ∀ tag, (portAt s p).quiescing = some tag → Answered t 5 tag 1 0) ∧
        (∀ pkg y, s.links.paths = [(pkg, y)] → y.state = .open → routePorts y = [p] → s.flights = [] → s.sync.waiters = [] →
          s.sync.queues = [] → s.sync.monitors = [] → s.groups.scopes = [] →
          ∃ t, exec i s = .next t ∧ (portAt t p).state = .dead ∧ Tab.find t.links.paths pkg = some { y with state := .dead } ∧
            ∀ j o, Tab.find s.ops j = some o → opWorks s pkg o = true → o.cut = none → o.away ≠ some pkg →
              Tab.find t.ops j = some { o with cut := some 3 }))) ∧
    (∀ lanes, (portAt s p).state = .training →
      ∃ t, exec (.portTrainingDone p lanes) s = .next t ∧
        (portAt t p).state = (if 8 ≤ lanes then .up else if 4 ≤ lanes then .degraded else .down) ∧
        (4 ≤ lanes → (portAt t p).lanes = Min.min lanes 8 ∧ (s.sys.boot ≠ 6 → t.sys = s.sys) ∧
          (s.sys.boot = 6 → t.sys.staged = s.sys.staged ++ [(4, 6 * 2 ^ 20 + p % 2 ^ 20)])) ∧
        (lanes < 4 → t.sys.staged = s.sys.staged ++
          [if (portAt s p).alternate = true then (8, 6 * 2 ^ 20 + p % 2 ^ 20) else (2, p)])) ∧
    (∀ pkg y, Tab.find s.links.paths pkg = some y → y.state = .dead → routeUp s y = true → pendingNotices s pkg = false →
      ∃ t, exec (.pathReopen pkg) s = .next t ∧ Tab.find t.links.paths pkg = some { y with state := .open, epoch := y.epoch + 1 }) ∧
    (∀ id a pkg e y, Tab.find s.flights id = some (.frayNotice a pkg e) → Tab.find s.links.paths pkg = some y →
      routeUp s y = true →
      (a.tainted = false → s.prot.damage = [] →
        ((readAt s a.op 32).code = none → (readBar s a.op).valid = true → exec (.frayNotice id) s =
          .next (frayBar (s.delFlight id) a.op (readBar s a.op) 3 ⟨a.ctx, a.scope % 2 ^ 32, a.ptr⟩)) ∧
        ((readAt s a.op 32).code ≠ none ∨ (readBar s a.op).valid = false → exec (.frayNotice id) s =
          .next (wakeQueue (wakeAll (s.delFlight id) a.op 3) a.op 3))) ∧
      (a.tainted = true → findScope s a.ctx a.selvedge ≠ none →
        exec (.frayNotice id) s = .next (countWithheld (s.delFlight id) a.ctx a.selvedge a.ptr 3))) ∧
    (∀ id ctx scope pkg, Tab.find s.flights id = some (.proxyCancel ctx scope pkg) →
      (pathOpen s pkg = false → exec (.proxyCancel id) s = .next (s.delFlight id)) ∧
      (pathOpen s pkg = true → ∃ t, exec (.proxyCancel id) s = .next t ∧
        ((∀ j m, (j, Flight.msg m) ∈ s.flights → m.ctx = ctx → m.scope = scope → m.target / 2 ^ 51 % 2 ^ 13 ≠ pkg) →
          t.flights = Tab.del s.flights id) ∧
        ∀ n x, Tab.find s.links.proxies n = some x → Tab.find t.links.proxies n = some { x with
          cancelled := x.cancelled || (x.ctx == ctx && x.scope == scope && x.pkg == pkg) })) ∧
    (∃ t, exec .hostLinkDown s = .next t ∧ t.links.hostUp = false ∧ t.mem = s.mem ∧ t.strands = s.strands ∧
      ∀ q tail, exec (.queueWakeWrite q tail) t = .next t)) ∧
  (∀ (s : State) (tag p : Nat), firmwareUp s = true →
    ((s.links.ports.any fun x => x.2.quiescing.isSome) = true → ∀ i c,
      (i, c) ∈ [(Instr.quiesce tag p, (⟨0x40, tag, [p]⟩ : FirmCommand)), (.unquiesce tag p, ⟨0x41, tag, [p]⟩), (.retrain tag p, ⟨0x42, tag, [p]⟩)] →
      ∃ t, exec i s = .next t ∧ t.links = s.links ∧ t.sys.mailboxes = s.sys.mailboxes ∧ submitted t 5 = submitted s 5 ++ [c]) ∧
    ((s.links.ports.any fun x => x.2.quiescing.isSome) = false → s.links.paths = [] →
      (p < 16 → ((portAt s p).state = .up ∨ (portAt s p).state = .degraded) →
        ((portAt s p).unacked = [] → (∀ e ∈ s.links.sent, e.port ≠ some p) →
          ∃ t, exec (.quiesce tag p) s = .next t ∧ (portAt t p).state = .quiesced ∧ Answered t 5 tag 0 0) ∧
        (((portAt s p).unacked ≠ [] ∨ ∃ e ∈ s.links.sent, e.port = some p) →
          ∃ t, exec (.quiesce tag p) s = .next t ∧ portAt t p = { portAt s p with quiescing := some tag } ∧ t.sys = s.sys)) ∧
      (p < 16 → (portAt s p).state = .quiesced →
        ∃ t, exec (.unquiesce tag p) s = .next t ∧ Answered t 5 tag 0 0 ∧
          portAt t p = { portAt s p with state := if (portAt s p).lanes = 8 then .up else .degraded }) ∧
      (p < 16 → ((portAt s p).state = .down ∨ (portAt s p).state = .quiesced ∨ (portAt s p).state = .dead) →
        ∃ t f, exec (.retrain tag p) s = .next t ∧ Answered t 5 tag 0 0 ∧ (portAt t p).state = .training ∧
          (portAt t p).alternate = (portAt s p).alternate ∧ (portAt t p).unacked = [f] ∧ f % 2 ^ 16 = 1 ∧ f / 2 ^ 32 % 2 ^ 8 = 4) ∧
      (∀ pkg mask, pkg ≠ s.pkg → pkg ≤ 4607 → mask < 2 ^ 16 →
        ∃ t, exec (.route tag pkg mask) s = .next t ∧ Answered t 5 tag 0 0 ∧
          Tab.find t.links.paths pkg = some ⟨if routeUp s ⟨.open, 0, mask⟩ = true ∧ pendingNotices s pkg = false then .open else .dead,
            0, mask⟩)))

/-- R122, R442, R443, R445, R448: a reset begins the boot at step 1, with its second image bank after a failure and passed
over after the failure of that, with the journal and the recorded fault's link kept and everything else as after power-up, the
time base among it; after a drain the staged records are committed first. Each step that ends well leads to the next, with the
banks or the rate that the journal's failures ask for, the last to a booted package with its capability list in memory; a step
that fails is journalled; the journal keeps its 4,096 last records. The kinds and values of the journal's records, and which
failures hold the package, are the model's choice (log 32). -/
def Obligations.BootSequence : Prop :=
  ∀ (s : State),
    (s.sys.drained = false → s.sys.powerFail = false → s.sys.journal.length ≤ 4096 →
      let fresh := fun (boot bank : Nat) (staged : List (Nat × Nat)) => ({ State.reset with
        turns := s.turns, rot := s.rot, pick := s.pick, fresh := s.fresh, nextId := s.nextId, pkg := s.pkg
        sys := { State.reset.sys with
          boot := boot, bank := bank, journal := s.sys.journal, staged := s.sys.staged ++ staged, flash := s.sys.flash
          faultLink := s.sys.faultLink } } : State)
      (lastOutcome s 1 0 ≠ some 7 → lastOutcome s 1 0 ≠ some 8 →
        exec .reset s = .next (fresh 1 (if lastOutcome s 1 0 = some 5 then 1 else 0) [(3, 2 ^ 20)])) ∧
      (lastOutcome s 1 0 = some 7 ∨ lastOutcome s 1 0 = some 8 →
        exec .reset s = .next (fresh 2 0 [(7, 2 ^ 20), (3, 2 * 2 ^ 20)]))) ∧
    (s.sys.drained = true → ∃ t, exec .reset s = .next t ∧ t.mem = [] ∧ t.sys.flash = s.sys.flash ∧ t.sys.drained = false ∧
      t.sys.powerFail = false ∧ t.sys.journal =
        (s.sys.journal ++ s.sys.staged).drop ((s.sys.journal ++ s.sys.staged).length - 4096)) ∧
    (∀ unit ok, s.sys.powerFail = false → 1 ≤ s.sys.boot → s.sys.boot ≤ 8 →
      let failedBefore := fun step u : Nat => lastOutcome s step u = some 5 ∨ lastOutcome s step u = some 7 ∨ lastOutcome s step u = some 8
      (ok ≠ 0 → (s.sys.boot = 6 → ∀ p ∈ s.links.ports, p.2.state ≠ .training) →
        ∃ t, exec (.bootStepDone unit ok) s = .next t ∧
          t.sys.boot = (if s.sys.boot = 6 ∧ (lastOutcome s 7 0 = some 7 ∨ lastOutcome s 7 0 = some 8) then 8 else s.sys.boot + 1) ∧
          (4, s.sys.boot * 2 ^ 20 + (if s.sys.boot = 3 ∨ s.sys.boot = 6 then 2 ^ 20 - 1 else 0)) ∈ t.sys.staged ∧
          (s.sys.boot = 7 → t.links.hostUp = true) ∧
          (s.sys.boot = 2 → ∀ u, u < 2 ^ 20 →
            (u ∈ t.sys.fused ↔ lastOutcome s 3 u = some 5 ∨ lastOutcome s 3 u = some 7 ∨ lastOutcome s 3 u = some 8) ∧
            (lastOutcome s 3 u = some 7 ∨ lastOutcome s 3 u = some 8 → (7, 3 * 2 ^ 20 + u) ∈ t.sys.staged)) ∧
          (s.sys.boot = 6 → t.sys.boot = 7 → t.links.rate = if lastOutcome s 7 0 = some 5 then 1 else 2) ∧
          (s.sys.boot ≠ 8 → t.mem = s.mem) ∧
          (s.sys.boot = 8 → t.sys.published = capState s ∧
            (s.mem.wf = true → ∀ j, j < 96 → t.mem.read (Config.capFrame.toNat + j) = (capBytes s).getD j 0))) ∧
      (ok = 0 → s.sys.boot ≠ 3 → s.sys.boot ≠ 6 → s.sys.boot ≠ 7 →
        ∃ t, exec (.bootStepDone unit ok) s = .next t ∧ t.sys.boot = 0 ∧
          t.sys.staged = s.sys.staged ++ [(if s.sys.boot = 1 ∧ failedBefore 1 0 then 8 else 5, s.sys.boot * 2 ^ 20)]) ∧
      (ok = 0 → s.sys.boot = 3 →
        ∃ t, exec (.bootStepDone unit ok) s = .next t ∧ t.sys.boot = 3 ∧
          t.sys.staged = s.sys.staged ++ [(if failedBefore 3 unit then 8 else 5, 3 * 2 ^ 20 + unit % 2 ^ 20)]) ∧
      (ok = 0 → s.sys.boot = 6 → exec (.bootStepDone unit ok) s = exec (.portTrainingDone unit 0) s) ∧
      (ok = 0 → s.sys.boot = 7 →
        ∃ t, exec (.bootStepDone unit ok) s = .next t ∧ t.sys.boot = 8 ∧ t.links.hostUp = s.links.hostUp ∧
          (if failedBefore 7 0 then 8 else 5, 7 * 2 ^ 20) ∈ t.sys.staged)) ∧
    (∀ e es, s.sys.staged = e :: es → s.sys.journal.length < 4096 →
      exec .journalCommit s = .next { s with sys := { s.sys with journal := s.sys.journal ++ [e], staged := es } })

/-- R362, R407, R427, R440, R446 to R448: the fray log is read by place; an unknown code answers 2; a register keeps what is
written, a word of BAR4 goes to the device page that its window shows there, a write of a mailbox's doorbell submits the command in its slot, which its core takes at its turn, and one in BAR2 is
a queue's wake write; a trigger holds the snapshot window or counts as overrun, and latches nothing during the drain; `ARM`,
`RELEASE` and `STEP` answer, and a level settles; a power failure begins the drain, in which `STEP` is refused and whose end
stands in flash. The layout of LOGREAD's value (log 33), the other registers of the BARs and what BAR4's window shows (log 27), that the snapshot window holds the state of the latching cycle
(log 26) and the order of a mailbox's slots (log 84) are the model's choice. -/
def Obligations.Management : Prop :=
  ∀ (s : State) (tag : Nat),
    (firmwareUp s = true →
      (∀ i e, s.sys.logOverrun = 0 → i < 65536 → s.sys.frayLog[i]? = some e →
        ∃ t, exec (.logread tag i) s = .next t ∧ Answered t 4 tag 0 e.word) ∧
      (∀ core code, core < 8 → code ∉ knownCodes core →
        ∃ t, exec (.mailboxUnknownCode core tag code) s = .next t ∧ Answered t core tag 2 0) ∧
      (∀ code, code ≤ 15 → ∃ t, exec (.arm tag code) s = .next t ∧ Answered t 7 tag 0 0 ∧ t.sys.armed = code) ∧
      (∃ t, exec (.release tag) s = .next t ∧ Answered t 7 tag 0 0 ∧ t.sys.snapHeld = false) ∧
      (∀ rest, submitted s 7 = ⟨0x61, tag, []⟩ :: rest → Tab.find (Tab.del s.sys.doorbells 7) 7 = none →
        ∃ t, firmwareTurn 7 s = .next t ∧ Answered t 7 tag 0 0 ∧ t.sys.snapHeld = false ∧ submitted t 7 = rest) ∧
      (∀ level, level ≤ 15 → level ≠ s.sys.power →
        ∃ t u, exec (.step tag level) s = .next t ∧ Answered t 6 tag 0 0 ∧ t.sys.power = s.sys.power ∧
          exec .powerStepSettled t = .next u ∧ u.sys.power = level ∧ u.sys.powerNext = none)) ∧
    (s.sys.powerFail = true → ∀ level, ∃ t, exec (.step tag level) s = .next t ∧ Answered t 6 tag 1 0) ∧
    (s.links.hostUp = true →
      (∀ off v, off < 2 ^ 26 → off % 8 = 0 →
        ∃ t, exec (.registerWrite 0 off v) s = .next t ∧ Tab.find t.sys.bars off = some (v % 2 ^ 64)) ∧
      (∀ off v, off < 2 ^ 36 → off % 8 = 0 → ∃ t, exec (.registerWrite 4 off v) s = .next t ∧ t.sys.bars = s.sys.bars ∧
        ∀ a, windowAddr off = some a → s.mem.wf = true → numberAt t a 8 = v % 2 ^ 64) ∧
      (∀ core v, core < 8 →
        let w := fun i : Nat => Tab.get s.sys.bars (0x10000 + 256 * core + 8 * i) 0
        ∃ t, exec (.registerWrite 0 (0x10000 + 256 * core + 128) v) s = .next t ∧
          submitted t core = submitted s core ++ [⟨w 0 % 2 ^ 16, w 0 / 2 ^ 16 % 2 ^ 16, [w 1, w 2, w 3, w 4, w 5, w 6, w 7]⟩]) ∧
      (∀ q v, q < 2 ^ 20 → exec (.registerWrite 2 (8 * q) v) s = exec (.queueWakeWrite q v) s)) ∧
    (∀ i, i = Instr.snapPin ∨ i = .mgmtSnapshotTrigger →
      (s.sys.snapHeld = true → ∃ t, exec i s = .next t ∧ t.sys.snapHeld = true ∧ t.sys.window = s.sys.window ∧
        t.sys.snapOverrun = (s.sys.snapOverrun + 1) % 2 ^ 32) ∧
      (s.sys.snapHeld = false → s.sys.powerFail = false → ∃ t, exec i s = .next t ∧ t.sys.snapHeld = true ∧
        t.sys.window = some (latched s) ∧ t.sys.snapOverrun = s.sys.snapOverrun) ∧
      (s.sys.snapHeld = false → s.sys.powerFail = true → exec i s = .next s)) ∧
    (∃ t u, exec .powerFail s = .next t ∧ t.sys.powerFail = true ∧ exec .powerFailDrainDone t = .next u ∧ u.sys.drained = true ∧
      u.sys.flash = some
        ⟨s.sys.staged, s.sys.frayLog, s.sys.window, s.groups.scopes, s.ctxs, s.cores, s.images, s.strands⟩ ∧ u.mem = s.mem ∧
      ∀ core ts, step { t with turns := ⟨0, 0, .issue core⟩ :: ts } = .next (enterTurn 0 0 { t with turns := ts }))

/-! ### The whole machine -/

/-- R61 to R80: decoding the word of an instruction whose fields fit gives it back, with every field at every value; so do its
bytes in memory, whatever follows them; and a word that decodes is the word of the instruction it decodes to. -/
def Obligations.DecodeAndEncodeAgree : Prop :=
  (∀ i : Instr, isWord i = true → fits i = true →
    decodeWord (encodeWord i) = .ok i ∧ encodeWord i < 2 ^ 32 ∧ ∀ rest, decode (encodeBytes i ++ rest) = .ok (i, rest)) ∧
  ∀ (w : Nat) (i : Instr), w < 2 ^ 32 → decodeWord w = .ok i → isWord i = true ∧ fits i = true ∧ encodeWord i = w

/-- Words of the encoding tables stand for their instructions, and a word of zeros and a reserved major for none (R66, R80).
-/
def Obligations.WordsStandForInstructions : Prop :=
  decodeWord 0x048D0140 = .ok (.div 2 3 4) ∧ decodeWord 0x0448CE06 = .ok (.cmp 1 2 3 6) ∧
  decodeWord 0x41530010 = .ok (.ld 5 4 3 0 16) ∧ decodeWord 0x45E18001 = .ok (.ldN 7 8 1 2 1) ∧
  decodeWord 0x54056700 = .ok (.amoAdd 0 5 6 7 0 0) ∧ decodeWord 0x6443FFFF = .ok (.brc 1 0 0x3FFFF) ∧
  decodeWord 0xE8000045 = .ok (.trap 5) ∧ decodeWord 0x782C0000 = .ok (.binitCount 11) ∧
  decodeWord 0 = .error (.reservedMajor 0) ∧ decodeWord 0x0C000000 = .error (.reservedMajor 3)

/-- A step runs the decoded instruction: at a core's turn the first slot that its rotation finds ready issues for its strand,
and where its pc is translated to a clean word of its own die, that no cache holds, and the word decodes to i, the step is i at
that state with the issue noted, the line in the cache and the word in the fetch buffer, followed by the first entry when it
left a pair behind; unless that comes to nothing but a wait, for which no issue is noted (R134), or begins a hint run whose
instruction cannot issue or acts at its cancellation point (R83). So it is with a word placed at reset. -/
def Obligations.StepRunsTheDecodedInstruction : Prop :=
  let runIssues := fun (sid : Nat) (k : Strand) (o : Out) => ∀ t k', o = .next t → Tab.find t.strands sid = some k' → k'.run ≠ none →
    k.run = none → idled sid (runOut sid 4 o) = false ∧ pointActed sid k (runOut sid 4 o) = false ∧ k.recheck = false
  let withWord := fun (s : State) (sid : Nat) (k : Strand) (l : Loc) (w : Nat) =>
    (renewArray (afterRead s (clusterOf k.core) k.ctx l) (heldWord sid k)).modStrand sid fun k => { k with ibuf := [(k.pc, w)] }
  (∀ (s s0 s1 : State) (dt pick core slot sid w : Nat) (rest : List Nat) (ts : List Turn) (c : Core) (k0 k : Strand) (l : Loc)
      (i : Instr) (o : Out),
    s.turns = ⟨dt, pick, .issue core⟩ :: ts → s0 = enterTurn dt pick { s with turns := ts } →
    s0.sys.packageFault = false → s0.sys.powerFail = false → Tab.find s0.cores core = some c → readySlots s0 c = slot :: rest →
    Tab.find c.slots slot = some sid → Tab.find s0.strands sid = some k0 → strandReady s0 k0 = true →
    s1 = { noteIssue s0 core slot sid with cur := some sid } →
    Tab.find s1.strands sid = some k → eagerFirst s1 sid k = false → k.pair = [] → k.ibuf = [] →
    fetchSegOk (segsOf s1 k.ctx k.core) k.pc = true → translate s1 k k.pc needEx = .at l → rowBusy s1 l = false →
    landed s1 (dieOf k.core) l = true → cacheHit s1 (clusterOf k.core) l 4 = none →
    l.pkg = s1.pkg → l.die = dieOf k.core → CleanRange s1 l 4 → w = numberAt s1 l.key 4 → decodeWord w = .ok i →
    o = runPair sid (exec i (withWord s1 sid k l w)) → runIssues sid k o →
    (idled sid o = false → step s = o) ∧ (idled sid o = true → step s = issueStrand { s0 with cur := some sid } sid)) ∧
  ∀ i : Instr, isWord i = true → fits i = true →
    let s := State.reset.withFetchWord 32 (encodeWord i)
    let s0 := enterTurn 0 0 { s with turns := [] }
    let s1 := { noteIssue s0 0 0 0 with cur := some 0 }
    ∃ l, translate s1 fetchStrand 0 needEx = .at l ∧ l.key = 0 ∧
      let t := withWord s1 0 fetchStrand l (encodeWord i)
      let o := runPair 0 (exec i t)
      (runIssues 0 fetchStrand o → idled 0 o = false → step s = o) ∧ t.cur = some 0 ∧
        ∃ k, Tab.find t.strands 0 = some k ∧ k.pc = 0 ∧ k.regs = fetchStrand.regs ∧ k.phase = .running

/-- No step stops the machine: from every state it answers a next state, and so does each of the device's own steps. -/
def Obligations.EveryStepAnswers : Prop :=
  (∀ s : State, ∃ t, step s = .next t) ∧
  ∀ (i : Instr) (s : State), isWord i = false → fetchStep i = false → ∃ t, exec i s = .next t

/-- Every step keeps memory in its one canonical form: addresses strictly rising, no entry equal to what an unlisted address
reads as. What an unlisted byte reads as, zero, is the model's choice (log 6). -/
def Obligations.MemoryStaysCanonical : Prop :=
  ∀ s t : State, s.mem.wf = true → step s = .next t → t.mem.wf = true

/-- Memory reads back what is written to it and nothing else changes; a poisoned unit reads as zero with its code until a
write takes the poison of every unit that it touches away, and the rest of such a unit is then clean zeros (R8, R347). What an
unlisted byte reads as, zero, is the model's choice (log 6). -/
def Obligations.MemoryReadsBack : Prop :=
  let inOneSpace := fun key n : Nat => key + n ≤ scratchBase ∨ (scratchBase ≤ key ∧ key + n ≤ storageBase) ∨ storageBase ≤ key
  ∀ s : State, s.mem.wf = true →
    (∀ key bs a, let t := cleanWrite s key bs
      t.mem.wf = true ∧ t.mem.read a = if key ≤ a ∧ a < key + bs.length then bs.getD (a - key) 0 else s.mem.read a) ∧
    (∀ key n c, 0 < n → inOneSpace key n → let t := poisonWrite s key n c
      t.mem.wf = true ∧ (∀ u ∈ unitsOf key n, Tab.find t.prot.poison u = some c) ∧
      ∀ a, t.mem.read a = if unitBase key ≤ a ∧ a < unitBase (key + n - 1) + unitSize key then 0 else s.mem.read a) ∧
    ((s.prot.poison.map (·.1)).Pairwise (· < ·) →
      (∀ key bs u, Tab.find (cleanWrite s key bs).prot.poison u =
        if u ∈ unitsOf key bs.length then none else Tab.find s.prot.poison u) ∧
      ∀ key n c at_ bs u, 0 < n → inOneSpace key n → inOneSpace at_ bs.length → u ∈ unitsOf key n → u ∈ unitsOf at_ bs.length →
        let t := cleanWrite (poisonWrite s key n c) at_ bs
        Tab.find t.prot.poison u = none ∧ ∀ a, u ≤ a → a < u + unitSize u →
          t.mem.read a = if at_ ≤ a ∧ a < at_ + bs.length then bs.getD (a - at_) 0 else 0)

/-- After reset the package is at the first step of its boot, and nothing is defined, placed or in flight; memory lists
nothing (R442). Values that the spec does not state are the model's choice (log 5). -/
def Obligations.ResetState : Prop :=
  State.reset.sys.boot = 1 ∧ State.reset.mem.wf = true ∧ State.reset.mem = [] ∧ State.reset.strands = [] ∧
  State.reset.ctxs = [] ∧ State.reset.kernels = [] ∧ State.reset.queues = [] ∧ State.reset.flights = [] ∧
  State.reset.xlat.pages = [] ∧ State.reset.links.hostUp = false ∧ State.reset.sys.packageFault = false ∧
  State.reset.sys.powerFail = false ∧ firmwareUp State.reset = false ∧ State.reset.cycle = 0
end

