-- ==== Sys2Proof/Laws/State.lean ====
section
/-! SUPPORT. What each update of the state and of a strand's record leaves of every field: one lemma per field and update. -/

namespace Sys2Proof.Machine

/-! ### The state -/

@[simp] theorem State.setStrands_turns (s : State) (t : Tab Strand) : (s.setStrands t).turns = s.turns := rfl
@[simp] theorem State.setStrands_rot (s : State) (t : Tab Strand) : (s.setStrands t).rot = s.rot := rfl
@[simp] theorem State.setStrands_pick (s : State) (t : Tab Strand) : (s.setStrands t).pick = s.pick := rfl
@[simp] theorem State.setStrands_fresh (s : State) (t : Tab Strand) : (s.setStrands t).fresh = s.fresh := rfl
@[simp] theorem State.setStrands_nextId (s : State) (t : Tab Strand) : (s.setStrands t).nextId = s.nextId := rfl
@[simp] theorem State.setStrands_cur (s : State) (t : Tab Strand) : (s.setStrands t).cur = s.cur := rfl
@[simp] theorem State.setStrands_cycle (s : State) (t : Tab Strand) : (s.setStrands t).cycle = s.cycle := rfl
@[simp] theorem State.setStrands_pkg (s : State) (t : Tab Strand) : (s.setStrands t).pkg = s.pkg := rfl
@[simp] theorem State.setStrands_strands (s : State) (t : Tab Strand) : (s.setStrands t).strands = t := rfl
@[simp] theorem State.setStrands_cores (s : State) (t : Tab Strand) : (s.setStrands t).cores = s.cores := rfl
@[simp] theorem State.setStrands_quads (s : State) (t : Tab Strand) : (s.setStrands t).quads = s.quads := rfl
@[simp] theorem State.setStrands_images (s : State) (t : Tab Strand) : (s.setStrands t).images = s.images := rfl
@[simp] theorem State.setStrands_mem (s : State) (t : Tab Strand) : (s.setStrands t).mem = s.mem := rfl
@[simp] theorem State.setStrands_caches (s : State) (t : Tab Strand) : (s.setStrands t).caches = s.caches := rfl
@[simp] theorem State.setStrands_prot (s : State) (t : Tab Strand) : (s.setStrands t).prot = s.prot := rfl
@[simp] theorem State.setStrands_xlat (s : State) (t : Tab Strand) : (s.setStrands t).xlat = s.xlat := rfl
@[simp] theorem State.setStrands_groups (s : State) (t : Tab Strand) : (s.setStrands t).groups = s.groups := rfl
@[simp] theorem State.setStrands_sync (s : State) (t : Tab Strand) : (s.setStrands t).sync = s.sync := rfl
@[simp] theorem State.setStrands_flights (s : State) (t : Tab Strand) : (s.setStrands t).flights = s.flights := rfl
@[simp] theorem State.setStrands_ops (s : State) (t : Tab Strand) : (s.setStrands t).ops = s.ops := rfl
@[simp] theorem State.setStrands_served (s : State) (t : Tab Strand) : (s.setStrands t).served = s.served := rfl
@[simp] theorem State.setStrands_gangs (s : State) (t : Tab Strand) : (s.setStrands t).gangs = s.gangs := rfl
@[simp] theorem State.setStrands_ctxs (s : State) (t : Tab Strand) : (s.setStrands t).ctxs = s.ctxs := rfl
@[simp] theorem State.setStrands_kernels (s : State) (t : Tab Strand) : (s.setStrands t).kernels = s.kernels := rfl
@[simp] theorem State.setStrands_launches (s : State) (t : Tab Strand) : (s.setStrands t).launches = s.launches := rfl
@[simp] theorem State.setStrands_queues (s : State) (t : Tab Strand) : (s.setStrands t).queues = s.queues := rfl
@[simp] theorem State.setStrands_links (s : State) (t : Tab Strand) : (s.setStrands t).links = s.links := rfl
@[simp] theorem State.setStrands_sys (s : State) (t : Tab Strand) : (s.setStrands t).sys = s.sys := rfl

@[simp] theorem State.putStrand_turns (s : State) (sid : Nat) (k : Strand) : (s.putStrand sid k).turns = s.turns := rfl
@[simp] theorem State.putStrand_rot (s : State) (sid : Nat) (k : Strand) : (s.putStrand sid k).rot = s.rot := rfl
@[simp] theorem State.putStrand_pick (s : State) (sid : Nat) (k : Strand) : (s.putStrand sid k).pick = s.pick := rfl
@[simp] theorem State.putStrand_fresh (s : State) (sid : Nat) (k : Strand) : (s.putStrand sid k).fresh = s.fresh := rfl
@[simp] theorem State.putStrand_nextId (s : State) (sid : Nat) (k : Strand) : (s.putStrand sid k).nextId = s.nextId := rfl
@[simp] theorem State.putStrand_cur (s : State) (sid : Nat) (k : Strand) : (s.putStrand sid k).cur = s.cur := rfl
@[simp] theorem State.putStrand_cycle (s : State) (sid : Nat) (k : Strand) : (s.putStrand sid k).cycle = s.cycle := rfl
@[simp] theorem State.putStrand_pkg (s : State) (sid : Nat) (k : Strand) : (s.putStrand sid k).pkg = s.pkg := rfl
@[simp] theorem State.putStrand_strands (s : State) (sid : Nat) (k : Strand) : (s.putStrand sid k).strands = Tab.put s.strands sid k := rfl
@[simp] theorem State.putStrand_cores (s : State) (sid : Nat) (k : Strand) : (s.putStrand sid k).cores = s.cores := rfl
@[simp] theorem State.putStrand_quads (s : State) (sid : Nat) (k : Strand) : (s.putStrand sid k).quads = s.quads := rfl
@[simp] theorem State.putStrand_images (s : State) (sid : Nat) (k : Strand) : (s.putStrand sid k).images = s.images := rfl
@[simp] theorem State.putStrand_mem (s : State) (sid : Nat) (k : Strand) : (s.putStrand sid k).mem = s.mem := rfl
@[simp] theorem State.putStrand_caches (s : State) (sid : Nat) (k : Strand) : (s.putStrand sid k).caches = s.caches := rfl
@[simp] theorem State.putStrand_prot (s : State) (sid : Nat) (k : Strand) : (s.putStrand sid k).prot = s.prot := rfl
@[simp] theorem State.putStrand_xlat (s : State) (sid : Nat) (k : Strand) : (s.putStrand sid k).xlat = s.xlat := rfl
@[simp] theorem State.putStrand_groups (s : State) (sid : Nat) (k : Strand) : (s.putStrand sid k).groups = s.groups := rfl
@[simp] theorem State.putStrand_sync (s : State) (sid : Nat) (k : Strand) : (s.putStrand sid k).sync = s.sync := rfl
@[simp] theorem State.putStrand_flights (s : State) (sid : Nat) (k : Strand) : (s.putStrand sid k).flights = s.flights := rfl
@[simp] theorem State.putStrand_ops (s : State) (sid : Nat) (k : Strand) : (s.putStrand sid k).ops = s.ops := rfl
@[simp] theorem State.putStrand_served (s : State) (sid : Nat) (k : Strand) : (s.putStrand sid k).served = s.served := rfl
@[simp] theorem State.putStrand_gangs (s : State) (sid : Nat) (k : Strand) : (s.putStrand sid k).gangs = s.gangs := rfl
@[simp] theorem State.putStrand_ctxs (s : State) (sid : Nat) (k : Strand) : (s.putStrand sid k).ctxs = s.ctxs := rfl
@[simp] theorem State.putStrand_kernels (s : State) (sid : Nat) (k : Strand) : (s.putStrand sid k).kernels = s.kernels := rfl
@[simp] theorem State.putStrand_launches (s : State) (sid : Nat) (k : Strand) : (s.putStrand sid k).launches = s.launches := rfl
@[simp] theorem State.putStrand_queues (s : State) (sid : Nat) (k : Strand) : (s.putStrand sid k).queues = s.queues := rfl
@[simp] theorem State.putStrand_links (s : State) (sid : Nat) (k : Strand) : (s.putStrand sid k).links = s.links := rfl
@[simp] theorem State.putStrand_sys (s : State) (sid : Nat) (k : Strand) : (s.putStrand sid k).sys = s.sys := rfl

@[simp] theorem State.delStrand_turns (s : State) (sid : Nat) : (s.delStrand sid).turns = s.turns := rfl
@[simp] theorem State.delStrand_rot (s : State) (sid : Nat) : (s.delStrand sid).rot = s.rot := rfl
@[simp] theorem State.delStrand_pick (s : State) (sid : Nat) : (s.delStrand sid).pick = s.pick := rfl
@[simp] theorem State.delStrand_fresh (s : State) (sid : Nat) : (s.delStrand sid).fresh = s.fresh := rfl
@[simp] theorem State.delStrand_nextId (s : State) (sid : Nat) : (s.delStrand sid).nextId = s.nextId := rfl
@[simp] theorem State.delStrand_cur (s : State) (sid : Nat) : (s.delStrand sid).cur = s.cur := rfl
@[simp] theorem State.delStrand_cycle (s : State) (sid : Nat) : (s.delStrand sid).cycle = s.cycle := rfl
@[simp] theorem State.delStrand_pkg (s : State) (sid : Nat) : (s.delStrand sid).pkg = s.pkg := rfl
@[simp] theorem State.delStrand_strands (s : State) (sid : Nat) : (s.delStrand sid).strands = Tab.del s.strands sid := rfl
@[simp] theorem State.delStrand_cores (s : State) (sid : Nat) : (s.delStrand sid).cores = s.cores := rfl
@[simp] theorem State.delStrand_quads (s : State) (sid : Nat) : (s.delStrand sid).quads = s.quads := rfl
@[simp] theorem State.delStrand_images (s : State) (sid : Nat) : (s.delStrand sid).images = s.images := rfl
@[simp] theorem State.delStrand_mem (s : State) (sid : Nat) : (s.delStrand sid).mem = s.mem := rfl
@[simp] theorem State.delStrand_caches (s : State) (sid : Nat) : (s.delStrand sid).caches = s.caches := rfl
@[simp] theorem State.delStrand_prot (s : State) (sid : Nat) : (s.delStrand sid).prot = s.prot := rfl
@[simp] theorem State.delStrand_xlat (s : State) (sid : Nat) : (s.delStrand sid).xlat = s.xlat := rfl
@[simp] theorem State.delStrand_groups (s : State) (sid : Nat) : (s.delStrand sid).groups = s.groups := rfl
@[simp] theorem State.delStrand_sync (s : State) (sid : Nat) : (s.delStrand sid).sync = s.sync := rfl
@[simp] theorem State.delStrand_flights (s : State) (sid : Nat) : (s.delStrand sid).flights = s.flights := rfl
@[simp] theorem State.delStrand_ops (s : State) (sid : Nat) : (s.delStrand sid).ops = s.ops := rfl
@[simp] theorem State.delStrand_served (s : State) (sid : Nat) : (s.delStrand sid).served = s.served := rfl
@[simp] theorem State.delStrand_gangs (s : State) (sid : Nat) : (s.delStrand sid).gangs = s.gangs := rfl
@[simp] theorem State.delStrand_ctxs (s : State) (sid : Nat) : (s.delStrand sid).ctxs = s.ctxs := rfl
@[simp] theorem State.delStrand_kernels (s : State) (sid : Nat) : (s.delStrand sid).kernels = s.kernels := rfl
@[simp] theorem State.delStrand_launches (s : State) (sid : Nat) : (s.delStrand sid).launches = s.launches := rfl
@[simp] theorem State.delStrand_queues (s : State) (sid : Nat) : (s.delStrand sid).queues = s.queues := rfl
@[simp] theorem State.delStrand_links (s : State) (sid : Nat) : (s.delStrand sid).links = s.links := rfl
@[simp] theorem State.delStrand_sys (s : State) (sid : Nat) : (s.delStrand sid).sys = s.sys := rfl

@[simp] theorem State.modStrand_turns (s : State) (sid : Nat) (f : Strand → Strand) : (s.modStrand sid f).turns = s.turns := rfl
@[simp] theorem State.modStrand_rot (s : State) (sid : Nat) (f : Strand → Strand) : (s.modStrand sid f).rot = s.rot := rfl
@[simp] theorem State.modStrand_pick (s : State) (sid : Nat) (f : Strand → Strand) : (s.modStrand sid f).pick = s.pick := rfl
@[simp] theorem State.modStrand_fresh (s : State) (sid : Nat) (f : Strand → Strand) : (s.modStrand sid f).fresh = s.fresh := rfl
@[simp] theorem State.modStrand_nextId (s : State) (sid : Nat) (f : Strand → Strand) : (s.modStrand sid f).nextId = s.nextId := rfl
@[simp] theorem State.modStrand_cur (s : State) (sid : Nat) (f : Strand → Strand) : (s.modStrand sid f).cur = s.cur := rfl
@[simp] theorem State.modStrand_cycle (s : State) (sid : Nat) (f : Strand → Strand) : (s.modStrand sid f).cycle = s.cycle := rfl
@[simp] theorem State.modStrand_pkg (s : State) (sid : Nat) (f : Strand → Strand) : (s.modStrand sid f).pkg = s.pkg := rfl
@[simp] theorem State.modStrand_strands (s : State) (sid : Nat) (f : Strand → Strand) : (s.modStrand sid f).strands = Tab.modify s.strands sid f := rfl
@[simp] theorem State.modStrand_cores (s : State) (sid : Nat) (f : Strand → Strand) : (s.modStrand sid f).cores = s.cores := rfl
@[simp] theorem State.modStrand_quads (s : State) (sid : Nat) (f : Strand → Strand) : (s.modStrand sid f).quads = s.quads := rfl
@[simp] theorem State.modStrand_images (s : State) (sid : Nat) (f : Strand → Strand) : (s.modStrand sid f).images = s.images := rfl
@[simp] theorem State.modStrand_mem (s : State) (sid : Nat) (f : Strand → Strand) : (s.modStrand sid f).mem = s.mem := rfl
@[simp] theorem State.modStrand_caches (s : State) (sid : Nat) (f : Strand → Strand) : (s.modStrand sid f).caches = s.caches := rfl
@[simp] theorem State.modStrand_prot (s : State) (sid : Nat) (f : Strand → Strand) : (s.modStrand sid f).prot = s.prot := rfl
@[simp] theorem State.modStrand_xlat (s : State) (sid : Nat) (f : Strand → Strand) : (s.modStrand sid f).xlat = s.xlat := rfl
@[simp] theorem State.modStrand_groups (s : State) (sid : Nat) (f : Strand → Strand) : (s.modStrand sid f).groups = s.groups := rfl
@[simp] theorem State.modStrand_sync (s : State) (sid : Nat) (f : Strand → Strand) : (s.modStrand sid f).sync = s.sync := rfl
@[simp] theorem State.modStrand_flights (s : State) (sid : Nat) (f : Strand → Strand) : (s.modStrand sid f).flights = s.flights := rfl
@[simp] theorem State.modStrand_ops (s : State) (sid : Nat) (f : Strand → Strand) : (s.modStrand sid f).ops = s.ops := rfl
@[simp] theorem State.modStrand_served (s : State) (sid : Nat) (f : Strand → Strand) : (s.modStrand sid f).served = s.served := rfl
@[simp] theorem State.modStrand_gangs (s : State) (sid : Nat) (f : Strand → Strand) : (s.modStrand sid f).gangs = s.gangs := rfl
@[simp] theorem State.modStrand_ctxs (s : State) (sid : Nat) (f : Strand → Strand) : (s.modStrand sid f).ctxs = s.ctxs := rfl
@[simp] theorem State.modStrand_kernels (s : State) (sid : Nat) (f : Strand → Strand) : (s.modStrand sid f).kernels = s.kernels := rfl
@[simp] theorem State.modStrand_launches (s : State) (sid : Nat) (f : Strand → Strand) : (s.modStrand sid f).launches = s.launches := rfl
@[simp] theorem State.modStrand_queues (s : State) (sid : Nat) (f : Strand → Strand) : (s.modStrand sid f).queues = s.queues := rfl
@[simp] theorem State.modStrand_links (s : State) (sid : Nat) (f : Strand → Strand) : (s.modStrand sid f).links = s.links := rfl
@[simp] theorem State.modStrand_sys (s : State) (sid : Nat) (f : Strand → Strand) : (s.modStrand sid f).sys = s.sys := rfl

@[simp] theorem State.putCore_turns (s : State) (c : Nat) (x : Core) : (s.putCore c x).turns = s.turns := rfl
@[simp] theorem State.putCore_rot (s : State) (c : Nat) (x : Core) : (s.putCore c x).rot = s.rot := rfl
@[simp] theorem State.putCore_pick (s : State) (c : Nat) (x : Core) : (s.putCore c x).pick = s.pick := rfl
@[simp] theorem State.putCore_fresh (s : State) (c : Nat) (x : Core) : (s.putCore c x).fresh = s.fresh := rfl
@[simp] theorem State.putCore_nextId (s : State) (c : Nat) (x : Core) : (s.putCore c x).nextId = s.nextId := rfl
@[simp] theorem State.putCore_cur (s : State) (c : Nat) (x : Core) : (s.putCore c x).cur = s.cur := rfl
@[simp] theorem State.putCore_cycle (s : State) (c : Nat) (x : Core) : (s.putCore c x).cycle = s.cycle := rfl
@[simp] theorem State.putCore_pkg (s : State) (c : Nat) (x : Core) : (s.putCore c x).pkg = s.pkg := rfl
@[simp] theorem State.putCore_strands (s : State) (c : Nat) (x : Core) : (s.putCore c x).strands = s.strands := rfl
@[simp] theorem State.putCore_cores (s : State) (c : Nat) (x : Core) : (s.putCore c x).cores = Tab.put s.cores c x := rfl
@[simp] theorem State.putCore_quads (s : State) (c : Nat) (x : Core) : (s.putCore c x).quads = s.quads := rfl
@[simp] theorem State.putCore_images (s : State) (c : Nat) (x : Core) : (s.putCore c x).images = s.images := rfl
@[simp] theorem State.putCore_mem (s : State) (c : Nat) (x : Core) : (s.putCore c x).mem = s.mem := rfl
@[simp] theorem State.putCore_caches (s : State) (c : Nat) (x : Core) : (s.putCore c x).caches = s.caches := rfl
@[simp] theorem State.putCore_prot (s : State) (c : Nat) (x : Core) : (s.putCore c x).prot = s.prot := rfl
@[simp] theorem State.putCore_xlat (s : State) (c : Nat) (x : Core) : (s.putCore c x).xlat = s.xlat := rfl
@[simp] theorem State.putCore_groups (s : State) (c : Nat) (x : Core) : (s.putCore c x).groups = s.groups := rfl
@[simp] theorem State.putCore_sync (s : State) (c : Nat) (x : Core) : (s.putCore c x).sync = s.sync := rfl
@[simp] theorem State.putCore_flights (s : State) (c : Nat) (x : Core) : (s.putCore c x).flights = s.flights := rfl
@[simp] theorem State.putCore_ops (s : State) (c : Nat) (x : Core) : (s.putCore c x).ops = s.ops := rfl
@[simp] theorem State.putCore_served (s : State) (c : Nat) (x : Core) : (s.putCore c x).served = s.served := rfl
@[simp] theorem State.putCore_gangs (s : State) (c : Nat) (x : Core) : (s.putCore c x).gangs = s.gangs := rfl
@[simp] theorem State.putCore_ctxs (s : State) (c : Nat) (x : Core) : (s.putCore c x).ctxs = s.ctxs := rfl
@[simp] theorem State.putCore_kernels (s : State) (c : Nat) (x : Core) : (s.putCore c x).kernels = s.kernels := rfl
@[simp] theorem State.putCore_launches (s : State) (c : Nat) (x : Core) : (s.putCore c x).launches = s.launches := rfl
@[simp] theorem State.putCore_queues (s : State) (c : Nat) (x : Core) : (s.putCore c x).queues = s.queues := rfl
@[simp] theorem State.putCore_links (s : State) (c : Nat) (x : Core) : (s.putCore c x).links = s.links := rfl
@[simp] theorem State.putCore_sys (s : State) (c : Nat) (x : Core) : (s.putCore c x).sys = s.sys := rfl

@[simp] theorem State.modCore_turns (s : State) (c : Nat) (f : Core → Core) : (s.modCore c f).turns = s.turns := rfl
@[simp] theorem State.modCore_rot (s : State) (c : Nat) (f : Core → Core) : (s.modCore c f).rot = s.rot := rfl
@[simp] theorem State.modCore_pick (s : State) (c : Nat) (f : Core → Core) : (s.modCore c f).pick = s.pick := rfl
@[simp] theorem State.modCore_fresh (s : State) (c : Nat) (f : Core → Core) : (s.modCore c f).fresh = s.fresh := rfl
@[simp] theorem State.modCore_nextId (s : State) (c : Nat) (f : Core → Core) : (s.modCore c f).nextId = s.nextId := rfl
@[simp] theorem State.modCore_cur (s : State) (c : Nat) (f : Core → Core) : (s.modCore c f).cur = s.cur := rfl
@[simp] theorem State.modCore_cycle (s : State) (c : Nat) (f : Core → Core) : (s.modCore c f).cycle = s.cycle := rfl
@[simp] theorem State.modCore_pkg (s : State) (c : Nat) (f : Core → Core) : (s.modCore c f).pkg = s.pkg := rfl
@[simp] theorem State.modCore_strands (s : State) (c : Nat) (f : Core → Core) : (s.modCore c f).strands = s.strands := rfl
@[simp] theorem State.modCore_cores (s : State) (c : Nat) (f : Core → Core) : (s.modCore c f).cores = Tab.modify s.cores c f := rfl
@[simp] theorem State.modCore_quads (s : State) (c : Nat) (f : Core → Core) : (s.modCore c f).quads = s.quads := rfl
@[simp] theorem State.modCore_images (s : State) (c : Nat) (f : Core → Core) : (s.modCore c f).images = s.images := rfl
@[simp] theorem State.modCore_mem (s : State) (c : Nat) (f : Core → Core) : (s.modCore c f).mem = s.mem := rfl
@[simp] theorem State.modCore_caches (s : State) (c : Nat) (f : Core → Core) : (s.modCore c f).caches = s.caches := rfl
@[simp] theorem State.modCore_prot (s : State) (c : Nat) (f : Core → Core) : (s.modCore c f).prot = s.prot := rfl
@[simp] theorem State.modCore_xlat (s : State) (c : Nat) (f : Core → Core) : (s.modCore c f).xlat = s.xlat := rfl
@[simp] theorem State.modCore_groups (s : State) (c : Nat) (f : Core → Core) : (s.modCore c f).groups = s.groups := rfl
@[simp] theorem State.modCore_sync (s : State) (c : Nat) (f : Core → Core) : (s.modCore c f).sync = s.sync := rfl
@[simp] theorem State.modCore_flights (s : State) (c : Nat) (f : Core → Core) : (s.modCore c f).flights = s.flights := rfl
@[simp] theorem State.modCore_ops (s : State) (c : Nat) (f : Core → Core) : (s.modCore c f).ops = s.ops := rfl
@[simp] theorem State.modCore_served (s : State) (c : Nat) (f : Core → Core) : (s.modCore c f).served = s.served := rfl
@[simp] theorem State.modCore_gangs (s : State) (c : Nat) (f : Core → Core) : (s.modCore c f).gangs = s.gangs := rfl
@[simp] theorem State.modCore_ctxs (s : State) (c : Nat) (f : Core → Core) : (s.modCore c f).ctxs = s.ctxs := rfl
@[simp] theorem State.modCore_kernels (s : State) (c : Nat) (f : Core → Core) : (s.modCore c f).kernels = s.kernels := rfl
@[simp] theorem State.modCore_launches (s : State) (c : Nat) (f : Core → Core) : (s.modCore c f).launches = s.launches := rfl
@[simp] theorem State.modCore_queues (s : State) (c : Nat) (f : Core → Core) : (s.modCore c f).queues = s.queues := rfl
@[simp] theorem State.modCore_links (s : State) (c : Nat) (f : Core → Core) : (s.modCore c f).links = s.links := rfl
@[simp] theorem State.modCore_sys (s : State) (c : Nat) (f : Core → Core) : (s.modCore c f).sys = s.sys := rfl

@[simp] theorem State.putQuad_turns (s : State) (q : Nat) (x : Quad) : (s.putQuad q x).turns = s.turns := rfl
@[simp] theorem State.putQuad_rot (s : State) (q : Nat) (x : Quad) : (s.putQuad q x).rot = s.rot := rfl
@[simp] theorem State.putQuad_pick (s : State) (q : Nat) (x : Quad) : (s.putQuad q x).pick = s.pick := rfl
@[simp] theorem State.putQuad_fresh (s : State) (q : Nat) (x : Quad) : (s.putQuad q x).fresh = s.fresh := rfl
@[simp] theorem State.putQuad_nextId (s : State) (q : Nat) (x : Quad) : (s.putQuad q x).nextId = s.nextId := rfl
@[simp] theorem State.putQuad_cur (s : State) (q : Nat) (x : Quad) : (s.putQuad q x).cur = s.cur := rfl
@[simp] theorem State.putQuad_cycle (s : State) (q : Nat) (x : Quad) : (s.putQuad q x).cycle = s.cycle := rfl
@[simp] theorem State.putQuad_pkg (s : State) (q : Nat) (x : Quad) : (s.putQuad q x).pkg = s.pkg := rfl
@[simp] theorem State.putQuad_strands (s : State) (q : Nat) (x : Quad) : (s.putQuad q x).strands = s.strands := rfl
@[simp] theorem State.putQuad_cores (s : State) (q : Nat) (x : Quad) : (s.putQuad q x).cores = s.cores := rfl
@[simp] theorem State.putQuad_quads (s : State) (q : Nat) (x : Quad) : (s.putQuad q x).quads = Tab.put s.quads q x := rfl
@[simp] theorem State.putQuad_images (s : State) (q : Nat) (x : Quad) : (s.putQuad q x).images = s.images := rfl
@[simp] theorem State.putQuad_mem (s : State) (q : Nat) (x : Quad) : (s.putQuad q x).mem = s.mem := rfl
@[simp] theorem State.putQuad_caches (s : State) (q : Nat) (x : Quad) : (s.putQuad q x).caches = s.caches := rfl
@[simp] theorem State.putQuad_prot (s : State) (q : Nat) (x : Quad) : (s.putQuad q x).prot = s.prot := rfl
@[simp] theorem State.putQuad_xlat (s : State) (q : Nat) (x : Quad) : (s.putQuad q x).xlat = s.xlat := rfl
@[simp] theorem State.putQuad_groups (s : State) (q : Nat) (x : Quad) : (s.putQuad q x).groups = s.groups := rfl
@[simp] theorem State.putQuad_sync (s : State) (q : Nat) (x : Quad) : (s.putQuad q x).sync = s.sync := rfl
@[simp] theorem State.putQuad_flights (s : State) (q : Nat) (x : Quad) : (s.putQuad q x).flights = s.flights := rfl
@[simp] theorem State.putQuad_ops (s : State) (q : Nat) (x : Quad) : (s.putQuad q x).ops = s.ops := rfl
@[simp] theorem State.putQuad_served (s : State) (q : Nat) (x : Quad) : (s.putQuad q x).served = s.served := rfl
@[simp] theorem State.putQuad_gangs (s : State) (q : Nat) (x : Quad) : (s.putQuad q x).gangs = s.gangs := rfl
@[simp] theorem State.putQuad_ctxs (s : State) (q : Nat) (x : Quad) : (s.putQuad q x).ctxs = s.ctxs := rfl
@[simp] theorem State.putQuad_kernels (s : State) (q : Nat) (x : Quad) : (s.putQuad q x).kernels = s.kernels := rfl
@[simp] theorem State.putQuad_launches (s : State) (q : Nat) (x : Quad) : (s.putQuad q x).launches = s.launches := rfl
@[simp] theorem State.putQuad_queues (s : State) (q : Nat) (x : Quad) : (s.putQuad q x).queues = s.queues := rfl
@[simp] theorem State.putQuad_links (s : State) (q : Nat) (x : Quad) : (s.putQuad q x).links = s.links := rfl
@[simp] theorem State.putQuad_sys (s : State) (q : Nat) (x : Quad) : (s.putQuad q x).sys = s.sys := rfl

@[simp] theorem State.setGroups_turns (s : State) (g : Groups) : (s.setGroups g).turns = s.turns := rfl
@[simp] theorem State.setGroups_rot (s : State) (g : Groups) : (s.setGroups g).rot = s.rot := rfl
@[simp] theorem State.setGroups_pick (s : State) (g : Groups) : (s.setGroups g).pick = s.pick := rfl
@[simp] theorem State.setGroups_fresh (s : State) (g : Groups) : (s.setGroups g).fresh = s.fresh := rfl
@[simp] theorem State.setGroups_nextId (s : State) (g : Groups) : (s.setGroups g).nextId = s.nextId := rfl
@[simp] theorem State.setGroups_cur (s : State) (g : Groups) : (s.setGroups g).cur = s.cur := rfl
@[simp] theorem State.setGroups_cycle (s : State) (g : Groups) : (s.setGroups g).cycle = s.cycle := rfl
@[simp] theorem State.setGroups_pkg (s : State) (g : Groups) : (s.setGroups g).pkg = s.pkg := rfl
@[simp] theorem State.setGroups_strands (s : State) (g : Groups) : (s.setGroups g).strands = s.strands := rfl
@[simp] theorem State.setGroups_cores (s : State) (g : Groups) : (s.setGroups g).cores = s.cores := rfl
@[simp] theorem State.setGroups_quads (s : State) (g : Groups) : (s.setGroups g).quads = s.quads := rfl
@[simp] theorem State.setGroups_images (s : State) (g : Groups) : (s.setGroups g).images = s.images := rfl
@[simp] theorem State.setGroups_mem (s : State) (g : Groups) : (s.setGroups g).mem = s.mem := rfl
@[simp] theorem State.setGroups_caches (s : State) (g : Groups) : (s.setGroups g).caches = s.caches := rfl
@[simp] theorem State.setGroups_prot (s : State) (g : Groups) : (s.setGroups g).prot = s.prot := rfl
@[simp] theorem State.setGroups_xlat (s : State) (g : Groups) : (s.setGroups g).xlat = s.xlat := rfl
@[simp] theorem State.setGroups_groups (s : State) (g : Groups) : (s.setGroups g).groups = g := rfl
@[simp] theorem State.setGroups_sync (s : State) (g : Groups) : (s.setGroups g).sync = s.sync := rfl
@[simp] theorem State.setGroups_flights (s : State) (g : Groups) : (s.setGroups g).flights = s.flights := rfl
@[simp] theorem State.setGroups_ops (s : State) (g : Groups) : (s.setGroups g).ops = s.ops := rfl
@[simp] theorem State.setGroups_served (s : State) (g : Groups) : (s.setGroups g).served = s.served := rfl
@[simp] theorem State.setGroups_gangs (s : State) (g : Groups) : (s.setGroups g).gangs = s.gangs := rfl
@[simp] theorem State.setGroups_ctxs (s : State) (g : Groups) : (s.setGroups g).ctxs = s.ctxs := rfl
@[simp] theorem State.setGroups_kernels (s : State) (g : Groups) : (s.setGroups g).kernels = s.kernels := rfl
@[simp] theorem State.setGroups_launches (s : State) (g : Groups) : (s.setGroups g).launches = s.launches := rfl
@[simp] theorem State.setGroups_queues (s : State) (g : Groups) : (s.setGroups g).queues = s.queues := rfl
@[simp] theorem State.setGroups_links (s : State) (g : Groups) : (s.setGroups g).links = s.links := rfl
@[simp] theorem State.setGroups_sys (s : State) (g : Groups) : (s.setGroups g).sys = s.sys := rfl

@[simp] theorem State.setSync_turns (s : State) (y : Sync) : (s.setSync y).turns = s.turns := rfl
@[simp] theorem State.setSync_rot (s : State) (y : Sync) : (s.setSync y).rot = s.rot := rfl
@[simp] theorem State.setSync_pick (s : State) (y : Sync) : (s.setSync y).pick = s.pick := rfl
@[simp] theorem State.setSync_fresh (s : State) (y : Sync) : (s.setSync y).fresh = s.fresh := rfl
@[simp] theorem State.setSync_nextId (s : State) (y : Sync) : (s.setSync y).nextId = s.nextId := rfl
@[simp] theorem State.setSync_cur (s : State) (y : Sync) : (s.setSync y).cur = s.cur := rfl
@[simp] theorem State.setSync_cycle (s : State) (y : Sync) : (s.setSync y).cycle = s.cycle := rfl
@[simp] theorem State.setSync_pkg (s : State) (y : Sync) : (s.setSync y).pkg = s.pkg := rfl
@[simp] theorem State.setSync_strands (s : State) (y : Sync) : (s.setSync y).strands = s.strands := rfl
@[simp] theorem State.setSync_cores (s : State) (y : Sync) : (s.setSync y).cores = s.cores := rfl
@[simp] theorem State.setSync_quads (s : State) (y : Sync) : (s.setSync y).quads = s.quads := rfl
@[simp] theorem State.setSync_images (s : State) (y : Sync) : (s.setSync y).images = s.images := rfl
@[simp] theorem State.setSync_mem (s : State) (y : Sync) : (s.setSync y).mem = s.mem := rfl
@[simp] theorem State.setSync_caches (s : State) (y : Sync) : (s.setSync y).caches = s.caches := rfl
@[simp] theorem State.setSync_prot (s : State) (y : Sync) : (s.setSync y).prot = s.prot := rfl
@[simp] theorem State.setSync_xlat (s : State) (y : Sync) : (s.setSync y).xlat = s.xlat := rfl
@[simp] theorem State.setSync_groups (s : State) (y : Sync) : (s.setSync y).groups = s.groups := rfl
@[simp] theorem State.setSync_sync (s : State) (y : Sync) : (s.setSync y).sync = y := rfl
@[simp] theorem State.setSync_flights (s : State) (y : Sync) : (s.setSync y).flights = s.flights := rfl
@[simp] theorem State.setSync_ops (s : State) (y : Sync) : (s.setSync y).ops = s.ops := rfl
@[simp] theorem State.setSync_served (s : State) (y : Sync) : (s.setSync y).served = s.served := rfl
@[simp] theorem State.setSync_gangs (s : State) (y : Sync) : (s.setSync y).gangs = s.gangs := rfl
@[simp] theorem State.setSync_ctxs (s : State) (y : Sync) : (s.setSync y).ctxs = s.ctxs := rfl
@[simp] theorem State.setSync_kernels (s : State) (y : Sync) : (s.setSync y).kernels = s.kernels := rfl
@[simp] theorem State.setSync_launches (s : State) (y : Sync) : (s.setSync y).launches = s.launches := rfl
@[simp] theorem State.setSync_queues (s : State) (y : Sync) : (s.setSync y).queues = s.queues := rfl
@[simp] theorem State.setSync_links (s : State) (y : Sync) : (s.setSync y).links = s.links := rfl
@[simp] theorem State.setSync_sys (s : State) (y : Sync) : (s.setSync y).sys = s.sys := rfl

@[simp] theorem State.setXlat_turns (s : State) (x : Xlat) : (s.setXlat x).turns = s.turns := rfl
@[simp] theorem State.setXlat_rot (s : State) (x : Xlat) : (s.setXlat x).rot = s.rot := rfl
@[simp] theorem State.setXlat_pick (s : State) (x : Xlat) : (s.setXlat x).pick = s.pick := rfl
@[simp] theorem State.setXlat_fresh (s : State) (x : Xlat) : (s.setXlat x).fresh = s.fresh := rfl
@[simp] theorem State.setXlat_nextId (s : State) (x : Xlat) : (s.setXlat x).nextId = s.nextId := rfl
@[simp] theorem State.setXlat_cur (s : State) (x : Xlat) : (s.setXlat x).cur = s.cur := rfl
@[simp] theorem State.setXlat_cycle (s : State) (x : Xlat) : (s.setXlat x).cycle = s.cycle := rfl
@[simp] theorem State.setXlat_pkg (s : State) (x : Xlat) : (s.setXlat x).pkg = s.pkg := rfl
@[simp] theorem State.setXlat_strands (s : State) (x : Xlat) : (s.setXlat x).strands = s.strands := rfl
@[simp] theorem State.setXlat_cores (s : State) (x : Xlat) : (s.setXlat x).cores = s.cores := rfl
@[simp] theorem State.setXlat_quads (s : State) (x : Xlat) : (s.setXlat x).quads = s.quads := rfl
@[simp] theorem State.setXlat_images (s : State) (x : Xlat) : (s.setXlat x).images = s.images := rfl
@[simp] theorem State.setXlat_mem (s : State) (x : Xlat) : (s.setXlat x).mem = s.mem := rfl
@[simp] theorem State.setXlat_caches (s : State) (x : Xlat) : (s.setXlat x).caches = s.caches := rfl
@[simp] theorem State.setXlat_prot (s : State) (x : Xlat) : (s.setXlat x).prot = s.prot := rfl
@[simp] theorem State.setXlat_xlat (s : State) (x : Xlat) : (s.setXlat x).xlat = x := rfl
@[simp] theorem State.setXlat_groups (s : State) (x : Xlat) : (s.setXlat x).groups = s.groups := rfl
@[simp] theorem State.setXlat_sync (s : State) (x : Xlat) : (s.setXlat x).sync = s.sync := rfl
@[simp] theorem State.setXlat_flights (s : State) (x : Xlat) : (s.setXlat x).flights = s.flights := rfl
@[simp] theorem State.setXlat_ops (s : State) (x : Xlat) : (s.setXlat x).ops = s.ops := rfl
@[simp] theorem State.setXlat_served (s : State) (x : Xlat) : (s.setXlat x).served = s.served := rfl
@[simp] theorem State.setXlat_gangs (s : State) (x : Xlat) : (s.setXlat x).gangs = s.gangs := rfl
@[simp] theorem State.setXlat_ctxs (s : State) (x : Xlat) : (s.setXlat x).ctxs = s.ctxs := rfl
@[simp] theorem State.setXlat_kernels (s : State) (x : Xlat) : (s.setXlat x).kernels = s.kernels := rfl
@[simp] theorem State.setXlat_launches (s : State) (x : Xlat) : (s.setXlat x).launches = s.launches := rfl
@[simp] theorem State.setXlat_queues (s : State) (x : Xlat) : (s.setXlat x).queues = s.queues := rfl
@[simp] theorem State.setXlat_links (s : State) (x : Xlat) : (s.setXlat x).links = s.links := rfl
@[simp] theorem State.setXlat_sys (s : State) (x : Xlat) : (s.setXlat x).sys = s.sys := rfl

@[simp] theorem State.setSys_turns (s : State) (x : System) : (s.setSys x).turns = s.turns := rfl
@[simp] theorem State.setSys_rot (s : State) (x : System) : (s.setSys x).rot = s.rot := rfl
@[simp] theorem State.setSys_pick (s : State) (x : System) : (s.setSys x).pick = s.pick := rfl
@[simp] theorem State.setSys_fresh (s : State) (x : System) : (s.setSys x).fresh = s.fresh := rfl
@[simp] theorem State.setSys_nextId (s : State) (x : System) : (s.setSys x).nextId = s.nextId := rfl
@[simp] theorem State.setSys_cur (s : State) (x : System) : (s.setSys x).cur = s.cur := rfl
@[simp] theorem State.setSys_cycle (s : State) (x : System) : (s.setSys x).cycle = s.cycle := rfl
@[simp] theorem State.setSys_pkg (s : State) (x : System) : (s.setSys x).pkg = s.pkg := rfl
@[simp] theorem State.setSys_strands (s : State) (x : System) : (s.setSys x).strands = s.strands := rfl
@[simp] theorem State.setSys_cores (s : State) (x : System) : (s.setSys x).cores = s.cores := rfl
@[simp] theorem State.setSys_quads (s : State) (x : System) : (s.setSys x).quads = s.quads := rfl
@[simp] theorem State.setSys_images (s : State) (x : System) : (s.setSys x).images = s.images := rfl
@[simp] theorem State.setSys_mem (s : State) (x : System) : (s.setSys x).mem = s.mem := rfl
@[simp] theorem State.setSys_caches (s : State) (x : System) : (s.setSys x).caches = s.caches := rfl
@[simp] theorem State.setSys_prot (s : State) (x : System) : (s.setSys x).prot = s.prot := rfl
@[simp] theorem State.setSys_xlat (s : State) (x : System) : (s.setSys x).xlat = s.xlat := rfl
@[simp] theorem State.setSys_groups (s : State) (x : System) : (s.setSys x).groups = s.groups := rfl
@[simp] theorem State.setSys_sync (s : State) (x : System) : (s.setSys x).sync = s.sync := rfl
@[simp] theorem State.setSys_flights (s : State) (x : System) : (s.setSys x).flights = s.flights := rfl
@[simp] theorem State.setSys_ops (s : State) (x : System) : (s.setSys x).ops = s.ops := rfl
@[simp] theorem State.setSys_served (s : State) (x : System) : (s.setSys x).served = s.served := rfl
@[simp] theorem State.setSys_gangs (s : State) (x : System) : (s.setSys x).gangs = s.gangs := rfl
@[simp] theorem State.setSys_ctxs (s : State) (x : System) : (s.setSys x).ctxs = s.ctxs := rfl
@[simp] theorem State.setSys_kernels (s : State) (x : System) : (s.setSys x).kernels = s.kernels := rfl
@[simp] theorem State.setSys_launches (s : State) (x : System) : (s.setSys x).launches = s.launches := rfl
@[simp] theorem State.setSys_queues (s : State) (x : System) : (s.setSys x).queues = s.queues := rfl
@[simp] theorem State.setSys_links (s : State) (x : System) : (s.setSys x).links = s.links := rfl
@[simp] theorem State.setSys_sys (s : State) (x : System) : (s.setSys x).sys = x := rfl

@[simp] theorem State.setLinks_turns (s : State) (x : Links) : (s.setLinks x).turns = s.turns := rfl
@[simp] theorem State.setLinks_rot (s : State) (x : Links) : (s.setLinks x).rot = s.rot := rfl
@[simp] theorem State.setLinks_pick (s : State) (x : Links) : (s.setLinks x).pick = s.pick := rfl
@[simp] theorem State.setLinks_fresh (s : State) (x : Links) : (s.setLinks x).fresh = s.fresh := rfl
@[simp] theorem State.setLinks_nextId (s : State) (x : Links) : (s.setLinks x).nextId = s.nextId := rfl
@[simp] theorem State.setLinks_cur (s : State) (x : Links) : (s.setLinks x).cur = s.cur := rfl
@[simp] theorem State.setLinks_cycle (s : State) (x : Links) : (s.setLinks x).cycle = s.cycle := rfl
@[simp] theorem State.setLinks_pkg (s : State) (x : Links) : (s.setLinks x).pkg = s.pkg := rfl
@[simp] theorem State.setLinks_strands (s : State) (x : Links) : (s.setLinks x).strands = s.strands := rfl
@[simp] theorem State.setLinks_cores (s : State) (x : Links) : (s.setLinks x).cores = s.cores := rfl
@[simp] theorem State.setLinks_quads (s : State) (x : Links) : (s.setLinks x).quads = s.quads := rfl
@[simp] theorem State.setLinks_images (s : State) (x : Links) : (s.setLinks x).images = s.images := rfl
@[simp] theorem State.setLinks_mem (s : State) (x : Links) : (s.setLinks x).mem = s.mem := rfl
@[simp] theorem State.setLinks_caches (s : State) (x : Links) : (s.setLinks x).caches = s.caches := rfl
@[simp] theorem State.setLinks_prot (s : State) (x : Links) : (s.setLinks x).prot = s.prot := rfl
@[simp] theorem State.setLinks_xlat (s : State) (x : Links) : (s.setLinks x).xlat = s.xlat := rfl
@[simp] theorem State.setLinks_groups (s : State) (x : Links) : (s.setLinks x).groups = s.groups := rfl
@[simp] theorem State.setLinks_sync (s : State) (x : Links) : (s.setLinks x).sync = s.sync := rfl
@[simp] theorem State.setLinks_flights (s : State) (x : Links) : (s.setLinks x).flights = s.flights := rfl
@[simp] theorem State.setLinks_ops (s : State) (x : Links) : (s.setLinks x).ops = s.ops := rfl
@[simp] theorem State.setLinks_served (s : State) (x : Links) : (s.setLinks x).served = s.served := rfl
@[simp] theorem State.setLinks_gangs (s : State) (x : Links) : (s.setLinks x).gangs = s.gangs := rfl
@[simp] theorem State.setLinks_ctxs (s : State) (x : Links) : (s.setLinks x).ctxs = s.ctxs := rfl
@[simp] theorem State.setLinks_kernels (s : State) (x : Links) : (s.setLinks x).kernels = s.kernels := rfl
@[simp] theorem State.setLinks_launches (s : State) (x : Links) : (s.setLinks x).launches = s.launches := rfl
@[simp] theorem State.setLinks_queues (s : State) (x : Links) : (s.setLinks x).queues = s.queues := rfl
@[simp] theorem State.setLinks_links (s : State) (x : Links) : (s.setLinks x).links = x := rfl
@[simp] theorem State.setLinks_sys (s : State) (x : Links) : (s.setLinks x).sys = s.sys := rfl

@[simp] theorem State.setFlights_turns (s : State) (t : Tab Flight) : (s.setFlights t).turns = s.turns := rfl
@[simp] theorem State.setFlights_rot (s : State) (t : Tab Flight) : (s.setFlights t).rot = s.rot := rfl
@[simp] theorem State.setFlights_pick (s : State) (t : Tab Flight) : (s.setFlights t).pick = s.pick := rfl
@[simp] theorem State.setFlights_fresh (s : State) (t : Tab Flight) : (s.setFlights t).fresh = s.fresh := rfl
@[simp] theorem State.setFlights_nextId (s : State) (t : Tab Flight) : (s.setFlights t).nextId = s.nextId := rfl
@[simp] theorem State.setFlights_cur (s : State) (t : Tab Flight) : (s.setFlights t).cur = s.cur := rfl
@[simp] theorem State.setFlights_cycle (s : State) (t : Tab Flight) : (s.setFlights t).cycle = s.cycle := rfl
@[simp] theorem State.setFlights_pkg (s : State) (t : Tab Flight) : (s.setFlights t).pkg = s.pkg := rfl
@[simp] theorem State.setFlights_strands (s : State) (t : Tab Flight) : (s.setFlights t).strands = s.strands := rfl
@[simp] theorem State.setFlights_cores (s : State) (t : Tab Flight) : (s.setFlights t).cores = s.cores := rfl
@[simp] theorem State.setFlights_quads (s : State) (t : Tab Flight) : (s.setFlights t).quads = s.quads := rfl
@[simp] theorem State.setFlights_images (s : State) (t : Tab Flight) : (s.setFlights t).images = s.images := rfl
@[simp] theorem State.setFlights_mem (s : State) (t : Tab Flight) : (s.setFlights t).mem = s.mem := rfl
@[simp] theorem State.setFlights_caches (s : State) (t : Tab Flight) : (s.setFlights t).caches = s.caches := rfl
@[simp] theorem State.setFlights_prot (s : State) (t : Tab Flight) : (s.setFlights t).prot = s.prot := rfl
@[simp] theorem State.setFlights_xlat (s : State) (t : Tab Flight) : (s.setFlights t).xlat = s.xlat := rfl
@[simp] theorem State.setFlights_groups (s : State) (t : Tab Flight) : (s.setFlights t).groups = s.groups := rfl
@[simp] theorem State.setFlights_sync (s : State) (t : Tab Flight) : (s.setFlights t).sync = s.sync := rfl
@[simp] theorem State.setFlights_flights (s : State) (t : Tab Flight) : (s.setFlights t).flights = t := rfl
@[simp] theorem State.setFlights_ops (s : State) (t : Tab Flight) : (s.setFlights t).ops = s.ops := rfl
@[simp] theorem State.setFlights_served (s : State) (t : Tab Flight) : (s.setFlights t).served = s.served := rfl
@[simp] theorem State.setFlights_gangs (s : State) (t : Tab Flight) : (s.setFlights t).gangs = s.gangs := rfl
@[simp] theorem State.setFlights_ctxs (s : State) (t : Tab Flight) : (s.setFlights t).ctxs = s.ctxs := rfl
@[simp] theorem State.setFlights_kernels (s : State) (t : Tab Flight) : (s.setFlights t).kernels = s.kernels := rfl
@[simp] theorem State.setFlights_launches (s : State) (t : Tab Flight) : (s.setFlights t).launches = s.launches := rfl
@[simp] theorem State.setFlights_queues (s : State) (t : Tab Flight) : (s.setFlights t).queues = s.queues := rfl
@[simp] theorem State.setFlights_links (s : State) (t : Tab Flight) : (s.setFlights t).links = s.links := rfl
@[simp] theorem State.setFlights_sys (s : State) (t : Tab Flight) : (s.setFlights t).sys = s.sys := rfl

@[simp] theorem State.delFlight_turns (s : State) (id : Nat) : (s.delFlight id).turns = s.turns := rfl
@[simp] theorem State.delFlight_rot (s : State) (id : Nat) : (s.delFlight id).rot = s.rot := rfl
@[simp] theorem State.delFlight_pick (s : State) (id : Nat) : (s.delFlight id).pick = s.pick := rfl
@[simp] theorem State.delFlight_fresh (s : State) (id : Nat) : (s.delFlight id).fresh = s.fresh := rfl
@[simp] theorem State.delFlight_nextId (s : State) (id : Nat) : (s.delFlight id).nextId = s.nextId := rfl
@[simp] theorem State.delFlight_cur (s : State) (id : Nat) : (s.delFlight id).cur = s.cur := rfl
@[simp] theorem State.delFlight_cycle (s : State) (id : Nat) : (s.delFlight id).cycle = s.cycle := rfl
@[simp] theorem State.delFlight_pkg (s : State) (id : Nat) : (s.delFlight id).pkg = s.pkg := rfl
@[simp] theorem State.delFlight_strands (s : State) (id : Nat) : (s.delFlight id).strands = s.strands := rfl
@[simp] theorem State.delFlight_cores (s : State) (id : Nat) : (s.delFlight id).cores = s.cores := rfl
@[simp] theorem State.delFlight_quads (s : State) (id : Nat) : (s.delFlight id).quads = s.quads := rfl
@[simp] theorem State.delFlight_images (s : State) (id : Nat) : (s.delFlight id).images = s.images := rfl
@[simp] theorem State.delFlight_mem (s : State) (id : Nat) : (s.delFlight id).mem = s.mem := rfl
@[simp] theorem State.delFlight_caches (s : State) (id : Nat) : (s.delFlight id).caches = s.caches := rfl
@[simp] theorem State.delFlight_prot (s : State) (id : Nat) : (s.delFlight id).prot = s.prot := rfl
@[simp] theorem State.delFlight_xlat (s : State) (id : Nat) : (s.delFlight id).xlat = s.xlat := rfl
@[simp] theorem State.delFlight_groups (s : State) (id : Nat) : (s.delFlight id).groups = s.groups := rfl
@[simp] theorem State.delFlight_sync (s : State) (id : Nat) : (s.delFlight id).sync = s.sync := rfl
@[simp] theorem State.delFlight_flights (s : State) (id : Nat) : (s.delFlight id).flights = Tab.del s.flights id := rfl
@[simp] theorem State.delFlight_ops (s : State) (id : Nat) : (s.delFlight id).ops = s.ops := rfl
@[simp] theorem State.delFlight_served (s : State) (id : Nat) : (s.delFlight id).served = s.served := rfl
@[simp] theorem State.delFlight_gangs (s : State) (id : Nat) : (s.delFlight id).gangs = s.gangs := rfl
@[simp] theorem State.delFlight_ctxs (s : State) (id : Nat) : (s.delFlight id).ctxs = s.ctxs := rfl
@[simp] theorem State.delFlight_kernels (s : State) (id : Nat) : (s.delFlight id).kernels = s.kernels := rfl
@[simp] theorem State.delFlight_launches (s : State) (id : Nat) : (s.delFlight id).launches = s.launches := rfl
@[simp] theorem State.delFlight_queues (s : State) (id : Nat) : (s.delFlight id).queues = s.queues := rfl
@[simp] theorem State.delFlight_links (s : State) (id : Nat) : (s.delFlight id).links = s.links := rfl
@[simp] theorem State.delFlight_sys (s : State) (id : Nat) : (s.delFlight id).sys = s.sys := rfl

@[simp] theorem State.putOp_turns (s : State) (id : Nat) (x : EngineOp) : (s.putOp id x).turns = s.turns := rfl
@[simp] theorem State.putOp_rot (s : State) (id : Nat) (x : EngineOp) : (s.putOp id x).rot = s.rot := rfl
@[simp] theorem State.putOp_pick (s : State) (id : Nat) (x : EngineOp) : (s.putOp id x).pick = s.pick := rfl
@[simp] theorem State.putOp_fresh (s : State) (id : Nat) (x : EngineOp) : (s.putOp id x).fresh = s.fresh := rfl
@[simp] theorem State.putOp_nextId (s : State) (id : Nat) (x : EngineOp) : (s.putOp id x).nextId = s.nextId := rfl
@[simp] theorem State.putOp_cur (s : State) (id : Nat) (x : EngineOp) : (s.putOp id x).cur = s.cur := rfl
@[simp] theorem State.putOp_cycle (s : State) (id : Nat) (x : EngineOp) : (s.putOp id x).cycle = s.cycle := rfl
@[simp] theorem State.putOp_pkg (s : State) (id : Nat) (x : EngineOp) : (s.putOp id x).pkg = s.pkg := rfl
@[simp] theorem State.putOp_strands (s : State) (id : Nat) (x : EngineOp) : (s.putOp id x).strands = s.strands := rfl
@[simp] theorem State.putOp_cores (s : State) (id : Nat) (x : EngineOp) : (s.putOp id x).cores = s.cores := rfl
@[simp] theorem State.putOp_quads (s : State) (id : Nat) (x : EngineOp) : (s.putOp id x).quads = s.quads := rfl
@[simp] theorem State.putOp_images (s : State) (id : Nat) (x : EngineOp) : (s.putOp id x).images = s.images := rfl
@[simp] theorem State.putOp_mem (s : State) (id : Nat) (x : EngineOp) : (s.putOp id x).mem = s.mem := rfl
@[simp] theorem State.putOp_caches (s : State) (id : Nat) (x : EngineOp) : (s.putOp id x).caches = s.caches := rfl
@[simp] theorem State.putOp_prot (s : State) (id : Nat) (x : EngineOp) : (s.putOp id x).prot = s.prot := rfl
@[simp] theorem State.putOp_xlat (s : State) (id : Nat) (x : EngineOp) : (s.putOp id x).xlat = s.xlat := rfl
@[simp] theorem State.putOp_groups (s : State) (id : Nat) (x : EngineOp) : (s.putOp id x).groups = s.groups := rfl
@[simp] theorem State.putOp_sync (s : State) (id : Nat) (x : EngineOp) : (s.putOp id x).sync = s.sync := rfl
@[simp] theorem State.putOp_flights (s : State) (id : Nat) (x : EngineOp) : (s.putOp id x).flights = s.flights := rfl
@[simp] theorem State.putOp_ops (s : State) (id : Nat) (x : EngineOp) : (s.putOp id x).ops = Tab.put s.ops id x := rfl
@[simp] theorem State.putOp_served (s : State) (id : Nat) (x : EngineOp) : (s.putOp id x).served = s.served := rfl
@[simp] theorem State.putOp_gangs (s : State) (id : Nat) (x : EngineOp) : (s.putOp id x).gangs = s.gangs := rfl
@[simp] theorem State.putOp_ctxs (s : State) (id : Nat) (x : EngineOp) : (s.putOp id x).ctxs = s.ctxs := rfl
@[simp] theorem State.putOp_kernels (s : State) (id : Nat) (x : EngineOp) : (s.putOp id x).kernels = s.kernels := rfl
@[simp] theorem State.putOp_launches (s : State) (id : Nat) (x : EngineOp) : (s.putOp id x).launches = s.launches := rfl
@[simp] theorem State.putOp_queues (s : State) (id : Nat) (x : EngineOp) : (s.putOp id x).queues = s.queues := rfl
@[simp] theorem State.putOp_links (s : State) (id : Nat) (x : EngineOp) : (s.putOp id x).links = s.links := rfl
@[simp] theorem State.putOp_sys (s : State) (id : Nat) (x : EngineOp) : (s.putOp id x).sys = s.sys := rfl

@[simp] theorem State.delOp_turns (s : State) (id : Nat) : (s.delOp id).turns = s.turns := rfl
@[simp] theorem State.delOp_rot (s : State) (id : Nat) : (s.delOp id).rot = s.rot := rfl
@[simp] theorem State.delOp_pick (s : State) (id : Nat) : (s.delOp id).pick = s.pick := rfl
@[simp] theorem State.delOp_fresh (s : State) (id : Nat) : (s.delOp id).fresh = s.fresh := rfl
@[simp] theorem State.delOp_nextId (s : State) (id : Nat) : (s.delOp id).nextId = s.nextId := rfl
@[simp] theorem State.delOp_cur (s : State) (id : Nat) : (s.delOp id).cur = s.cur := rfl
@[simp] theorem State.delOp_cycle (s : State) (id : Nat) : (s.delOp id).cycle = s.cycle := rfl
@[simp] theorem State.delOp_pkg (s : State) (id : Nat) : (s.delOp id).pkg = s.pkg := rfl
@[simp] theorem State.delOp_strands (s : State) (id : Nat) : (s.delOp id).strands = s.strands := rfl
@[simp] theorem State.delOp_cores (s : State) (id : Nat) : (s.delOp id).cores = s.cores := rfl
@[simp] theorem State.delOp_quads (s : State) (id : Nat) : (s.delOp id).quads = s.quads := rfl
@[simp] theorem State.delOp_images (s : State) (id : Nat) : (s.delOp id).images = s.images := rfl
@[simp] theorem State.delOp_mem (s : State) (id : Nat) : (s.delOp id).mem = s.mem := rfl
@[simp] theorem State.delOp_caches (s : State) (id : Nat) : (s.delOp id).caches = s.caches := rfl
@[simp] theorem State.delOp_prot (s : State) (id : Nat) : (s.delOp id).prot = s.prot := rfl
@[simp] theorem State.delOp_xlat (s : State) (id : Nat) : (s.delOp id).xlat = s.xlat := rfl
@[simp] theorem State.delOp_groups (s : State) (id : Nat) : (s.delOp id).groups = s.groups := rfl
@[simp] theorem State.delOp_sync (s : State) (id : Nat) : (s.delOp id).sync = s.sync := rfl
@[simp] theorem State.delOp_flights (s : State) (id : Nat) : (s.delOp id).flights = s.flights := rfl
@[simp] theorem State.delOp_ops (s : State) (id : Nat) : (s.delOp id).ops = Tab.del s.ops id := rfl
@[simp] theorem State.delOp_served (s : State) (id : Nat) : (s.delOp id).served = s.served := rfl
@[simp] theorem State.delOp_gangs (s : State) (id : Nat) : (s.delOp id).gangs = s.gangs := rfl
@[simp] theorem State.delOp_ctxs (s : State) (id : Nat) : (s.delOp id).ctxs = s.ctxs := rfl
@[simp] theorem State.delOp_kernels (s : State) (id : Nat) : (s.delOp id).kernels = s.kernels := rfl
@[simp] theorem State.delOp_launches (s : State) (id : Nat) : (s.delOp id).launches = s.launches := rfl
@[simp] theorem State.delOp_queues (s : State) (id : Nat) : (s.delOp id).queues = s.queues := rfl
@[simp] theorem State.delOp_links (s : State) (id : Nat) : (s.delOp id).links = s.links := rfl
@[simp] theorem State.delOp_sys (s : State) (id : Nat) : (s.delOp id).sys = s.sys := rfl

@[simp] theorem State.putScope_turns (s : State) (key : Nat) (r : Scope) : (s.putScope key r).turns = s.turns := rfl
@[simp] theorem State.putScope_rot (s : State) (key : Nat) (r : Scope) : (s.putScope key r).rot = s.rot := rfl
@[simp] theorem State.putScope_pick (s : State) (key : Nat) (r : Scope) : (s.putScope key r).pick = s.pick := rfl
@[simp] theorem State.putScope_fresh (s : State) (key : Nat) (r : Scope) : (s.putScope key r).fresh = s.fresh := rfl
@[simp] theorem State.putScope_nextId (s : State) (key : Nat) (r : Scope) : (s.putScope key r).nextId = s.nextId := rfl
@[simp] theorem State.putScope_cur (s : State) (key : Nat) (r : Scope) : (s.putScope key r).cur = s.cur := rfl
@[simp] theorem State.putScope_cycle (s : State) (key : Nat) (r : Scope) : (s.putScope key r).cycle = s.cycle := rfl
@[simp] theorem State.putScope_pkg (s : State) (key : Nat) (r : Scope) : (s.putScope key r).pkg = s.pkg := rfl
@[simp] theorem State.putScope_strands (s : State) (key : Nat) (r : Scope) : (s.putScope key r).strands = s.strands := rfl
@[simp] theorem State.putScope_cores (s : State) (key : Nat) (r : Scope) : (s.putScope key r).cores = s.cores := rfl
@[simp] theorem State.putScope_quads (s : State) (key : Nat) (r : Scope) : (s.putScope key r).quads = s.quads := rfl
@[simp] theorem State.putScope_images (s : State) (key : Nat) (r : Scope) : (s.putScope key r).images = s.images := rfl
@[simp] theorem State.putScope_mem (s : State) (key : Nat) (r : Scope) : (s.putScope key r).mem = s.mem := rfl
@[simp] theorem State.putScope_caches (s : State) (key : Nat) (r : Scope) : (s.putScope key r).caches = s.caches := rfl
@[simp] theorem State.putScope_prot (s : State) (key : Nat) (r : Scope) : (s.putScope key r).prot = s.prot := rfl
@[simp] theorem State.putScope_xlat (s : State) (key : Nat) (r : Scope) : (s.putScope key r).xlat = s.xlat := rfl
@[simp] theorem State.putScope_groups (s : State) (key : Nat) (r : Scope) : (s.putScope key r).groups = { s.groups with scopes := Tab.put s.groups.scopes key r, recent := useScope s.groups.recent key } := rfl
@[simp] theorem State.putScope_sync (s : State) (key : Nat) (r : Scope) : (s.putScope key r).sync = s.sync := rfl
@[simp] theorem State.putScope_flights (s : State) (key : Nat) (r : Scope) : (s.putScope key r).flights = s.flights := rfl
@[simp] theorem State.putScope_ops (s : State) (key : Nat) (r : Scope) : (s.putScope key r).ops = s.ops := rfl
@[simp] theorem State.putScope_served (s : State) (key : Nat) (r : Scope) : (s.putScope key r).served = s.served := rfl
@[simp] theorem State.putScope_gangs (s : State) (key : Nat) (r : Scope) : (s.putScope key r).gangs = s.gangs := rfl
@[simp] theorem State.putScope_ctxs (s : State) (key : Nat) (r : Scope) : (s.putScope key r).ctxs = s.ctxs := rfl
@[simp] theorem State.putScope_kernels (s : State) (key : Nat) (r : Scope) : (s.putScope key r).kernels = s.kernels := rfl
@[simp] theorem State.putScope_launches (s : State) (key : Nat) (r : Scope) : (s.putScope key r).launches = s.launches := rfl
@[simp] theorem State.putScope_queues (s : State) (key : Nat) (r : Scope) : (s.putScope key r).queues = s.queues := rfl
@[simp] theorem State.putScope_links (s : State) (key : Nat) (r : Scope) : (s.putScope key r).links = s.links := rfl
@[simp] theorem State.putScope_sys (s : State) (key : Nat) (r : Scope) : (s.putScope key r).sys = s.sys := rfl

@[simp] theorem State.putCtx_turns (s : State) (c : Nat) (x : Context) : (s.putCtx c x).turns = s.turns := rfl
@[simp] theorem State.putCtx_rot (s : State) (c : Nat) (x : Context) : (s.putCtx c x).rot = s.rot := rfl
@[simp] theorem State.putCtx_pick (s : State) (c : Nat) (x : Context) : (s.putCtx c x).pick = s.pick := rfl
@[simp] theorem State.putCtx_fresh (s : State) (c : Nat) (x : Context) : (s.putCtx c x).fresh = s.fresh := rfl
@[simp] theorem State.putCtx_nextId (s : State) (c : Nat) (x : Context) : (s.putCtx c x).nextId = s.nextId := rfl
@[simp] theorem State.putCtx_cur (s : State) (c : Nat) (x : Context) : (s.putCtx c x).cur = s.cur := rfl
@[simp] theorem State.putCtx_cycle (s : State) (c : Nat) (x : Context) : (s.putCtx c x).cycle = s.cycle := rfl
@[simp] theorem State.putCtx_pkg (s : State) (c : Nat) (x : Context) : (s.putCtx c x).pkg = s.pkg := rfl
@[simp] theorem State.putCtx_strands (s : State) (c : Nat) (x : Context) : (s.putCtx c x).strands = s.strands := rfl
@[simp] theorem State.putCtx_cores (s : State) (c : Nat) (x : Context) : (s.putCtx c x).cores = s.cores := rfl
@[simp] theorem State.putCtx_quads (s : State) (c : Nat) (x : Context) : (s.putCtx c x).quads = s.quads := rfl
@[simp] theorem State.putCtx_images (s : State) (c : Nat) (x : Context) : (s.putCtx c x).images = s.images := rfl
@[simp] theorem State.putCtx_mem (s : State) (c : Nat) (x : Context) : (s.putCtx c x).mem = s.mem := rfl
@[simp] theorem State.putCtx_caches (s : State) (c : Nat) (x : Context) : (s.putCtx c x).caches = s.caches := rfl
@[simp] theorem State.putCtx_prot (s : State) (c : Nat) (x : Context) : (s.putCtx c x).prot = s.prot := rfl
@[simp] theorem State.putCtx_xlat (s : State) (c : Nat) (x : Context) : (s.putCtx c x).xlat = s.xlat := rfl
@[simp] theorem State.putCtx_groups (s : State) (c : Nat) (x : Context) : (s.putCtx c x).groups = s.groups := rfl
@[simp] theorem State.putCtx_sync (s : State) (c : Nat) (x : Context) : (s.putCtx c x).sync = s.sync := rfl
@[simp] theorem State.putCtx_flights (s : State) (c : Nat) (x : Context) : (s.putCtx c x).flights = s.flights := rfl
@[simp] theorem State.putCtx_ops (s : State) (c : Nat) (x : Context) : (s.putCtx c x).ops = s.ops := rfl
@[simp] theorem State.putCtx_served (s : State) (c : Nat) (x : Context) : (s.putCtx c x).served = s.served := rfl
@[simp] theorem State.putCtx_gangs (s : State) (c : Nat) (x : Context) : (s.putCtx c x).gangs = s.gangs := rfl
@[simp] theorem State.putCtx_ctxs (s : State) (c : Nat) (x : Context) : (s.putCtx c x).ctxs = Tab.put s.ctxs c x := rfl
@[simp] theorem State.putCtx_kernels (s : State) (c : Nat) (x : Context) : (s.putCtx c x).kernels = s.kernels := rfl
@[simp] theorem State.putCtx_launches (s : State) (c : Nat) (x : Context) : (s.putCtx c x).launches = s.launches := rfl
@[simp] theorem State.putCtx_queues (s : State) (c : Nat) (x : Context) : (s.putCtx c x).queues = s.queues := rfl
@[simp] theorem State.putCtx_links (s : State) (c : Nat) (x : Context) : (s.putCtx c x).links = s.links := rfl
@[simp] theorem State.putCtx_sys (s : State) (c : Nat) (x : Context) : (s.putCtx c x).sys = s.sys := rfl

@[simp] theorem State.putKernel_turns (s : State) (key : Nat) (x : Kernel) : (s.putKernel key x).turns = s.turns := rfl
@[simp] theorem State.putKernel_rot (s : State) (key : Nat) (x : Kernel) : (s.putKernel key x).rot = s.rot := rfl
@[simp] theorem State.putKernel_pick (s : State) (key : Nat) (x : Kernel) : (s.putKernel key x).pick = s.pick := rfl
@[simp] theorem State.putKernel_fresh (s : State) (key : Nat) (x : Kernel) : (s.putKernel key x).fresh = s.fresh := rfl
@[simp] theorem State.putKernel_nextId (s : State) (key : Nat) (x : Kernel) : (s.putKernel key x).nextId = s.nextId := rfl
@[simp] theorem State.putKernel_cur (s : State) (key : Nat) (x : Kernel) : (s.putKernel key x).cur = s.cur := rfl
@[simp] theorem State.putKernel_cycle (s : State) (key : Nat) (x : Kernel) : (s.putKernel key x).cycle = s.cycle := rfl
@[simp] theorem State.putKernel_pkg (s : State) (key : Nat) (x : Kernel) : (s.putKernel key x).pkg = s.pkg := rfl
@[simp] theorem State.putKernel_strands (s : State) (key : Nat) (x : Kernel) : (s.putKernel key x).strands = s.strands := rfl
@[simp] theorem State.putKernel_cores (s : State) (key : Nat) (x : Kernel) : (s.putKernel key x).cores = s.cores := rfl
@[simp] theorem State.putKernel_quads (s : State) (key : Nat) (x : Kernel) : (s.putKernel key x).quads = s.quads := rfl
@[simp] theorem State.putKernel_images (s : State) (key : Nat) (x : Kernel) : (s.putKernel key x).images = s.images := rfl
@[simp] theorem State.putKernel_mem (s : State) (key : Nat) (x : Kernel) : (s.putKernel key x).mem = s.mem := rfl
@[simp] theorem State.putKernel_caches (s : State) (key : Nat) (x : Kernel) : (s.putKernel key x).caches = s.caches := rfl
@[simp] theorem State.putKernel_prot (s : State) (key : Nat) (x : Kernel) : (s.putKernel key x).prot = s.prot := rfl
@[simp] theorem State.putKernel_xlat (s : State) (key : Nat) (x : Kernel) : (s.putKernel key x).xlat = s.xlat := rfl
@[simp] theorem State.putKernel_groups (s : State) (key : Nat) (x : Kernel) : (s.putKernel key x).groups = s.groups := rfl
@[simp] theorem State.putKernel_sync (s : State) (key : Nat) (x : Kernel) : (s.putKernel key x).sync = s.sync := rfl
@[simp] theorem State.putKernel_flights (s : State) (key : Nat) (x : Kernel) : (s.putKernel key x).flights = s.flights := rfl
@[simp] theorem State.putKernel_ops (s : State) (key : Nat) (x : Kernel) : (s.putKernel key x).ops = s.ops := rfl
@[simp] theorem State.putKernel_served (s : State) (key : Nat) (x : Kernel) : (s.putKernel key x).served = s.served := rfl
@[simp] theorem State.putKernel_gangs (s : State) (key : Nat) (x : Kernel) : (s.putKernel key x).gangs = s.gangs := rfl
@[simp] theorem State.putKernel_ctxs (s : State) (key : Nat) (x : Kernel) : (s.putKernel key x).ctxs = s.ctxs := rfl
@[simp] theorem State.putKernel_kernels (s : State) (key : Nat) (x : Kernel) : (s.putKernel key x).kernels = Tab.put s.kernels key x := rfl
@[simp] theorem State.putKernel_launches (s : State) (key : Nat) (x : Kernel) : (s.putKernel key x).launches = s.launches := rfl
@[simp] theorem State.putKernel_queues (s : State) (key : Nat) (x : Kernel) : (s.putKernel key x).queues = s.queues := rfl
@[simp] theorem State.putKernel_links (s : State) (key : Nat) (x : Kernel) : (s.putKernel key x).links = s.links := rfl
@[simp] theorem State.putKernel_sys (s : State) (key : Nat) (x : Kernel) : (s.putKernel key x).sys = s.sys := rfl

@[simp] theorem State.putQueue_turns (s : State) (q : Nat) (x : Queue) : (s.putQueue q x).turns = s.turns := rfl
@[simp] theorem State.putQueue_rot (s : State) (q : Nat) (x : Queue) : (s.putQueue q x).rot = s.rot := rfl
@[simp] theorem State.putQueue_pick (s : State) (q : Nat) (x : Queue) : (s.putQueue q x).pick = s.pick := rfl
@[simp] theorem State.putQueue_fresh (s : State) (q : Nat) (x : Queue) : (s.putQueue q x).fresh = s.fresh := rfl
@[simp] theorem State.putQueue_nextId (s : State) (q : Nat) (x : Queue) : (s.putQueue q x).nextId = s.nextId := rfl
@[simp] theorem State.putQueue_cur (s : State) (q : Nat) (x : Queue) : (s.putQueue q x).cur = s.cur := rfl
@[simp] theorem State.putQueue_cycle (s : State) (q : Nat) (x : Queue) : (s.putQueue q x).cycle = s.cycle := rfl
@[simp] theorem State.putQueue_pkg (s : State) (q : Nat) (x : Queue) : (s.putQueue q x).pkg = s.pkg := rfl
@[simp] theorem State.putQueue_strands (s : State) (q : Nat) (x : Queue) : (s.putQueue q x).strands = s.strands := rfl
@[simp] theorem State.putQueue_cores (s : State) (q : Nat) (x : Queue) : (s.putQueue q x).cores = s.cores := rfl
@[simp] theorem State.putQueue_quads (s : State) (q : Nat) (x : Queue) : (s.putQueue q x).quads = s.quads := rfl
@[simp] theorem State.putQueue_images (s : State) (q : Nat) (x : Queue) : (s.putQueue q x).images = s.images := rfl
@[simp] theorem State.putQueue_mem (s : State) (q : Nat) (x : Queue) : (s.putQueue q x).mem = s.mem := rfl
@[simp] theorem State.putQueue_caches (s : State) (q : Nat) (x : Queue) : (s.putQueue q x).caches = s.caches := rfl
@[simp] theorem State.putQueue_prot (s : State) (q : Nat) (x : Queue) : (s.putQueue q x).prot = s.prot := rfl
@[simp] theorem State.putQueue_xlat (s : State) (q : Nat) (x : Queue) : (s.putQueue q x).xlat = s.xlat := rfl
@[simp] theorem State.putQueue_groups (s : State) (q : Nat) (x : Queue) : (s.putQueue q x).groups = s.groups := rfl
@[simp] theorem State.putQueue_sync (s : State) (q : Nat) (x : Queue) : (s.putQueue q x).sync = s.sync := rfl
@[simp] theorem State.putQueue_flights (s : State) (q : Nat) (x : Queue) : (s.putQueue q x).flights = s.flights := rfl
@[simp] theorem State.putQueue_ops (s : State) (q : Nat) (x : Queue) : (s.putQueue q x).ops = s.ops := rfl
@[simp] theorem State.putQueue_served (s : State) (q : Nat) (x : Queue) : (s.putQueue q x).served = s.served := rfl
@[simp] theorem State.putQueue_gangs (s : State) (q : Nat) (x : Queue) : (s.putQueue q x).gangs = s.gangs := rfl
@[simp] theorem State.putQueue_ctxs (s : State) (q : Nat) (x : Queue) : (s.putQueue q x).ctxs = s.ctxs := rfl
@[simp] theorem State.putQueue_kernels (s : State) (q : Nat) (x : Queue) : (s.putQueue q x).kernels = s.kernels := rfl
@[simp] theorem State.putQueue_launches (s : State) (q : Nat) (x : Queue) : (s.putQueue q x).launches = s.launches := rfl
@[simp] theorem State.putQueue_queues (s : State) (q : Nat) (x : Queue) : (s.putQueue q x).queues = Tab.put s.queues q x := rfl
@[simp] theorem State.putQueue_links (s : State) (q : Nat) (x : Queue) : (s.putQueue q x).links = s.links := rfl
@[simp] theorem State.putQueue_sys (s : State) (q : Nat) (x : Queue) : (s.putQueue q x).sys = s.sys := rfl

@[simp] theorem State.send_turns (s : State) (f : Flight) : (s.send f).turns = s.turns := rfl
@[simp] theorem State.send_rot (s : State) (f : Flight) : (s.send f).rot = s.rot := rfl
@[simp] theorem State.send_pick (s : State) (f : Flight) : (s.send f).pick = s.pick := rfl
@[simp] theorem State.send_fresh (s : State) (f : Flight) : (s.send f).fresh = s.fresh := rfl
@[simp] theorem State.send_nextId (s : State) (f : Flight) : (s.send f).nextId = s.nextId + 1 := rfl
@[simp] theorem State.send_cur (s : State) (f : Flight) : (s.send f).cur = s.cur := rfl
@[simp] theorem State.send_cycle (s : State) (f : Flight) : (s.send f).cycle = s.cycle := rfl
@[simp] theorem State.send_pkg (s : State) (f : Flight) : (s.send f).pkg = s.pkg := rfl
@[simp] theorem State.send_strands (s : State) (f : Flight) : (s.send f).strands = s.strands := rfl
@[simp] theorem State.send_cores (s : State) (f : Flight) : (s.send f).cores = s.cores := rfl
@[simp] theorem State.send_quads (s : State) (f : Flight) : (s.send f).quads = s.quads := rfl
@[simp] theorem State.send_images (s : State) (f : Flight) : (s.send f).images = s.images := rfl
@[simp] theorem State.send_mem (s : State) (f : Flight) : (s.send f).mem = s.mem := rfl
@[simp] theorem State.send_caches (s : State) (f : Flight) : (s.send f).caches = s.caches := rfl
@[simp] theorem State.send_prot (s : State) (f : Flight) : (s.send f).prot = s.prot := rfl
@[simp] theorem State.send_xlat (s : State) (f : Flight) : (s.send f).xlat = s.xlat := rfl
@[simp] theorem State.send_groups (s : State) (f : Flight) : (s.send f).groups = s.groups := rfl
@[simp] theorem State.send_sync (s : State) (f : Flight) : (s.send f).sync = s.sync := rfl
@[simp] theorem State.send_flights (s : State) (f : Flight) : (s.send f).flights = Tab.put s.flights s.nextId f := rfl
@[simp] theorem State.send_ops (s : State) (f : Flight) : (s.send f).ops = s.ops := rfl
@[simp] theorem State.send_served (s : State) (f : Flight) : (s.send f).served = s.served := rfl
@[simp] theorem State.send_gangs (s : State) (f : Flight) : (s.send f).gangs = s.gangs := rfl
@[simp] theorem State.send_ctxs (s : State) (f : Flight) : (s.send f).ctxs = s.ctxs := rfl
@[simp] theorem State.send_kernels (s : State) (f : Flight) : (s.send f).kernels = s.kernels := rfl
@[simp] theorem State.send_launches (s : State) (f : Flight) : (s.send f).launches = s.launches := rfl
@[simp] theorem State.send_queues (s : State) (f : Flight) : (s.send f).queues = s.queues := rfl
@[simp] theorem State.send_links (s : State) (f : Flight) : (s.send f).links = s.links := rfl
@[simp] theorem State.send_sys (s : State) (f : Flight) : (s.send f).sys = s.sys := rfl

@[simp] theorem State.nextFree_turns (s : State) : (s.nextFree).turns = s.turns := rfl
@[simp] theorem State.nextFree_rot (s : State) : (s.nextFree).rot = s.rot := rfl
@[simp] theorem State.nextFree_pick (s : State) : (s.nextFree).pick = s.pick := rfl
@[simp] theorem State.nextFree_fresh (s : State) : (s.nextFree).fresh = s.fresh + 1 := rfl
@[simp] theorem State.nextFree_nextId (s : State) : (s.nextFree).nextId = s.nextId := rfl
@[simp] theorem State.nextFree_cur (s : State) : (s.nextFree).cur = s.cur := rfl
@[simp] theorem State.nextFree_cycle (s : State) : (s.nextFree).cycle = s.cycle := rfl
@[simp] theorem State.nextFree_pkg (s : State) : (s.nextFree).pkg = s.pkg := rfl
@[simp] theorem State.nextFree_strands (s : State) : (s.nextFree).strands = s.strands := rfl
@[simp] theorem State.nextFree_cores (s : State) : (s.nextFree).cores = s.cores := rfl
@[simp] theorem State.nextFree_quads (s : State) : (s.nextFree).quads = s.quads := rfl
@[simp] theorem State.nextFree_images (s : State) : (s.nextFree).images = s.images := rfl
@[simp] theorem State.nextFree_mem (s : State) : (s.nextFree).mem = s.mem := rfl
@[simp] theorem State.nextFree_caches (s : State) : (s.nextFree).caches = s.caches := rfl
@[simp] theorem State.nextFree_prot (s : State) : (s.nextFree).prot = s.prot := rfl
@[simp] theorem State.nextFree_xlat (s : State) : (s.nextFree).xlat = s.xlat := rfl
@[simp] theorem State.nextFree_groups (s : State) : (s.nextFree).groups = s.groups := rfl
@[simp] theorem State.nextFree_sync (s : State) : (s.nextFree).sync = s.sync := rfl
@[simp] theorem State.nextFree_flights (s : State) : (s.nextFree).flights = s.flights := rfl
@[simp] theorem State.nextFree_ops (s : State) : (s.nextFree).ops = s.ops := rfl
@[simp] theorem State.nextFree_served (s : State) : (s.nextFree).served = s.served := rfl
@[simp] theorem State.nextFree_gangs (s : State) : (s.nextFree).gangs = s.gangs := rfl
@[simp] theorem State.nextFree_ctxs (s : State) : (s.nextFree).ctxs = s.ctxs := rfl
@[simp] theorem State.nextFree_kernels (s : State) : (s.nextFree).kernels = s.kernels := rfl
@[simp] theorem State.nextFree_launches (s : State) : (s.nextFree).launches = s.launches := rfl
@[simp] theorem State.nextFree_queues (s : State) : (s.nextFree).queues = s.queues := rfl
@[simp] theorem State.nextFree_links (s : State) : (s.nextFree).links = s.links := rfl
@[simp] theorem State.nextFree_sys (s : State) : (s.nextFree).sys = s.sys := rfl

@[simp] theorem State.setMem_turns (s : State) (m : Memory) : (s.setMem m).turns = s.turns := rfl
@[simp] theorem State.setMem_rot (s : State) (m : Memory) : (s.setMem m).rot = s.rot := rfl
@[simp] theorem State.setMem_pick (s : State) (m : Memory) : (s.setMem m).pick = s.pick := rfl
@[simp] theorem State.setMem_fresh (s : State) (m : Memory) : (s.setMem m).fresh = s.fresh := rfl
@[simp] theorem State.setMem_nextId (s : State) (m : Memory) : (s.setMem m).nextId = s.nextId := rfl
@[simp] theorem State.setMem_cur (s : State) (m : Memory) : (s.setMem m).cur = s.cur := rfl
@[simp] theorem State.setMem_cycle (s : State) (m : Memory) : (s.setMem m).cycle = s.cycle := rfl
@[simp] theorem State.setMem_pkg (s : State) (m : Memory) : (s.setMem m).pkg = s.pkg := rfl
@[simp] theorem State.setMem_strands (s : State) (m : Memory) : (s.setMem m).strands = s.strands := rfl
@[simp] theorem State.setMem_cores (s : State) (m : Memory) : (s.setMem m).cores = s.cores := rfl
@[simp] theorem State.setMem_quads (s : State) (m : Memory) : (s.setMem m).quads = s.quads := rfl
@[simp] theorem State.setMem_images (s : State) (m : Memory) : (s.setMem m).images = s.images := rfl
@[simp] theorem State.setMem_mem (s : State) (m : Memory) : (s.setMem m).mem = m := rfl
@[simp] theorem State.setMem_caches (s : State) (m : Memory) : (s.setMem m).caches = s.caches := rfl
@[simp] theorem State.setMem_prot (s : State) (m : Memory) : (s.setMem m).prot = s.prot := rfl
@[simp] theorem State.setMem_xlat (s : State) (m : Memory) : (s.setMem m).xlat = s.xlat := rfl
@[simp] theorem State.setMem_groups (s : State) (m : Memory) : (s.setMem m).groups = s.groups := rfl
@[simp] theorem State.setMem_sync (s : State) (m : Memory) : (s.setMem m).sync = s.sync := rfl
@[simp] theorem State.setMem_flights (s : State) (m : Memory) : (s.setMem m).flights = s.flights := rfl
@[simp] theorem State.setMem_ops (s : State) (m : Memory) : (s.setMem m).ops = s.ops := rfl
@[simp] theorem State.setMem_served (s : State) (m : Memory) : (s.setMem m).served = s.served := rfl
@[simp] theorem State.setMem_gangs (s : State) (m : Memory) : (s.setMem m).gangs = s.gangs := rfl
@[simp] theorem State.setMem_ctxs (s : State) (m : Memory) : (s.setMem m).ctxs = s.ctxs := rfl
@[simp] theorem State.setMem_kernels (s : State) (m : Memory) : (s.setMem m).kernels = s.kernels := rfl
@[simp] theorem State.setMem_launches (s : State) (m : Memory) : (s.setMem m).launches = s.launches := rfl
@[simp] theorem State.setMem_queues (s : State) (m : Memory) : (s.setMem m).queues = s.queues := rfl
@[simp] theorem State.setMem_links (s : State) (m : Memory) : (s.setMem m).links = s.links := rfl
@[simp] theorem State.setMem_sys (s : State) (m : Memory) : (s.setMem m).sys = s.sys := rfl

@[simp] theorem State.setProt_turns (s : State) (p : Prot) : (s.setProt p).turns = s.turns := rfl
@[simp] theorem State.setProt_rot (s : State) (p : Prot) : (s.setProt p).rot = s.rot := rfl
@[simp] theorem State.setProt_pick (s : State) (p : Prot) : (s.setProt p).pick = s.pick := rfl
@[simp] theorem State.setProt_fresh (s : State) (p : Prot) : (s.setProt p).fresh = s.fresh := rfl
@[simp] theorem State.setProt_nextId (s : State) (p : Prot) : (s.setProt p).nextId = s.nextId := rfl
@[simp] theorem State.setProt_cur (s : State) (p : Prot) : (s.setProt p).cur = s.cur := rfl
@[simp] theorem State.setProt_cycle (s : State) (p : Prot) : (s.setProt p).cycle = s.cycle := rfl
@[simp] theorem State.setProt_pkg (s : State) (p : Prot) : (s.setProt p).pkg = s.pkg := rfl
@[simp] theorem State.setProt_strands (s : State) (p : Prot) : (s.setProt p).strands = s.strands := rfl
@[simp] theorem State.setProt_cores (s : State) (p : Prot) : (s.setProt p).cores = s.cores := rfl
@[simp] theorem State.setProt_quads (s : State) (p : Prot) : (s.setProt p).quads = s.quads := rfl
@[simp] theorem State.setProt_images (s : State) (p : Prot) : (s.setProt p).images = s.images := rfl
@[simp] theorem State.setProt_mem (s : State) (p : Prot) : (s.setProt p).mem = s.mem := rfl
@[simp] theorem State.setProt_caches (s : State) (p : Prot) : (s.setProt p).caches = s.caches := rfl
@[simp] theorem State.setProt_prot (s : State) (p : Prot) : (s.setProt p).prot = p := rfl
@[simp] theorem State.setProt_xlat (s : State) (p : Prot) : (s.setProt p).xlat = s.xlat := rfl
@[simp] theorem State.setProt_groups (s : State) (p : Prot) : (s.setProt p).groups = s.groups := rfl
@[simp] theorem State.setProt_sync (s : State) (p : Prot) : (s.setProt p).sync = s.sync := rfl
@[simp] theorem State.setProt_flights (s : State) (p : Prot) : (s.setProt p).flights = s.flights := rfl
@[simp] theorem State.setProt_ops (s : State) (p : Prot) : (s.setProt p).ops = s.ops := rfl
@[simp] theorem State.setProt_served (s : State) (p : Prot) : (s.setProt p).served = s.served := rfl
@[simp] theorem State.setProt_gangs (s : State) (p : Prot) : (s.setProt p).gangs = s.gangs := rfl
@[simp] theorem State.setProt_ctxs (s : State) (p : Prot) : (s.setProt p).ctxs = s.ctxs := rfl
@[simp] theorem State.setProt_kernels (s : State) (p : Prot) : (s.setProt p).kernels = s.kernels := rfl
@[simp] theorem State.setProt_launches (s : State) (p : Prot) : (s.setProt p).launches = s.launches := rfl
@[simp] theorem State.setProt_queues (s : State) (p : Prot) : (s.setProt p).queues = s.queues := rfl
@[simp] theorem State.setProt_links (s : State) (p : Prot) : (s.setProt p).links = s.links := rfl
@[simp] theorem State.setProt_sys (s : State) (p : Prot) : (s.setProt p).sys = s.sys := rfl

@[simp] theorem State.setCaches_turns (s : State) (x : Caches) : (s.setCaches x).turns = s.turns := rfl
@[simp] theorem State.setCaches_rot (s : State) (x : Caches) : (s.setCaches x).rot = s.rot := rfl
@[simp] theorem State.setCaches_pick (s : State) (x : Caches) : (s.setCaches x).pick = s.pick := rfl
@[simp] theorem State.setCaches_fresh (s : State) (x : Caches) : (s.setCaches x).fresh = s.fresh := rfl
@[simp] theorem State.setCaches_nextId (s : State) (x : Caches) : (s.setCaches x).nextId = s.nextId := rfl
@[simp] theorem State.setCaches_cur (s : State) (x : Caches) : (s.setCaches x).cur = s.cur := rfl
@[simp] theorem State.setCaches_cycle (s : State) (x : Caches) : (s.setCaches x).cycle = s.cycle := rfl
@[simp] theorem State.setCaches_pkg (s : State) (x : Caches) : (s.setCaches x).pkg = s.pkg := rfl
@[simp] theorem State.setCaches_strands (s : State) (x : Caches) : (s.setCaches x).strands = s.strands := rfl
@[simp] theorem State.setCaches_cores (s : State) (x : Caches) : (s.setCaches x).cores = s.cores := rfl
@[simp] theorem State.setCaches_quads (s : State) (x : Caches) : (s.setCaches x).quads = s.quads := rfl
@[simp] theorem State.setCaches_images (s : State) (x : Caches) : (s.setCaches x).images = s.images := rfl
@[simp] theorem State.setCaches_mem (s : State) (x : Caches) : (s.setCaches x).mem = s.mem := rfl
@[simp] theorem State.setCaches_caches (s : State) (x : Caches) : (s.setCaches x).caches = x := rfl
@[simp] theorem State.setCaches_prot (s : State) (x : Caches) : (s.setCaches x).prot = s.prot := rfl
@[simp] theorem State.setCaches_xlat (s : State) (x : Caches) : (s.setCaches x).xlat = s.xlat := rfl
@[simp] theorem State.setCaches_groups (s : State) (x : Caches) : (s.setCaches x).groups = s.groups := rfl
@[simp] theorem State.setCaches_sync (s : State) (x : Caches) : (s.setCaches x).sync = s.sync := rfl
@[simp] theorem State.setCaches_flights (s : State) (x : Caches) : (s.setCaches x).flights = s.flights := rfl
@[simp] theorem State.setCaches_ops (s : State) (x : Caches) : (s.setCaches x).ops = s.ops := rfl
@[simp] theorem State.setCaches_served (s : State) (x : Caches) : (s.setCaches x).served = s.served := rfl
@[simp] theorem State.setCaches_gangs (s : State) (x : Caches) : (s.setCaches x).gangs = s.gangs := rfl
@[simp] theorem State.setCaches_ctxs (s : State) (x : Caches) : (s.setCaches x).ctxs = s.ctxs := rfl
@[simp] theorem State.setCaches_kernels (s : State) (x : Caches) : (s.setCaches x).kernels = s.kernels := rfl
@[simp] theorem State.setCaches_launches (s : State) (x : Caches) : (s.setCaches x).launches = s.launches := rfl
@[simp] theorem State.setCaches_queues (s : State) (x : Caches) : (s.setCaches x).queues = s.queues := rfl
@[simp] theorem State.setCaches_links (s : State) (x : Caches) : (s.setCaches x).links = s.links := rfl
@[simp] theorem State.setCaches_sys (s : State) (x : Caches) : (s.setCaches x).sys = s.sys := rfl

/-! ### The strand's record -/

@[simp] theorem Strand.setG_ctx (k : Strand) (r : Nat) (x : GReg) : (k.setG r x).ctx = k.ctx := rfl
@[simp] theorem Strand.setG_entry (k : Strand) (r : Nat) (x : GReg) : (k.setG r x).entry = k.entry := rfl
@[simp] theorem Strand.setG_gen (k : Strand) (r : Nat) (x : GReg) : (k.setG r x).gen = k.gen := rfl
@[simp] theorem Strand.setG_ticket (k : Strand) (r : Nat) (x : GReg) : (k.setG r x).ticket = k.ticket := rfl
@[simp] theorem Strand.setG_kernel (k : Strand) (r : Nat) (x : GReg) : (k.setG r x).kernel = k.kernel := rfl
@[simp] theorem Strand.setG_core (k : Strand) (r : Nat) (x : GReg) : (k.setG r x).core = k.core := rfl
@[simp] theorem Strand.setG_slot (k : Strand) (r : Nat) (x : GReg) : (k.setG r x).slot = k.slot := rfl
@[simp] theorem Strand.setG_phase (k : Strand) (r : Nat) (x : GReg) : (k.setG r x).phase = k.phase := rfl
@[simp] theorem Strand.setG_out (k : Strand) (r : Nat) (x : GReg) : (k.setG r x).out = k.out := rfl
@[simp] theorem Strand.setG_stall (k : Strand) (r : Nat) (x : GReg) : (k.setG r x).stall = k.stall := rfl
@[simp] theorem Strand.setG_vcount (k : Strand) (r : Nat) (x : GReg) : (k.setG r x).vcount = k.vcount := rfl
@[simp] theorem Strand.setG_vregs (k : Strand) (r : Nat) (x : GReg) : (k.setG r x).vregs = k.vregs := rfl
@[simp] theorem Strand.setG_masks (k : Strand) (r : Nat) (x : GReg) : (k.setG r x).masks = k.masks := rfl
@[simp] theorem Strand.setG_pc (k : Strand) (r : Nat) (x : GReg) : (k.setG r x).pc = k.pc := rfl
@[simp] theorem Strand.setG_ep (k : Strand) (r : Nat) (x : GReg) : (k.setG r x).ep = k.ep := rfl
@[simp] theorem Strand.setG_st (k : Strand) (r : Nat) (x : GReg) : (k.setG r x).st = k.st := rfl
@[simp] theorem Strand.setG_sc (k : Strand) (r : Nat) (x : GReg) : (k.setG r x).sc = k.sc := rfl
@[simp] theorem Strand.setG_share (k : Strand) (r : Nat) (x : GReg) : (k.setG r x).share = k.share := rfl
@[simp] theorem Strand.setG_eager (k : Strand) (r : Nat) (x : GReg) : (k.setG r x).eager = k.eager := rfl
@[simp] theorem Strand.setG_counts (k : Strand) (r : Nat) (x : GReg) : (k.setG r x).counts = k.counts := rfl
@[simp] theorem Strand.setG_run (k : Strand) (r : Nat) (x : GReg) : (k.setG r x).run = k.run := rfl
@[simp] theorem Strand.setG_pair (k : Strand) (r : Nat) (x : GReg) : (k.setG r x).pair = k.pair := rfl
@[simp] theorem Strand.setG_recheck (k : Strand) (r : Nat) (x : GReg) : (k.setG r x).recheck = k.recheck := rfl
@[simp] theorem Strand.setG_again (k : Strand) (r : Nat) (x : GReg) : (k.setG r x).again = k.again := rfl
@[simp] theorem Strand.setG_since (k : Strand) (r : Nat) (x : GReg) : (k.setG r x).since = k.since := rfl
@[simp] theorem Strand.setG_ibuf (k : Strand) (r : Nat) (x : GReg) : (k.setG r x).ibuf = k.ibuf := rfl
@[simp] theorem Strand.setG_vccTarget (k : Strand) (r : Nat) (x : GReg) : (k.setG r x).vccTarget = k.vccTarget := rfl
@[simp] theorem Strand.setG_gang (k : Strand) (r : Nat) (x : GReg) : (k.setG r x).gang = k.gang := rfl
@[simp] theorem Strand.setG_gangAborted (k : Strand) (r : Nat) (x : GReg) : (k.setG r x).gangAborted = k.gangAborted := rfl
@[simp] theorem Strand.setG_mail (k : Strand) (r : Nat) (x : GReg) : (k.setG r x).mail = k.mail := rfl
@[simp] theorem Strand.setG_lost (k : Strand) (r : Nat) (x : GReg) : (k.setG r x).lost = k.lost := rfl
@[simp] theorem Strand.setG_yieldTo (k : Strand) (r : Nat) (x : GReg) : (k.setG r x).yieldTo = k.yieldTo := rfl
@[simp] theorem Strand.setG_yieldBy (k : Strand) (r : Nat) (x : GReg) : (k.setG r x).yieldBy = k.yieldBy := rfl
@[simp] theorem Strand.setG_opened (k : Strand) (r : Nat) (x : GReg) : (k.setG r x).opened = k.opened := rfl
@[simp] theorem Strand.setG_worst (k : Strand) (r : Nat) (x : GReg) : (k.setG r x).worst = k.worst := rfl
@[simp] theorem Strand.setG_errs (k : Strand) (r : Nat) (x : GReg) : (k.setG r x).errs = Tab.del k.errs (r % 16) := rfl
@[simp] theorem Strand.setG_acq (k : Strand) (r : Nat) (x : GReg) : (k.setG r x).acq = k.acq := rfl

@[simp] theorem Strand.writeG_ctx (k : Strand) (r : Nat) (x : Word) : (k.writeG r x).ctx = k.ctx := rfl
@[simp] theorem Strand.writeG_entry (k : Strand) (r : Nat) (x : Word) : (k.writeG r x).entry = k.entry := rfl
@[simp] theorem Strand.writeG_gen (k : Strand) (r : Nat) (x : Word) : (k.writeG r x).gen = k.gen := rfl
@[simp] theorem Strand.writeG_ticket (k : Strand) (r : Nat) (x : Word) : (k.writeG r x).ticket = k.ticket := rfl
@[simp] theorem Strand.writeG_kernel (k : Strand) (r : Nat) (x : Word) : (k.writeG r x).kernel = k.kernel := rfl
@[simp] theorem Strand.writeG_core (k : Strand) (r : Nat) (x : Word) : (k.writeG r x).core = k.core := rfl
@[simp] theorem Strand.writeG_slot (k : Strand) (r : Nat) (x : Word) : (k.writeG r x).slot = k.slot := rfl
@[simp] theorem Strand.writeG_phase (k : Strand) (r : Nat) (x : Word) : (k.writeG r x).phase = k.phase := rfl
@[simp] theorem Strand.writeG_out (k : Strand) (r : Nat) (x : Word) : (k.writeG r x).out = k.out := rfl
@[simp] theorem Strand.writeG_stall (k : Strand) (r : Nat) (x : Word) : (k.writeG r x).stall = k.stall := rfl
@[simp] theorem Strand.writeG_vcount (k : Strand) (r : Nat) (x : Word) : (k.writeG r x).vcount = k.vcount := rfl
@[simp] theorem Strand.writeG_vregs (k : Strand) (r : Nat) (x : Word) : (k.writeG r x).vregs = k.vregs := rfl
@[simp] theorem Strand.writeG_masks (k : Strand) (r : Nat) (x : Word) : (k.writeG r x).masks = k.masks := rfl
@[simp] theorem Strand.writeG_pc (k : Strand) (r : Nat) (x : Word) : (k.writeG r x).pc = k.pc := rfl
@[simp] theorem Strand.writeG_ep (k : Strand) (r : Nat) (x : Word) : (k.writeG r x).ep = k.ep := rfl
@[simp] theorem Strand.writeG_st (k : Strand) (r : Nat) (x : Word) : (k.writeG r x).st = k.st := rfl
@[simp] theorem Strand.writeG_sc (k : Strand) (r : Nat) (x : Word) : (k.writeG r x).sc = k.sc := rfl
@[simp] theorem Strand.writeG_share (k : Strand) (r : Nat) (x : Word) : (k.writeG r x).share = k.share := rfl
@[simp] theorem Strand.writeG_eager (k : Strand) (r : Nat) (x : Word) : (k.writeG r x).eager = k.eager := rfl
@[simp] theorem Strand.writeG_counts (k : Strand) (r : Nat) (x : Word) : (k.writeG r x).counts = k.counts := rfl
@[simp] theorem Strand.writeG_run (k : Strand) (r : Nat) (x : Word) : (k.writeG r x).run = k.run := rfl
@[simp] theorem Strand.writeG_pair (k : Strand) (r : Nat) (x : Word) : (k.writeG r x).pair = k.pair := rfl
@[simp] theorem Strand.writeG_recheck (k : Strand) (r : Nat) (x : Word) : (k.writeG r x).recheck = k.recheck := rfl
@[simp] theorem Strand.writeG_again (k : Strand) (r : Nat) (x : Word) : (k.writeG r x).again = k.again := rfl
@[simp] theorem Strand.writeG_since (k : Strand) (r : Nat) (x : Word) : (k.writeG r x).since = k.since := rfl
@[simp] theorem Strand.writeG_ibuf (k : Strand) (r : Nat) (x : Word) : (k.writeG r x).ibuf = k.ibuf := rfl
@[simp] theorem Strand.writeG_vccTarget (k : Strand) (r : Nat) (x : Word) : (k.writeG r x).vccTarget = k.vccTarget := rfl
@[simp] theorem Strand.writeG_gang (k : Strand) (r : Nat) (x : Word) : (k.writeG r x).gang = k.gang := rfl
@[simp] theorem Strand.writeG_gangAborted (k : Strand) (r : Nat) (x : Word) : (k.writeG r x).gangAborted = k.gangAborted := rfl
@[simp] theorem Strand.writeG_mail (k : Strand) (r : Nat) (x : Word) : (k.writeG r x).mail = k.mail := rfl
@[simp] theorem Strand.writeG_lost (k : Strand) (r : Nat) (x : Word) : (k.writeG r x).lost = k.lost := rfl
@[simp] theorem Strand.writeG_yieldTo (k : Strand) (r : Nat) (x : Word) : (k.writeG r x).yieldTo = k.yieldTo := rfl
@[simp] theorem Strand.writeG_yieldBy (k : Strand) (r : Nat) (x : Word) : (k.writeG r x).yieldBy = k.yieldBy := rfl
@[simp] theorem Strand.writeG_opened (k : Strand) (r : Nat) (x : Word) : (k.writeG r x).opened = k.opened := rfl
@[simp] theorem Strand.writeG_worst (k : Strand) (r : Nat) (x : Word) : (k.writeG r x).worst = k.worst := rfl
@[simp] theorem Strand.writeG_errs (k : Strand) (r : Nat) (x : Word) : (k.writeG r x).errs = Tab.del k.errs (r % 16) := rfl
@[simp] theorem Strand.writeG_acq (k : Strand) (r : Nat) (x : Word) : (k.writeG r x).acq = k.acq := rfl

@[simp] theorem Strand.await_ctx (k : Strand) (r : Nat) : (k.await r).ctx = k.ctx := rfl
@[simp] theorem Strand.await_entry (k : Strand) (r : Nat) : (k.await r).entry = k.entry := rfl
@[simp] theorem Strand.await_gen (k : Strand) (r : Nat) : (k.await r).gen = k.gen := rfl
@[simp] theorem Strand.await_ticket (k : Strand) (r : Nat) : (k.await r).ticket = k.ticket := rfl
@[simp] theorem Strand.await_kernel (k : Strand) (r : Nat) : (k.await r).kernel = k.kernel := rfl
@[simp] theorem Strand.await_core (k : Strand) (r : Nat) : (k.await r).core = k.core := rfl
@[simp] theorem Strand.await_slot (k : Strand) (r : Nat) : (k.await r).slot = k.slot := rfl
@[simp] theorem Strand.await_phase (k : Strand) (r : Nat) : (k.await r).phase = k.phase := rfl
@[simp] theorem Strand.await_out (k : Strand) (r : Nat) : (k.await r).out = k.out := rfl
@[simp] theorem Strand.await_stall (k : Strand) (r : Nat) : (k.await r).stall = k.stall := rfl
@[simp] theorem Strand.await_vcount (k : Strand) (r : Nat) : (k.await r).vcount = k.vcount := rfl
@[simp] theorem Strand.await_vregs (k : Strand) (r : Nat) : (k.await r).vregs = k.vregs := rfl
@[simp] theorem Strand.await_masks (k : Strand) (r : Nat) : (k.await r).masks = k.masks := rfl
@[simp] theorem Strand.await_pc (k : Strand) (r : Nat) : (k.await r).pc = k.pc := rfl
@[simp] theorem Strand.await_ep (k : Strand) (r : Nat) : (k.await r).ep = k.ep := rfl
@[simp] theorem Strand.await_st (k : Strand) (r : Nat) : (k.await r).st = k.st := rfl
@[simp] theorem Strand.await_sc (k : Strand) (r : Nat) : (k.await r).sc = k.sc := rfl
@[simp] theorem Strand.await_share (k : Strand) (r : Nat) : (k.await r).share = k.share := rfl
@[simp] theorem Strand.await_eager (k : Strand) (r : Nat) : (k.await r).eager = k.eager := rfl
@[simp] theorem Strand.await_counts (k : Strand) (r : Nat) : (k.await r).counts = k.counts := rfl
@[simp] theorem Strand.await_run (k : Strand) (r : Nat) : (k.await r).run = k.run := rfl
@[simp] theorem Strand.await_pair (k : Strand) (r : Nat) : (k.await r).pair = k.pair := rfl
@[simp] theorem Strand.await_recheck (k : Strand) (r : Nat) : (k.await r).recheck = k.recheck := rfl
@[simp] theorem Strand.await_again (k : Strand) (r : Nat) : (k.await r).again = k.again := rfl
@[simp] theorem Strand.await_since (k : Strand) (r : Nat) : (k.await r).since = k.since := rfl
@[simp] theorem Strand.await_ibuf (k : Strand) (r : Nat) : (k.await r).ibuf = k.ibuf := rfl
@[simp] theorem Strand.await_vccTarget (k : Strand) (r : Nat) : (k.await r).vccTarget = k.vccTarget := rfl
@[simp] theorem Strand.await_gang (k : Strand) (r : Nat) : (k.await r).gang = k.gang := rfl
@[simp] theorem Strand.await_gangAborted (k : Strand) (r : Nat) : (k.await r).gangAborted = k.gangAborted := rfl
@[simp] theorem Strand.await_mail (k : Strand) (r : Nat) : (k.await r).mail = k.mail := rfl
@[simp] theorem Strand.await_lost (k : Strand) (r : Nat) : (k.await r).lost = k.lost := rfl
@[simp] theorem Strand.await_yieldTo (k : Strand) (r : Nat) : (k.await r).yieldTo = k.yieldTo := rfl
@[simp] theorem Strand.await_yieldBy (k : Strand) (r : Nat) : (k.await r).yieldBy = k.yieldBy := rfl
@[simp] theorem Strand.await_opened (k : Strand) (r : Nat) : (k.await r).opened = k.opened := rfl
@[simp] theorem Strand.await_worst (k : Strand) (r : Nat) : (k.await r).worst = k.worst := rfl
@[simp] theorem Strand.await_errs (k : Strand) (r : Nat) : (k.await r).errs = Tab.del k.errs (r % 16) := rfl
@[simp] theorem Strand.await_acq (k : Strand) (r : Nat) : (k.await r).acq = k.acq := rfl

@[simp] theorem Strand.setV_ctx (k : Strand) (r : Nat) (x : VReg) : (k.setV r x).ctx = k.ctx := rfl
@[simp] theorem Strand.setV_entry (k : Strand) (r : Nat) (x : VReg) : (k.setV r x).entry = k.entry := rfl
@[simp] theorem Strand.setV_gen (k : Strand) (r : Nat) (x : VReg) : (k.setV r x).gen = k.gen := rfl
@[simp] theorem Strand.setV_ticket (k : Strand) (r : Nat) (x : VReg) : (k.setV r x).ticket = k.ticket := rfl
@[simp] theorem Strand.setV_kernel (k : Strand) (r : Nat) (x : VReg) : (k.setV r x).kernel = k.kernel := rfl
@[simp] theorem Strand.setV_core (k : Strand) (r : Nat) (x : VReg) : (k.setV r x).core = k.core := rfl
@[simp] theorem Strand.setV_slot (k : Strand) (r : Nat) (x : VReg) : (k.setV r x).slot = k.slot := rfl
@[simp] theorem Strand.setV_phase (k : Strand) (r : Nat) (x : VReg) : (k.setV r x).phase = k.phase := rfl
@[simp] theorem Strand.setV_out (k : Strand) (r : Nat) (x : VReg) : (k.setV r x).out = k.out := rfl
@[simp] theorem Strand.setV_stall (k : Strand) (r : Nat) (x : VReg) : (k.setV r x).stall = k.stall := rfl
@[simp] theorem Strand.setV_regs (k : Strand) (r : Nat) (x : VReg) : (k.setV r x).regs = k.regs := rfl
@[simp] theorem Strand.setV_vcount (k : Strand) (r : Nat) (x : VReg) : (k.setV r x).vcount = k.vcount := rfl
@[simp] theorem Strand.setV_masks (k : Strand) (r : Nat) (x : VReg) : (k.setV r x).masks = k.masks := rfl
@[simp] theorem Strand.setV_pc (k : Strand) (r : Nat) (x : VReg) : (k.setV r x).pc = k.pc := rfl
@[simp] theorem Strand.setV_ep (k : Strand) (r : Nat) (x : VReg) : (k.setV r x).ep = k.ep := rfl
@[simp] theorem Strand.setV_st (k : Strand) (r : Nat) (x : VReg) : (k.setV r x).st = k.st := rfl
@[simp] theorem Strand.setV_sc (k : Strand) (r : Nat) (x : VReg) : (k.setV r x).sc = k.sc := rfl
@[simp] theorem Strand.setV_share (k : Strand) (r : Nat) (x : VReg) : (k.setV r x).share = k.share := rfl
@[simp] theorem Strand.setV_eager (k : Strand) (r : Nat) (x : VReg) : (k.setV r x).eager = k.eager := rfl
@[simp] theorem Strand.setV_counts (k : Strand) (r : Nat) (x : VReg) : (k.setV r x).counts = k.counts := rfl
@[simp] theorem Strand.setV_run (k : Strand) (r : Nat) (x : VReg) : (k.setV r x).run = k.run := rfl
@[simp] theorem Strand.setV_pair (k : Strand) (r : Nat) (x : VReg) : (k.setV r x).pair = k.pair := rfl
@[simp] theorem Strand.setV_recheck (k : Strand) (r : Nat) (x : VReg) : (k.setV r x).recheck = k.recheck := rfl
@[simp] theorem Strand.setV_again (k : Strand) (r : Nat) (x : VReg) : (k.setV r x).again = k.again := rfl
@[simp] theorem Strand.setV_since (k : Strand) (r : Nat) (x : VReg) : (k.setV r x).since = k.since := rfl
@[simp] theorem Strand.setV_ibuf (k : Strand) (r : Nat) (x : VReg) : (k.setV r x).ibuf = k.ibuf := rfl
@[simp] theorem Strand.setV_vccTarget (k : Strand) (r : Nat) (x : VReg) : (k.setV r x).vccTarget = k.vccTarget := rfl
@[simp] theorem Strand.setV_gang (k : Strand) (r : Nat) (x : VReg) : (k.setV r x).gang = k.gang := rfl
@[simp] theorem Strand.setV_gangAborted (k : Strand) (r : Nat) (x : VReg) : (k.setV r x).gangAborted = k.gangAborted := rfl
@[simp] theorem Strand.setV_mail (k : Strand) (r : Nat) (x : VReg) : (k.setV r x).mail = k.mail := rfl
@[simp] theorem Strand.setV_lost (k : Strand) (r : Nat) (x : VReg) : (k.setV r x).lost = k.lost := rfl
@[simp] theorem Strand.setV_yieldTo (k : Strand) (r : Nat) (x : VReg) : (k.setV r x).yieldTo = k.yieldTo := rfl
@[simp] theorem Strand.setV_yieldBy (k : Strand) (r : Nat) (x : VReg) : (k.setV r x).yieldBy = k.yieldBy := rfl
@[simp] theorem Strand.setV_opened (k : Strand) (r : Nat) (x : VReg) : (k.setV r x).opened = k.opened := rfl
@[simp] theorem Strand.setV_worst (k : Strand) (r : Nat) (x : VReg) : (k.setV r x).worst = k.worst := rfl
@[simp] theorem Strand.setV_acq (k : Strand) (r : Nat) (x : VReg) : (k.setV r x).acq = k.acq := rfl

@[simp] theorem Strand.setM_ctx (k : Strand) (r : Nat) (x : KReg) : (k.setM r x).ctx = k.ctx := by unfold Strand.setM; split <;> rfl
@[simp] theorem Strand.setM_entry (k : Strand) (r : Nat) (x : KReg) : (k.setM r x).entry = k.entry := by unfold Strand.setM; split <;> rfl
@[simp] theorem Strand.setM_gen (k : Strand) (r : Nat) (x : KReg) : (k.setM r x).gen = k.gen := by unfold Strand.setM; split <;> rfl
@[simp] theorem Strand.setM_ticket (k : Strand) (r : Nat) (x : KReg) : (k.setM r x).ticket = k.ticket := by unfold Strand.setM; split <;> rfl
@[simp] theorem Strand.setM_kernel (k : Strand) (r : Nat) (x : KReg) : (k.setM r x).kernel = k.kernel := by unfold Strand.setM; split <;> rfl
@[simp] theorem Strand.setM_core (k : Strand) (r : Nat) (x : KReg) : (k.setM r x).core = k.core := by unfold Strand.setM; split <;> rfl
@[simp] theorem Strand.setM_slot (k : Strand) (r : Nat) (x : KReg) : (k.setM r x).slot = k.slot := by unfold Strand.setM; split <;> rfl
@[simp] theorem Strand.setM_phase (k : Strand) (r : Nat) (x : KReg) : (k.setM r x).phase = k.phase := by unfold Strand.setM; split <;> rfl
@[simp] theorem Strand.setM_out (k : Strand) (r : Nat) (x : KReg) : (k.setM r x).out = k.out := by unfold Strand.setM; split <;> rfl
@[simp] theorem Strand.setM_stall (k : Strand) (r : Nat) (x : KReg) : (k.setM r x).stall = k.stall := by unfold Strand.setM; split <;> rfl
@[simp] theorem Strand.setM_regs (k : Strand) (r : Nat) (x : KReg) : (k.setM r x).regs = k.regs := by unfold Strand.setM; split <;> rfl
@[simp] theorem Strand.setM_vcount (k : Strand) (r : Nat) (x : KReg) : (k.setM r x).vcount = k.vcount := by unfold Strand.setM; split <;> rfl
@[simp] theorem Strand.setM_vregs (k : Strand) (r : Nat) (x : KReg) : (k.setM r x).vregs = k.vregs := by unfold Strand.setM; split <;> rfl
@[simp] theorem Strand.setM_pc (k : Strand) (r : Nat) (x : KReg) : (k.setM r x).pc = k.pc := by unfold Strand.setM; split <;> rfl
@[simp] theorem Strand.setM_ep (k : Strand) (r : Nat) (x : KReg) : (k.setM r x).ep = k.ep := by unfold Strand.setM; split <;> rfl
@[simp] theorem Strand.setM_st (k : Strand) (r : Nat) (x : KReg) : (k.setM r x).st = k.st := by unfold Strand.setM; split <;> rfl
@[simp] theorem Strand.setM_sc (k : Strand) (r : Nat) (x : KReg) : (k.setM r x).sc = k.sc := by unfold Strand.setM; split <;> rfl
@[simp] theorem Strand.setM_share (k : Strand) (r : Nat) (x : KReg) : (k.setM r x).share = k.share := by unfold Strand.setM; split <;> rfl
@[simp] theorem Strand.setM_eager (k : Strand) (r : Nat) (x : KReg) : (k.setM r x).eager = k.eager := by unfold Strand.setM; split <;> rfl
@[simp] theorem Strand.setM_counts (k : Strand) (r : Nat) (x : KReg) : (k.setM r x).counts = k.counts := by unfold Strand.setM; split <;> rfl
@[simp] theorem Strand.setM_run (k : Strand) (r : Nat) (x : KReg) : (k.setM r x).run = k.run := by unfold Strand.setM; split <;> rfl
@[simp] theorem Strand.setM_pair (k : Strand) (r : Nat) (x : KReg) : (k.setM r x).pair = k.pair := by unfold Strand.setM; split <;> rfl
@[simp] theorem Strand.setM_recheck (k : Strand) (r : Nat) (x : KReg) : (k.setM r x).recheck = k.recheck := by unfold Strand.setM; split <;> rfl
@[simp] theorem Strand.setM_again (k : Strand) (r : Nat) (x : KReg) : (k.setM r x).again = k.again := by unfold Strand.setM; split <;> rfl
@[simp] theorem Strand.setM_since (k : Strand) (r : Nat) (x : KReg) : (k.setM r x).since = k.since := by unfold Strand.setM; split <;> rfl
@[simp] theorem Strand.setM_ibuf (k : Strand) (r : Nat) (x : KReg) : (k.setM r x).ibuf = k.ibuf := by unfold Strand.setM; split <;> rfl
@[simp] theorem Strand.setM_vccTarget (k : Strand) (r : Nat) (x : KReg) : (k.setM r x).vccTarget = k.vccTarget := by unfold Strand.setM; split <;> rfl
@[simp] theorem Strand.setM_gang (k : Strand) (r : Nat) (x : KReg) : (k.setM r x).gang = k.gang := by unfold Strand.setM; split <;> rfl
@[simp] theorem Strand.setM_gangAborted (k : Strand) (r : Nat) (x : KReg) : (k.setM r x).gangAborted = k.gangAborted := by unfold Strand.setM; split <;> rfl
@[simp] theorem Strand.setM_mail (k : Strand) (r : Nat) (x : KReg) : (k.setM r x).mail = k.mail := by unfold Strand.setM; split <;> rfl
@[simp] theorem Strand.setM_lost (k : Strand) (r : Nat) (x : KReg) : (k.setM r x).lost = k.lost := by unfold Strand.setM; split <;> rfl
@[simp] theorem Strand.setM_yieldTo (k : Strand) (r : Nat) (x : KReg) : (k.setM r x).yieldTo = k.yieldTo := by unfold Strand.setM; split <;> rfl
@[simp] theorem Strand.setM_yieldBy (k : Strand) (r : Nat) (x : KReg) : (k.setM r x).yieldBy = k.yieldBy := by unfold Strand.setM; split <;> rfl
@[simp] theorem Strand.setM_opened (k : Strand) (r : Nat) (x : KReg) : (k.setM r x).opened = k.opened := by unfold Strand.setM; split <;> rfl
@[simp] theorem Strand.setM_worst (k : Strand) (r : Nat) (x : KReg) : (k.setM r x).worst = k.worst := by unfold Strand.setM; split <;> rfl
@[simp] theorem Strand.setM_acq (k : Strand) (r : Nat) (x : KReg) : (k.setM r x).acq = k.acq := by unfold Strand.setM; split <;> rfl

@[simp] theorem Strand.setSt_ctx (k : Strand) (x : Status) : (k.setSt x).ctx = k.ctx := rfl
@[simp] theorem Strand.setSt_entry (k : Strand) (x : Status) : (k.setSt x).entry = k.entry := rfl
@[simp] theorem Strand.setSt_gen (k : Strand) (x : Status) : (k.setSt x).gen = k.gen := rfl
@[simp] theorem Strand.setSt_ticket (k : Strand) (x : Status) : (k.setSt x).ticket = k.ticket := rfl
@[simp] theorem Strand.setSt_kernel (k : Strand) (x : Status) : (k.setSt x).kernel = k.kernel := rfl
@[simp] theorem Strand.setSt_core (k : Strand) (x : Status) : (k.setSt x).core = k.core := rfl
@[simp] theorem Strand.setSt_slot (k : Strand) (x : Status) : (k.setSt x).slot = k.slot := rfl
@[simp] theorem Strand.setSt_phase (k : Strand) (x : Status) : (k.setSt x).phase = k.phase := rfl
@[simp] theorem Strand.setSt_out (k : Strand) (x : Status) : (k.setSt x).out = k.out := rfl
@[simp] theorem Strand.setSt_stall (k : Strand) (x : Status) : (k.setSt x).stall = k.stall := rfl
@[simp] theorem Strand.setSt_regs (k : Strand) (x : Status) : (k.setSt x).regs = k.regs := rfl
@[simp] theorem Strand.setSt_vcount (k : Strand) (x : Status) : (k.setSt x).vcount = k.vcount := rfl
@[simp] theorem Strand.setSt_vregs (k : Strand) (x : Status) : (k.setSt x).vregs = k.vregs := rfl
@[simp] theorem Strand.setSt_masks (k : Strand) (x : Status) : (k.setSt x).masks = k.masks := rfl
@[simp] theorem Strand.setSt_pc (k : Strand) (x : Status) : (k.setSt x).pc = k.pc := rfl
@[simp] theorem Strand.setSt_ep (k : Strand) (x : Status) : (k.setSt x).ep = k.ep := rfl
@[simp] theorem Strand.setSt_st (k : Strand) (x : Status) : (k.setSt x).st = x := rfl
@[simp] theorem Strand.setSt_sc (k : Strand) (x : Status) : (k.setSt x).sc = k.sc := rfl
@[simp] theorem Strand.setSt_share (k : Strand) (x : Status) : (k.setSt x).share = k.share := rfl
@[simp] theorem Strand.setSt_eager (k : Strand) (x : Status) : (k.setSt x).eager = k.eager := rfl
@[simp] theorem Strand.setSt_counts (k : Strand) (x : Status) : (k.setSt x).counts = k.counts := rfl
@[simp] theorem Strand.setSt_run (k : Strand) (x : Status) : (k.setSt x).run = k.run := rfl
@[simp] theorem Strand.setSt_pair (k : Strand) (x : Status) : (k.setSt x).pair = k.pair := rfl
@[simp] theorem Strand.setSt_recheck (k : Strand) (x : Status) : (k.setSt x).recheck = k.recheck := rfl
@[simp] theorem Strand.setSt_again (k : Strand) (x : Status) : (k.setSt x).again = k.again := rfl
@[simp] theorem Strand.setSt_since (k : Strand) (x : Status) : (k.setSt x).since = k.since := rfl
@[simp] theorem Strand.setSt_ibuf (k : Strand) (x : Status) : (k.setSt x).ibuf = k.ibuf := rfl
@[simp] theorem Strand.setSt_vccTarget (k : Strand) (x : Status) : (k.setSt x).vccTarget = k.vccTarget := rfl
@[simp] theorem Strand.setSt_gang (k : Strand) (x : Status) : (k.setSt x).gang = k.gang := rfl
@[simp] theorem Strand.setSt_gangAborted (k : Strand) (x : Status) : (k.setSt x).gangAborted = k.gangAborted := rfl
@[simp] theorem Strand.setSt_mail (k : Strand) (x : Status) : (k.setSt x).mail = k.mail := rfl
@[simp] theorem Strand.setSt_lost (k : Strand) (x : Status) : (k.setSt x).lost = k.lost := rfl
@[simp] theorem Strand.setSt_yieldTo (k : Strand) (x : Status) : (k.setSt x).yieldTo = k.yieldTo := rfl
@[simp] theorem Strand.setSt_yieldBy (k : Strand) (x : Status) : (k.setSt x).yieldBy = k.yieldBy := rfl
@[simp] theorem Strand.setSt_opened (k : Strand) (x : Status) : (k.setSt x).opened = k.opened := rfl
@[simp] theorem Strand.setSt_worst (k : Strand) (x : Status) : (k.setSt x).worst = k.worst := rfl
@[simp] theorem Strand.setSt_errs (k : Strand) (x : Status) : (k.setSt x).errs = k.errs := rfl
@[simp] theorem Strand.setSt_acq (k : Strand) (x : Status) : (k.setSt x).acq = k.acq := rfl

@[simp] theorem Strand.setPhase_ctx (k : Strand) (x : Phase) : (k.setPhase x).ctx = k.ctx := rfl
@[simp] theorem Strand.setPhase_entry (k : Strand) (x : Phase) : (k.setPhase x).entry = k.entry := rfl
@[simp] theorem Strand.setPhase_gen (k : Strand) (x : Phase) : (k.setPhase x).gen = k.gen := rfl
@[simp] theorem Strand.setPhase_ticket (k : Strand) (x : Phase) : (k.setPhase x).ticket = k.ticket := rfl
@[simp] theorem Strand.setPhase_kernel (k : Strand) (x : Phase) : (k.setPhase x).kernel = k.kernel := rfl
@[simp] theorem Strand.setPhase_core (k : Strand) (x : Phase) : (k.setPhase x).core = k.core := rfl
@[simp] theorem Strand.setPhase_slot (k : Strand) (x : Phase) : (k.setPhase x).slot = k.slot := rfl
@[simp] theorem Strand.setPhase_phase (k : Strand) (x : Phase) : (k.setPhase x).phase = x := rfl
@[simp] theorem Strand.setPhase_out (k : Strand) (x : Phase) : (k.setPhase x).out = k.out := rfl
@[simp] theorem Strand.setPhase_stall (k : Strand) (x : Phase) : (k.setPhase x).stall = k.stall := rfl
@[simp] theorem Strand.setPhase_regs (k : Strand) (x : Phase) : (k.setPhase x).regs = k.regs := rfl
@[simp] theorem Strand.setPhase_vcount (k : Strand) (x : Phase) : (k.setPhase x).vcount = k.vcount := rfl
@[simp] theorem Strand.setPhase_vregs (k : Strand) (x : Phase) : (k.setPhase x).vregs = k.vregs := rfl
@[simp] theorem Strand.setPhase_masks (k : Strand) (x : Phase) : (k.setPhase x).masks = k.masks := rfl
@[simp] theorem Strand.setPhase_pc (k : Strand) (x : Phase) : (k.setPhase x).pc = k.pc := rfl
@[simp] theorem Strand.setPhase_ep (k : Strand) (x : Phase) : (k.setPhase x).ep = k.ep := rfl
@[simp] theorem Strand.setPhase_st (k : Strand) (x : Phase) : (k.setPhase x).st = k.st := rfl
@[simp] theorem Strand.setPhase_sc (k : Strand) (x : Phase) : (k.setPhase x).sc = k.sc := rfl
@[simp] theorem Strand.setPhase_share (k : Strand) (x : Phase) : (k.setPhase x).share = k.share := rfl
@[simp] theorem Strand.setPhase_eager (k : Strand) (x : Phase) : (k.setPhase x).eager = k.eager := rfl
@[simp] theorem Strand.setPhase_counts (k : Strand) (x : Phase) : (k.setPhase x).counts = k.counts := rfl
@[simp] theorem Strand.setPhase_run (k : Strand) (x : Phase) : (k.setPhase x).run = k.run := rfl
@[simp] theorem Strand.setPhase_pair (k : Strand) (x : Phase) : (k.setPhase x).pair = k.pair := rfl
@[simp] theorem Strand.setPhase_recheck (k : Strand) (x : Phase) : (k.setPhase x).recheck = k.recheck := rfl
@[simp] theorem Strand.setPhase_again (k : Strand) (x : Phase) : (k.setPhase x).again = k.again := rfl
@[simp] theorem Strand.setPhase_since (k : Strand) (x : Phase) : (k.setPhase x).since = k.since := rfl
@[simp] theorem Strand.setPhase_ibuf (k : Strand) (x : Phase) : (k.setPhase x).ibuf = k.ibuf := rfl
@[simp] theorem Strand.setPhase_vccTarget (k : Strand) (x : Phase) : (k.setPhase x).vccTarget = k.vccTarget := rfl
@[simp] theorem Strand.setPhase_gang (k : Strand) (x : Phase) : (k.setPhase x).gang = k.gang := rfl
@[simp] theorem Strand.setPhase_gangAborted (k : Strand) (x : Phase) : (k.setPhase x).gangAborted = k.gangAborted := rfl
@[simp] theorem Strand.setPhase_mail (k : Strand) (x : Phase) : (k.setPhase x).mail = k.mail := rfl
@[simp] theorem Strand.setPhase_lost (k : Strand) (x : Phase) : (k.setPhase x).lost = k.lost := rfl
@[simp] theorem Strand.setPhase_yieldTo (k : Strand) (x : Phase) : (k.setPhase x).yieldTo = k.yieldTo := rfl
@[simp] theorem Strand.setPhase_yieldBy (k : Strand) (x : Phase) : (k.setPhase x).yieldBy = k.yieldBy := rfl
@[simp] theorem Strand.setPhase_opened (k : Strand) (x : Phase) : (k.setPhase x).opened = k.opened := rfl
@[simp] theorem Strand.setPhase_worst (k : Strand) (x : Phase) : (k.setPhase x).worst = k.worst := rfl
@[simp] theorem Strand.setPhase_errs (k : Strand) (x : Phase) : (k.setPhase x).errs = k.errs := rfl
@[simp] theorem Strand.setPhase_acq (k : Strand) (x : Phase) : (k.setPhase x).acq = k.acq := rfl

@[simp] theorem Strand.setStall_ctx (k : Strand) (x : Stall) : (k.setStall x).ctx = k.ctx := rfl
@[simp] theorem Strand.setStall_entry (k : Strand) (x : Stall) : (k.setStall x).entry = k.entry := rfl
@[simp] theorem Strand.setStall_gen (k : Strand) (x : Stall) : (k.setStall x).gen = k.gen := rfl
@[simp] theorem Strand.setStall_ticket (k : Strand) (x : Stall) : (k.setStall x).ticket = k.ticket := rfl
@[simp] theorem Strand.setStall_kernel (k : Strand) (x : Stall) : (k.setStall x).kernel = k.kernel := rfl
@[simp] theorem Strand.setStall_core (k : Strand) (x : Stall) : (k.setStall x).core = k.core := rfl
@[simp] theorem Strand.setStall_slot (k : Strand) (x : Stall) : (k.setStall x).slot = k.slot := rfl
@[simp] theorem Strand.setStall_phase (k : Strand) (x : Stall) : (k.setStall x).phase = k.phase := rfl
@[simp] theorem Strand.setStall_out (k : Strand) (x : Stall) : (k.setStall x).out = k.out := rfl
@[simp] theorem Strand.setStall_stall (k : Strand) (x : Stall) : (k.setStall x).stall = x := rfl
@[simp] theorem Strand.setStall_regs (k : Strand) (x : Stall) : (k.setStall x).regs = k.regs := rfl
@[simp] theorem Strand.setStall_vcount (k : Strand) (x : Stall) : (k.setStall x).vcount = k.vcount := rfl
@[simp] theorem Strand.setStall_vregs (k : Strand) (x : Stall) : (k.setStall x).vregs = k.vregs := rfl
@[simp] theorem Strand.setStall_masks (k : Strand) (x : Stall) : (k.setStall x).masks = k.masks := rfl
@[simp] theorem Strand.setStall_pc (k : Strand) (x : Stall) : (k.setStall x).pc = k.pc := rfl
@[simp] theorem Strand.setStall_ep (k : Strand) (x : Stall) : (k.setStall x).ep = k.ep := rfl
@[simp] theorem Strand.setStall_st (k : Strand) (x : Stall) : (k.setStall x).st = k.st := rfl
@[simp] theorem Strand.setStall_sc (k : Strand) (x : Stall) : (k.setStall x).sc = k.sc := rfl
@[simp] theorem Strand.setStall_share (k : Strand) (x : Stall) : (k.setStall x).share = k.share := rfl
@[simp] theorem Strand.setStall_eager (k : Strand) (x : Stall) : (k.setStall x).eager = k.eager := rfl
@[simp] theorem Strand.setStall_counts (k : Strand) (x : Stall) : (k.setStall x).counts = k.counts := rfl
@[simp] theorem Strand.setStall_run (k : Strand) (x : Stall) : (k.setStall x).run = k.run := rfl
@[simp] theorem Strand.setStall_pair (k : Strand) (x : Stall) : (k.setStall x).pair = k.pair := rfl
@[simp] theorem Strand.setStall_recheck (k : Strand) (x : Stall) : (k.setStall x).recheck = k.recheck := rfl
@[simp] theorem Strand.setStall_again (k : Strand) (x : Stall) : (k.setStall x).again = k.again := rfl
@[simp] theorem Strand.setStall_since (k : Strand) (x : Stall) : (k.setStall x).since = k.since := rfl
@[simp] theorem Strand.setStall_ibuf (k : Strand) (x : Stall) : (k.setStall x).ibuf = k.ibuf := rfl
@[simp] theorem Strand.setStall_vccTarget (k : Strand) (x : Stall) : (k.setStall x).vccTarget = k.vccTarget := rfl
@[simp] theorem Strand.setStall_gang (k : Strand) (x : Stall) : (k.setStall x).gang = k.gang := rfl
@[simp] theorem Strand.setStall_gangAborted (k : Strand) (x : Stall) : (k.setStall x).gangAborted = k.gangAborted := rfl
@[simp] theorem Strand.setStall_mail (k : Strand) (x : Stall) : (k.setStall x).mail = k.mail := rfl
@[simp] theorem Strand.setStall_lost (k : Strand) (x : Stall) : (k.setStall x).lost = k.lost := rfl
@[simp] theorem Strand.setStall_yieldTo (k : Strand) (x : Stall) : (k.setStall x).yieldTo = k.yieldTo := rfl
@[simp] theorem Strand.setStall_yieldBy (k : Strand) (x : Stall) : (k.setStall x).yieldBy = k.yieldBy := rfl
@[simp] theorem Strand.setStall_opened (k : Strand) (x : Stall) : (k.setStall x).opened = k.opened := rfl
@[simp] theorem Strand.setStall_worst (k : Strand) (x : Stall) : (k.setStall x).worst = k.worst := rfl
@[simp] theorem Strand.setStall_errs (k : Strand) (x : Stall) : (k.setStall x).errs = k.errs := rfl
@[simp] theorem Strand.setStall_acq (k : Strand) (x : Stall) : (k.setStall x).acq = k.acq := rfl

@[simp] theorem Strand.taint_ctx (k : Strand) (c : Code) : (k.taint c).ctx = k.ctx := rfl
@[simp] theorem Strand.taint_entry (k : Strand) (c : Code) : (k.taint c).entry = k.entry := rfl
@[simp] theorem Strand.taint_gen (k : Strand) (c : Code) : (k.taint c).gen = k.gen := rfl
@[simp] theorem Strand.taint_ticket (k : Strand) (c : Code) : (k.taint c).ticket = k.ticket := rfl
@[simp] theorem Strand.taint_kernel (k : Strand) (c : Code) : (k.taint c).kernel = k.kernel := rfl
@[simp] theorem Strand.taint_core (k : Strand) (c : Code) : (k.taint c).core = k.core := rfl
@[simp] theorem Strand.taint_slot (k : Strand) (c : Code) : (k.taint c).slot = k.slot := rfl
@[simp] theorem Strand.taint_phase (k : Strand) (c : Code) : (k.taint c).phase = k.phase := rfl
@[simp] theorem Strand.taint_out (k : Strand) (c : Code) : (k.taint c).out = k.out := rfl
@[simp] theorem Strand.taint_stall (k : Strand) (c : Code) : (k.taint c).stall = k.stall := rfl
@[simp] theorem Strand.taint_regs (k : Strand) (c : Code) : (k.taint c).regs = k.regs := rfl
@[simp] theorem Strand.taint_vcount (k : Strand) (c : Code) : (k.taint c).vcount = k.vcount := rfl
@[simp] theorem Strand.taint_vregs (k : Strand) (c : Code) : (k.taint c).vregs = k.vregs := rfl
@[simp] theorem Strand.taint_masks (k : Strand) (c : Code) : (k.taint c).masks = k.masks := rfl
@[simp] theorem Strand.taint_pc (k : Strand) (c : Code) : (k.taint c).pc = k.pc := rfl
@[simp] theorem Strand.taint_ep (k : Strand) (c : Code) : (k.taint c).ep = k.ep := rfl
@[simp] theorem Strand.taint_st (k : Strand) (c : Code) : (k.taint c).st = { k.st with t := true, fc := c.zeroExtend 8 } := rfl
@[simp] theorem Strand.taint_sc (k : Strand) (c : Code) : (k.taint c).sc = k.sc := rfl
@[simp] theorem Strand.taint_share (k : Strand) (c : Code) : (k.taint c).share = k.share := rfl
@[simp] theorem Strand.taint_eager (k : Strand) (c : Code) : (k.taint c).eager = k.eager := rfl
@[simp] theorem Strand.taint_counts (k : Strand) (c : Code) : (k.taint c).counts = k.counts := rfl
@[simp] theorem Strand.taint_run (k : Strand) (c : Code) : (k.taint c).run = k.run := rfl
@[simp] theorem Strand.taint_pair (k : Strand) (c : Code) : (k.taint c).pair = k.pair := rfl
@[simp] theorem Strand.taint_recheck (k : Strand) (c : Code) : (k.taint c).recheck = k.recheck := rfl
@[simp] theorem Strand.taint_again (k : Strand) (c : Code) : (k.taint c).again = k.again := rfl
@[simp] theorem Strand.taint_since (k : Strand) (c : Code) : (k.taint c).since = k.since := rfl
@[simp] theorem Strand.taint_ibuf (k : Strand) (c : Code) : (k.taint c).ibuf = k.ibuf := rfl
@[simp] theorem Strand.taint_vccTarget (k : Strand) (c : Code) : (k.taint c).vccTarget = k.vccTarget := rfl
@[simp] theorem Strand.taint_gang (k : Strand) (c : Code) : (k.taint c).gang = k.gang := rfl
@[simp] theorem Strand.taint_gangAborted (k : Strand) (c : Code) : (k.taint c).gangAborted = k.gangAborted := rfl
@[simp] theorem Strand.taint_mail (k : Strand) (c : Code) : (k.taint c).mail = k.mail := rfl
@[simp] theorem Strand.taint_lost (k : Strand) (c : Code) : (k.taint c).lost = k.lost := rfl
@[simp] theorem Strand.taint_yieldTo (k : Strand) (c : Code) : (k.taint c).yieldTo = k.yieldTo := rfl
@[simp] theorem Strand.taint_yieldBy (k : Strand) (c : Code) : (k.taint c).yieldBy = k.yieldBy := rfl
@[simp] theorem Strand.taint_opened (k : Strand) (c : Code) : (k.taint c).opened = k.opened := rfl
@[simp] theorem Strand.taint_worst (k : Strand) (c : Code) : (k.taint c).worst = k.worst := rfl
@[simp] theorem Strand.taint_errs (k : Strand) (c : Code) : (k.taint c).errs = k.errs := rfl
@[simp] theorem Strand.taint_acq (k : Strand) (c : Code) : (k.taint c).acq = k.acq := rfl

@[simp] theorem Strand.endUnit_ctx (k : Strand) : (k.endUnit).ctx = k.ctx := rfl
@[simp] theorem Strand.endUnit_entry (k : Strand) : (k.endUnit).entry = k.entry := rfl
@[simp] theorem Strand.endUnit_gen (k : Strand) : (k.endUnit).gen = k.gen := rfl
@[simp] theorem Strand.endUnit_ticket (k : Strand) : (k.endUnit).ticket = k.ticket := rfl
@[simp] theorem Strand.endUnit_kernel (k : Strand) : (k.endUnit).kernel = k.kernel := rfl
@[simp] theorem Strand.endUnit_core (k : Strand) : (k.endUnit).core = k.core := rfl
@[simp] theorem Strand.endUnit_slot (k : Strand) : (k.endUnit).slot = k.slot := rfl
@[simp] theorem Strand.endUnit_phase (k : Strand) : (k.endUnit).phase = k.phase := rfl
@[simp] theorem Strand.endUnit_out (k : Strand) : (k.endUnit).out = k.out := rfl
@[simp] theorem Strand.endUnit_stall (k : Strand) : (k.endUnit).stall = .none := rfl
@[simp] theorem Strand.endUnit_regs (k : Strand) : (k.endUnit).regs = k.regs := rfl
@[simp] theorem Strand.endUnit_vcount (k : Strand) : (k.endUnit).vcount = k.vcount := rfl
@[simp] theorem Strand.endUnit_vregs (k : Strand) : (k.endUnit).vregs = k.vregs := rfl
@[simp] theorem Strand.endUnit_masks (k : Strand) : (k.endUnit).masks = k.masks := rfl
@[simp] theorem Strand.endUnit_pc (k : Strand) : (k.endUnit).pc = k.pc := rfl
@[simp] theorem Strand.endUnit_ep (k : Strand) : (k.endUnit).ep = k.ep := rfl
@[simp] theorem Strand.endUnit_st (k : Strand) : (k.endUnit).st = k.st := rfl
@[simp] theorem Strand.endUnit_sc (k : Strand) : (k.endUnit).sc = k.sc := rfl
@[simp] theorem Strand.endUnit_share (k : Strand) : (k.endUnit).share = k.share := rfl
@[simp] theorem Strand.endUnit_eager (k : Strand) : (k.endUnit).eager = k.eager := rfl
@[simp] theorem Strand.endUnit_counts (k : Strand) : (k.endUnit).counts = k.counts := rfl
@[simp] theorem Strand.endUnit_run (k : Strand) : (k.endUnit).run = none := rfl
@[simp] theorem Strand.endUnit_pair (k : Strand) : (k.endUnit).pair = k.pair := rfl
@[simp] theorem Strand.endUnit_recheck (k : Strand) : (k.endUnit).recheck = false := rfl
@[simp] theorem Strand.endUnit_again (k : Strand) : (k.endUnit).again = false := rfl
@[simp] theorem Strand.endUnit_since (k : Strand) : (k.endUnit).since = k.since := rfl
@[simp] theorem Strand.endUnit_ibuf (k : Strand) : (k.endUnit).ibuf = k.ibuf := rfl
@[simp] theorem Strand.endUnit_vccTarget (k : Strand) : (k.endUnit).vccTarget = k.vccTarget := rfl
@[simp] theorem Strand.endUnit_gang (k : Strand) : (k.endUnit).gang = k.gang := rfl
@[simp] theorem Strand.endUnit_gangAborted (k : Strand) : (k.endUnit).gangAborted = k.gangAborted := rfl
@[simp] theorem Strand.endUnit_mail (k : Strand) : (k.endUnit).mail = k.mail := rfl
@[simp] theorem Strand.endUnit_lost (k : Strand) : (k.endUnit).lost = k.lost := rfl
@[simp] theorem Strand.endUnit_yieldTo (k : Strand) : (k.endUnit).yieldTo = k.yieldTo := rfl
@[simp] theorem Strand.endUnit_yieldBy (k : Strand) : (k.endUnit).yieldBy = k.yieldBy := rfl
@[simp] theorem Strand.endUnit_opened (k : Strand) : (k.endUnit).opened = k.opened := rfl
@[simp] theorem Strand.endUnit_worst (k : Strand) : (k.endUnit).worst = k.worst := rfl
@[simp] theorem Strand.endUnit_errs (k : Strand) : (k.endUnit).errs = k.errs := rfl
@[simp] theorem Strand.endUnit_acq (k : Strand) : (k.endUnit).acq = k.acq := rfl

@[simp] theorem Strand.advance_ctx (k : Strand) : (k.advance).ctx = k.ctx := by unfold Strand.advance; split <;> rfl
@[simp] theorem Strand.advance_entry (k : Strand) : (k.advance).entry = k.entry := by unfold Strand.advance; split <;> rfl
@[simp] theorem Strand.advance_gen (k : Strand) : (k.advance).gen = k.gen := by unfold Strand.advance; split <;> rfl
@[simp] theorem Strand.advance_ticket (k : Strand) : (k.advance).ticket = k.ticket := by unfold Strand.advance; split <;> rfl
@[simp] theorem Strand.advance_kernel (k : Strand) : (k.advance).kernel = k.kernel := by unfold Strand.advance; split <;> rfl
@[simp] theorem Strand.advance_core (k : Strand) : (k.advance).core = k.core := by unfold Strand.advance; split <;> rfl
@[simp] theorem Strand.advance_slot (k : Strand) : (k.advance).slot = k.slot := by unfold Strand.advance; split <;> rfl
@[simp] theorem Strand.advance_phase (k : Strand) : (k.advance).phase = k.phase := by unfold Strand.advance; split <;> rfl
@[simp] theorem Strand.advance_out (k : Strand) : (k.advance).out = k.out := by unfold Strand.advance; split <;> rfl
@[simp] theorem Strand.advance_stall (k : Strand) : (k.advance).stall = .none := by unfold Strand.advance; split <;> rfl
@[simp] theorem Strand.advance_regs (k : Strand) : (k.advance).regs = k.regs := by unfold Strand.advance; split <;> rfl
@[simp] theorem Strand.advance_vcount (k : Strand) : (k.advance).vcount = k.vcount := by unfold Strand.advance; split <;> rfl
@[simp] theorem Strand.advance_vregs (k : Strand) : (k.advance).vregs = k.vregs := by unfold Strand.advance; split <;> rfl
@[simp] theorem Strand.advance_masks (k : Strand) : (k.advance).masks = k.masks := by unfold Strand.advance; split <;> rfl
@[simp] theorem Strand.advance_ep (k : Strand) : (k.advance).ep = k.ep := by unfold Strand.advance; split <;> rfl
@[simp] theorem Strand.advance_st (k : Strand) : (k.advance).st = k.st := by unfold Strand.advance; split <;> rfl
@[simp] theorem Strand.advance_sc (k : Strand) : (k.advance).sc = k.sc := by unfold Strand.advance; split <;> rfl
@[simp] theorem Strand.advance_share (k : Strand) : (k.advance).share = k.share := by unfold Strand.advance; split <;> rfl
@[simp] theorem Strand.advance_eager (k : Strand) : (k.advance).eager = k.count := by unfold Strand.advance; split <;> rfl
@[simp] theorem Strand.advance_counts (k : Strand) : (k.advance).counts = k.counts := by unfold Strand.advance; split <;> rfl
@[simp] theorem Strand.advance_run (k : Strand) : (k.advance).run = none := by unfold Strand.advance; split <;> rfl
@[simp] theorem Strand.advance_recheck (k : Strand) : (k.advance).recheck = false := by unfold Strand.advance; split <;> rfl
@[simp] theorem Strand.advance_again (k : Strand) : (k.advance).again = false := by unfold Strand.advance; split <;> rfl
@[simp] theorem Strand.advance_since (k : Strand) : (k.advance).since = k.since := by unfold Strand.advance; split <;> rfl
@[simp] theorem Strand.advance_ibuf (k : Strand) : (k.advance).ibuf = k.ibuf := by unfold Strand.advance; split <;> rfl
@[simp] theorem Strand.advance_vccTarget (k : Strand) : (k.advance).vccTarget = k.vccTarget := by unfold Strand.advance; split <;> rfl
@[simp] theorem Strand.advance_gang (k : Strand) : (k.advance).gang = k.gang := by unfold Strand.advance; split <;> rfl
@[simp] theorem Strand.advance_gangAborted (k : Strand) : (k.advance).gangAborted = k.gangAborted := by unfold Strand.advance; split <;> rfl
@[simp] theorem Strand.advance_mail (k : Strand) : (k.advance).mail = k.mail := by unfold Strand.advance; split <;> rfl
@[simp] theorem Strand.advance_lost (k : Strand) : (k.advance).lost = k.lost := by unfold Strand.advance; split <;> rfl
@[simp] theorem Strand.advance_yieldTo (k : Strand) : (k.advance).yieldTo = k.yieldTo := by unfold Strand.advance; split <;> rfl
@[simp] theorem Strand.advance_yieldBy (k : Strand) : (k.advance).yieldBy = k.yieldBy := by unfold Strand.advance; split <;> rfl
@[simp] theorem Strand.advance_opened (k : Strand) : (k.advance).opened = k.opened := by unfold Strand.advance; split <;> rfl
@[simp] theorem Strand.advance_worst (k : Strand) : (k.advance).worst = k.worst := by unfold Strand.advance; split <;> rfl
@[simp] theorem Strand.advance_errs (k : Strand) : (k.advance).errs = k.errs := by unfold Strand.advance; split <;> rfl
@[simp] theorem Strand.advance_acq (k : Strand) : (k.advance).acq = k.acq := by unfold Strand.advance; split <;> rfl

@[simp] theorem Strand.jump_ctx (k : Strand) (target : Nat) : (k.jump target).ctx = k.ctx := rfl
@[simp] theorem Strand.jump_entry (k : Strand) (target : Nat) : (k.jump target).entry = k.entry := rfl
@[simp] theorem Strand.jump_gen (k : Strand) (target : Nat) : (k.jump target).gen = k.gen := rfl
@[simp] theorem Strand.jump_ticket (k : Strand) (target : Nat) : (k.jump target).ticket = k.ticket := rfl
@[simp] theorem Strand.jump_kernel (k : Strand) (target : Nat) : (k.jump target).kernel = k.kernel := rfl
@[simp] theorem Strand.jump_core (k : Strand) (target : Nat) : (k.jump target).core = k.core := rfl
@[simp] theorem Strand.jump_slot (k : Strand) (target : Nat) : (k.jump target).slot = k.slot := rfl
@[simp] theorem Strand.jump_phase (k : Strand) (target : Nat) : (k.jump target).phase = k.phase := rfl
@[simp] theorem Strand.jump_out (k : Strand) (target : Nat) : (k.jump target).out = k.out := rfl
@[simp] theorem Strand.jump_stall (k : Strand) (target : Nat) : (k.jump target).stall = .none := rfl
@[simp] theorem Strand.jump_regs (k : Strand) (target : Nat) : (k.jump target).regs = k.regs := rfl
@[simp] theorem Strand.jump_vcount (k : Strand) (target : Nat) : (k.jump target).vcount = k.vcount := rfl
@[simp] theorem Strand.jump_vregs (k : Strand) (target : Nat) : (k.jump target).vregs = k.vregs := rfl
@[simp] theorem Strand.jump_masks (k : Strand) (target : Nat) : (k.jump target).masks = k.masks := rfl
@[simp] theorem Strand.jump_pc (k : Strand) (target : Nat) : (k.jump target).pc = target % 2 ^ 64 := rfl
@[simp] theorem Strand.jump_ep (k : Strand) (target : Nat) : (k.jump target).ep = k.ep := rfl
@[simp] theorem Strand.jump_st (k : Strand) (target : Nat) : (k.jump target).st = k.st := rfl
@[simp] theorem Strand.jump_sc (k : Strand) (target : Nat) : (k.jump target).sc = k.sc := rfl
@[simp] theorem Strand.jump_share (k : Strand) (target : Nat) : (k.jump target).share = k.share := rfl
@[simp] theorem Strand.jump_eager (k : Strand) (target : Nat) : (k.jump target).eager = k.count := rfl
@[simp] theorem Strand.jump_counts (k : Strand) (target : Nat) : (k.jump target).counts = k.counts := rfl
@[simp] theorem Strand.jump_run (k : Strand) (target : Nat) : (k.jump target).run = none := rfl
@[simp] theorem Strand.jump_pair (k : Strand) (target : Nat) : (k.jump target).pair = [] := rfl
@[simp] theorem Strand.jump_recheck (k : Strand) (target : Nat) : (k.jump target).recheck = false := rfl
@[simp] theorem Strand.jump_again (k : Strand) (target : Nat) : (k.jump target).again = false := rfl
@[simp] theorem Strand.jump_since (k : Strand) (target : Nat) : (k.jump target).since = k.since := rfl
@[simp] theorem Strand.jump_ibuf (k : Strand) (target : Nat) : (k.jump target).ibuf = k.ibuf := rfl
@[simp] theorem Strand.jump_vccTarget (k : Strand) (target : Nat) : (k.jump target).vccTarget = k.vccTarget := rfl
@[simp] theorem Strand.jump_gang (k : Strand) (target : Nat) : (k.jump target).gang = k.gang := rfl
@[simp] theorem Strand.jump_gangAborted (k : Strand) (target : Nat) : (k.jump target).gangAborted = k.gangAborted := rfl
@[simp] theorem Strand.jump_mail (k : Strand) (target : Nat) : (k.jump target).mail = k.mail := rfl
@[simp] theorem Strand.jump_lost (k : Strand) (target : Nat) : (k.jump target).lost = k.lost := rfl
@[simp] theorem Strand.jump_yieldTo (k : Strand) (target : Nat) : (k.jump target).yieldTo = k.yieldTo := rfl
@[simp] theorem Strand.jump_yieldBy (k : Strand) (target : Nat) : (k.jump target).yieldBy = k.yieldBy := rfl
@[simp] theorem Strand.jump_opened (k : Strand) (target : Nat) : (k.jump target).opened = k.opened := rfl
@[simp] theorem Strand.jump_worst (k : Strand) (target : Nat) : (k.jump target).worst = k.worst := rfl
@[simp] theorem Strand.jump_errs (k : Strand) (target : Nat) : (k.jump target).errs = k.errs := rfl
@[simp] theorem Strand.jump_acq (k : Strand) (target : Nat) : (k.jump target).acq = k.acq := rfl

@[simp] theorem Strand.parkIn_ctx (k : Strand) (x : Park) : (k.parkIn x).ctx = k.ctx := rfl
@[simp] theorem Strand.parkIn_entry (k : Strand) (x : Park) : (k.parkIn x).entry = k.entry := rfl
@[simp] theorem Strand.parkIn_gen (k : Strand) (x : Park) : (k.parkIn x).gen = k.gen := rfl
@[simp] theorem Strand.parkIn_ticket (k : Strand) (x : Park) : (k.parkIn x).ticket = k.ticket := rfl
@[simp] theorem Strand.parkIn_kernel (k : Strand) (x : Park) : (k.parkIn x).kernel = k.kernel := rfl
@[simp] theorem Strand.parkIn_core (k : Strand) (x : Park) : (k.parkIn x).core = k.core := rfl
@[simp] theorem Strand.parkIn_slot (k : Strand) (x : Park) : (k.parkIn x).slot = k.slot := rfl
@[simp] theorem Strand.parkIn_phase (k : Strand) (x : Park) : (k.parkIn x).phase = .parked x := rfl
@[simp] theorem Strand.parkIn_out (k : Strand) (x : Park) : (k.parkIn x).out = k.out := rfl
@[simp] theorem Strand.parkIn_stall (k : Strand) (x : Park) : (k.parkIn x).stall = .none := rfl
@[simp] theorem Strand.parkIn_regs (k : Strand) (x : Park) : (k.parkIn x).regs = k.regs := rfl
@[simp] theorem Strand.parkIn_vcount (k : Strand) (x : Park) : (k.parkIn x).vcount = k.vcount := rfl
@[simp] theorem Strand.parkIn_vregs (k : Strand) (x : Park) : (k.parkIn x).vregs = k.vregs := rfl
@[simp] theorem Strand.parkIn_masks (k : Strand) (x : Park) : (k.parkIn x).masks = k.masks := rfl
@[simp] theorem Strand.parkIn_pc (k : Strand) (x : Park) : (k.parkIn x).pc = k.pc := rfl
@[simp] theorem Strand.parkIn_ep (k : Strand) (x : Park) : (k.parkIn x).ep = k.ep := rfl
@[simp] theorem Strand.parkIn_st (k : Strand) (x : Park) : (k.parkIn x).st = k.st := rfl
@[simp] theorem Strand.parkIn_sc (k : Strand) (x : Park) : (k.parkIn x).sc = k.sc := rfl
@[simp] theorem Strand.parkIn_share (k : Strand) (x : Park) : (k.parkIn x).share = k.share := rfl
@[simp] theorem Strand.parkIn_eager (k : Strand) (x : Park) : (k.parkIn x).eager = k.eager := rfl
@[simp] theorem Strand.parkIn_counts (k : Strand) (x : Park) : (k.parkIn x).counts = k.counts := rfl
@[simp] theorem Strand.parkIn_run (k : Strand) (x : Park) : (k.parkIn x).run = k.run := rfl
@[simp] theorem Strand.parkIn_pair (k : Strand) (x : Park) : (k.parkIn x).pair = k.pair := rfl
@[simp] theorem Strand.parkIn_recheck (k : Strand) (x : Park) : (k.parkIn x).recheck = k.recheck := rfl
@[simp] theorem Strand.parkIn_again (k : Strand) (x : Park) : (k.parkIn x).again = k.again := rfl
@[simp] theorem Strand.parkIn_since (k : Strand) (x : Park) : (k.parkIn x).since = k.since := rfl
@[simp] theorem Strand.parkIn_ibuf (k : Strand) (x : Park) : (k.parkIn x).ibuf = k.ibuf := rfl
@[simp] theorem Strand.parkIn_vccTarget (k : Strand) (x : Park) : (k.parkIn x).vccTarget = k.vccTarget := rfl
@[simp] theorem Strand.parkIn_gang (k : Strand) (x : Park) : (k.parkIn x).gang = k.gang := rfl
@[simp] theorem Strand.parkIn_gangAborted (k : Strand) (x : Park) : (k.parkIn x).gangAborted = k.gangAborted := rfl
@[simp] theorem Strand.parkIn_mail (k : Strand) (x : Park) : (k.parkIn x).mail = k.mail := rfl
@[simp] theorem Strand.parkIn_lost (k : Strand) (x : Park) : (k.parkIn x).lost = k.lost := rfl
@[simp] theorem Strand.parkIn_yieldTo (k : Strand) (x : Park) : (k.parkIn x).yieldTo = k.yieldTo := rfl
@[simp] theorem Strand.parkIn_yieldBy (k : Strand) (x : Park) : (k.parkIn x).yieldBy = k.yieldBy := rfl
@[simp] theorem Strand.parkIn_opened (k : Strand) (x : Park) : (k.parkIn x).opened = k.opened := rfl
@[simp] theorem Strand.parkIn_worst (k : Strand) (x : Park) : (k.parkIn x).worst = k.worst := rfl
@[simp] theorem Strand.parkIn_errs (k : Strand) (x : Park) : (k.parkIn x).errs = k.errs := rfl
@[simp] theorem Strand.parkIn_acq (k : Strand) (x : Park) : (k.parkIn x).acq = k.acq := rfl

@[simp] theorem Strand.wait_ctx (k : Strand) (x : Stall) : (k.wait x).ctx = k.ctx := rfl
@[simp] theorem Strand.wait_entry (k : Strand) (x : Stall) : (k.wait x).entry = k.entry := rfl
@[simp] theorem Strand.wait_gen (k : Strand) (x : Stall) : (k.wait x).gen = k.gen := rfl
@[simp] theorem Strand.wait_ticket (k : Strand) (x : Stall) : (k.wait x).ticket = k.ticket := rfl
@[simp] theorem Strand.wait_kernel (k : Strand) (x : Stall) : (k.wait x).kernel = k.kernel := rfl
@[simp] theorem Strand.wait_core (k : Strand) (x : Stall) : (k.wait x).core = k.core := rfl
@[simp] theorem Strand.wait_slot (k : Strand) (x : Stall) : (k.wait x).slot = k.slot := rfl
@[simp] theorem Strand.wait_phase (k : Strand) (x : Stall) : (k.wait x).phase = k.phase := rfl
@[simp] theorem Strand.wait_out (k : Strand) (x : Stall) : (k.wait x).out = k.out := rfl
@[simp] theorem Strand.wait_stall (k : Strand) (x : Stall) : (k.wait x).stall = x := rfl
@[simp] theorem Strand.wait_regs (k : Strand) (x : Stall) : (k.wait x).regs = k.regs := rfl
@[simp] theorem Strand.wait_vcount (k : Strand) (x : Stall) : (k.wait x).vcount = k.vcount := rfl
@[simp] theorem Strand.wait_vregs (k : Strand) (x : Stall) : (k.wait x).vregs = k.vregs := rfl
@[simp] theorem Strand.wait_masks (k : Strand) (x : Stall) : (k.wait x).masks = k.masks := rfl
@[simp] theorem Strand.wait_pc (k : Strand) (x : Stall) : (k.wait x).pc = k.unitPc := rfl
@[simp] theorem Strand.wait_ep (k : Strand) (x : Stall) : (k.wait x).ep = k.ep := rfl
@[simp] theorem Strand.wait_st (k : Strand) (x : Stall) : (k.wait x).st = k.st := rfl
@[simp] theorem Strand.wait_sc (k : Strand) (x : Stall) : (k.wait x).sc = k.sc := rfl
@[simp] theorem Strand.wait_share (k : Strand) (x : Stall) : (k.wait x).share = k.share := rfl
@[simp] theorem Strand.wait_eager (k : Strand) (x : Stall) : (k.wait x).eager = k.eager := rfl
@[simp] theorem Strand.wait_counts (k : Strand) (x : Stall) : (k.wait x).counts = k.counts := rfl
@[simp] theorem Strand.wait_run (k : Strand) (x : Stall) : (k.wait x).run = none := rfl
@[simp] theorem Strand.wait_recheck (k : Strand) (x : Stall) : (k.wait x).recheck = k.recheck := rfl
@[simp] theorem Strand.wait_again (k : Strand) (x : Stall) : (k.wait x).again = k.again := rfl
@[simp] theorem Strand.wait_since (k : Strand) (x : Stall) : (k.wait x).since = k.since := rfl
@[simp] theorem Strand.wait_ibuf (k : Strand) (x : Stall) : (k.wait x).ibuf = k.ibuf := rfl
@[simp] theorem Strand.wait_vccTarget (k : Strand) (x : Stall) : (k.wait x).vccTarget = k.vccTarget := rfl
@[simp] theorem Strand.wait_gang (k : Strand) (x : Stall) : (k.wait x).gang = k.gang := rfl
@[simp] theorem Strand.wait_gangAborted (k : Strand) (x : Stall) : (k.wait x).gangAborted = k.gangAborted := rfl
@[simp] theorem Strand.wait_mail (k : Strand) (x : Stall) : (k.wait x).mail = k.mail := rfl
@[simp] theorem Strand.wait_lost (k : Strand) (x : Stall) : (k.wait x).lost = k.lost := rfl
@[simp] theorem Strand.wait_yieldTo (k : Strand) (x : Stall) : (k.wait x).yieldTo = k.yieldTo := rfl
@[simp] theorem Strand.wait_yieldBy (k : Strand) (x : Stall) : (k.wait x).yieldBy = k.yieldBy := rfl
@[simp] theorem Strand.wait_opened (k : Strand) (x : Stall) : (k.wait x).opened = k.opened := rfl
@[simp] theorem Strand.wait_worst (k : Strand) (x : Stall) : (k.wait x).worst = k.worst := rfl
@[simp] theorem Strand.wait_errs (k : Strand) (x : Stall) : (k.wait x).errs = k.errs := rfl
@[simp] theorem Strand.wait_acq (k : Strand) (x : Stall) : (k.wait x).acq = k.acq := rfl

@[simp] theorem Strand.park_ctx (k : Strand) (x : Park) : (k.park x).ctx = k.ctx := rfl
@[simp] theorem Strand.park_entry (k : Strand) (x : Park) : (k.park x).entry = k.entry := rfl
@[simp] theorem Strand.park_gen (k : Strand) (x : Park) : (k.park x).gen = k.gen := rfl
@[simp] theorem Strand.park_ticket (k : Strand) (x : Park) : (k.park x).ticket = k.ticket := rfl
@[simp] theorem Strand.park_kernel (k : Strand) (x : Park) : (k.park x).kernel = k.kernel := rfl
@[simp] theorem Strand.park_core (k : Strand) (x : Park) : (k.park x).core = k.core := rfl
@[simp] theorem Strand.park_slot (k : Strand) (x : Park) : (k.park x).slot = k.slot := rfl
@[simp] theorem Strand.park_phase (k : Strand) (x : Park) : (k.park x).phase = .parked x := rfl
@[simp] theorem Strand.park_out (k : Strand) (x : Park) : (k.park x).out = k.out := rfl
@[simp] theorem Strand.park_stall (k : Strand) (x : Park) : (k.park x).stall = .none := rfl
@[simp] theorem Strand.park_regs (k : Strand) (x : Park) : (k.park x).regs = k.regs := rfl
@[simp] theorem Strand.park_vcount (k : Strand) (x : Park) : (k.park x).vcount = k.vcount := rfl
@[simp] theorem Strand.park_vregs (k : Strand) (x : Park) : (k.park x).vregs = k.vregs := rfl
@[simp] theorem Strand.park_masks (k : Strand) (x : Park) : (k.park x).masks = k.masks := rfl
@[simp] theorem Strand.park_pc (k : Strand) (x : Park) : (k.park x).pc = k.unitPc := rfl
@[simp] theorem Strand.park_ep (k : Strand) (x : Park) : (k.park x).ep = k.ep := rfl
@[simp] theorem Strand.park_st (k : Strand) (x : Park) : (k.park x).st = k.st := rfl
@[simp] theorem Strand.park_sc (k : Strand) (x : Park) : (k.park x).sc = k.sc := rfl
@[simp] theorem Strand.park_share (k : Strand) (x : Park) : (k.park x).share = k.share := rfl
@[simp] theorem Strand.park_eager (k : Strand) (x : Park) : (k.park x).eager = k.eager := rfl
@[simp] theorem Strand.park_counts (k : Strand) (x : Park) : (k.park x).counts = k.counts := rfl
@[simp] theorem Strand.park_run (k : Strand) (x : Park) : (k.park x).run = none := rfl
@[simp] theorem Strand.park_recheck (k : Strand) (x : Park) : (k.park x).recheck = k.recheck := rfl
@[simp] theorem Strand.park_again (k : Strand) (x : Park) : (k.park x).again = k.again := rfl
@[simp] theorem Strand.park_since (k : Strand) (x : Park) : (k.park x).since = k.since := rfl
@[simp] theorem Strand.park_ibuf (k : Strand) (x : Park) : (k.park x).ibuf = k.ibuf := rfl
@[simp] theorem Strand.park_vccTarget (k : Strand) (x : Park) : (k.park x).vccTarget = k.vccTarget := rfl
@[simp] theorem Strand.park_gang (k : Strand) (x : Park) : (k.park x).gang = k.gang := rfl
@[simp] theorem Strand.park_gangAborted (k : Strand) (x : Park) : (k.park x).gangAborted = k.gangAborted := rfl
@[simp] theorem Strand.park_mail (k : Strand) (x : Park) : (k.park x).mail = k.mail := rfl
@[simp] theorem Strand.park_lost (k : Strand) (x : Park) : (k.park x).lost = k.lost := rfl
@[simp] theorem Strand.park_yieldTo (k : Strand) (x : Park) : (k.park x).yieldTo = k.yieldTo := rfl
@[simp] theorem Strand.park_yieldBy (k : Strand) (x : Park) : (k.park x).yieldBy = k.yieldBy := rfl
@[simp] theorem Strand.park_opened (k : Strand) (x : Park) : (k.park x).opened = k.opened := rfl
@[simp] theorem Strand.park_worst (k : Strand) (x : Park) : (k.park x).worst = k.worst := rfl
@[simp] theorem Strand.park_errs (k : Strand) (x : Park) : (k.park x).errs = k.errs := rfl
@[simp] theorem Strand.park_acq (k : Strand) (x : Park) : (k.park x).acq = k.acq := rfl

/-! ### Registers -/

/-- A register reads back what is written to it, and no other changes; register numbers count modulo 16. -/
theorem Strand.g_setG (k : Strand) (r j : Nat) (x : GReg) : (k.setG r x).g j = if r % 16 = j % 16 then x else k.g j := by
  simp only [Strand.g, Strand.setG, Vector.getElem_set]

@[simp] theorem Strand.g_setG_self (k : Strand) (r : Nat) (x : GReg) : (k.setG r x).g r = x := by
  simp [Strand.g_setG]

theorem Strand.v_setV (k : Strand) (r j : Nat) (x : VReg) : (k.setV r x).v j = if r % 32 = j % 32 then x else k.v j := by
  simp only [Strand.v, Strand.setV, Vector.getElem_set]

@[simp] theorem Strand.v_setV_self (k : Strand) (r : Nat) (x : VReg) : (k.setV r x).v r = x := by
  simp [Strand.v_setV]

/-- Writes to k0 are discarded (R243). -/
theorem Strand.setM_zero (k : Strand) (r : Nat) (x : KReg) (h : r % 8 = 0) : k.setM r x = k := by
  simp [Strand.setM, h]

theorem Strand.m_setM (k : Strand) (r j : Nat) (x : KReg) (h : r % 8 ≠ 0) :
    (k.setM r x).m j = if r % 8 = j % 8 then x else k.m j := by
  unfold Strand.setM Strand.m
  by_cases hj : j % 8 = 0
  · have : ¬ r % 8 = j % 8 := by omega
    simp [h, hj]
  · simp [h, hj, Vector.getElem_set]

@[simp] theorem Strand.g_setV (k : Strand) (r j : Nat) (x : VReg) : (k.setV r x).g j = k.g j := rfl
@[simp] theorem Strand.v_setG (k : Strand) (r j : Nat) (x : GReg) : (k.setG r x).v j = k.v j := rfl
@[simp] theorem Strand.g_setSt (k : Strand) (x : Status) (j : Nat) : (k.setSt x).g j = k.g j := rfl
@[simp] theorem Strand.v_setSt (k : Strand) (x : Status) (j : Nat) : (k.setSt x).v j = k.v j := rfl
@[simp] theorem Strand.g_taint (k : Strand) (c : Code) (j : Nat) : (k.taint c).g j = k.g j := rfl
@[simp] theorem Strand.v_taint (k : Strand) (c : Code) (j : Nat) : (k.taint c).v j = k.v j := rfl
@[simp] theorem Strand.g_advance (k : Strand) (j : Nat) : k.advance.g j = k.g j := by
  simp only [Strand.g, Strand.advance_regs]
@[simp] theorem Strand.v_advance (k : Strand) (j : Nat) : k.advance.v j = k.v j := by
  simp only [Strand.v, Strand.advance_vregs]

end Sys2Proof.Machine
end

