-- ==== Sys2Proof/Laws/Memory.lean ====
section
/-! SUPPORT. Memory: what a byte reads as after a write, and that every operation on memory keeps its canonical form. -/

namespace Sys2Proof.Machine

/-! ### One byte -/

theorem Memory.wfFrom_le (m : Memory) (lo lo' : Nat) (h : Memory.wfFrom lo m = true) (hl : lo' ≤ lo) :
    Memory.wfFrom lo' m = true := by
  cases m with
  | nil => rfl
  | cons p m =>
    simp only [Memory.wfFrom, Bool.and_eq_true, decide_eq_true_eq] at h ⊢
    exact ⟨⟨Nat.le_trans hl h.1.1, h.1.2⟩, h.2⟩

theorem Memory.read_below (m : Memory) (lo a : Nat) (h : Memory.wfFrom lo m = true) (ha : a < lo) : m.read a = unlisted := by
  cases m with
  | nil => rfl
  | cons p m =>
    simp only [Memory.wfFrom, Bool.and_eq_true, decide_eq_true_eq] at h
    have h1 : p.1 ≠ a := by omega
    have h2 : a < p.1 := by omega
    simp [Memory.read, h1, h2]

/-- A byte reads back what is written to it, and every other byte reads as before. -/
theorem Memory.read_write (m : Memory) (lo k a : Nat) (v : Byte) (h : Memory.wfFrom lo m = true) :
    (m.write k v).read a = if a = k then v else m.read a := by
  induction m generalizing lo with
  | nil =>
    unfold Memory.write
    split
    · rename_i hv; split <;> simp [Memory.read, hv]
    · by_cases hk : a = k
      · subst hk; simp [Memory.read]
      · simp [Memory.read, hk, Ne.symm hk]
  | cons p m ih =>
    obtain ⟨b, w⟩ := p
    have hw := h
    simp only [Memory.wfFrom, Bool.and_eq_true, decide_eq_true_eq] at h
    have hb : ∀ x, x ≤ b → Memory.read m x = unlisted := fun x hx => Memory.read_below m (b + 1) x h.2 (by omega)
    unfold Memory.write
    split
    · rename_i hbk
      simp only [Memory.read, ih (b + 1) h.2]
      by_cases h1 : b = a
      · have : a ≠ k := by omega
        simp [h1, this]
      · by_cases h2 : a < b
        · have : a ≠ k := by omega
          simp [h1, h2, this]
        · simp [h1, h2]
    · split
      · rename_i hbk; subst hbk
        split
        · rename_i hv
          by_cases h1 : a = b
          · simp [h1, hv, hb b (Nat.le_refl b)]
          · by_cases h2 : a < b
            · simp [Memory.read, h1, Ne.symm h1, h2, hb a (by omega)]
            · simp [Memory.read, h1, Ne.symm h1, h2]
        · by_cases h1 : a = b
          · simp [Memory.read, h1]
          · simp [Memory.read, h1, Ne.symm h1]
      · rename_i hn1 hn2
        have hkb : k < b := by omega
        split
        · rename_i hv
          by_cases h1 : a = k
          · have h2 : b ≠ k := by omega
            simp [Memory.read, h1, h2, hkb, hv]
          · simp [h1]
        · by_cases h1 : a = k
          · simp [Memory.read, h1]
          · by_cases h2 : a < k
            · have h3 : b ≠ a := by omega
              have h4 : a < b := by omega
              simp [Memory.read, h1, Ne.symm h1, h2, h3, h4]
            · simp [Memory.read, h1, Ne.symm h1, h2]

theorem Memory.write_wfFrom (m : Memory) (lo k : Nat) (v : Byte) (h : Memory.wfFrom lo m = true) (hk : lo ≤ k) :
    Memory.wfFrom lo (m.write k v) = true := by
  induction m generalizing lo with
  | nil =>
    unfold Memory.write
    split
    · rfl
    · rename_i hv; simp [Memory.wfFrom, hv, hk]
  | cons p m ih =>
    obtain ⟨b, w⟩ := p
    simp only [Memory.wfFrom, Bool.and_eq_true, decide_eq_true_eq] at h
    unfold Memory.write
    split
    · simp [Memory.wfFrom, h.1.1, h.1.2, ih (b + 1) h.2 (by omega)]
    · split
      · split
        · exact Memory.wfFrom_le m (b + 1) lo h.2 (by omega)
        · rename_i hv; simp [Memory.wfFrom, h.1.1, hv, h.2]
      · rename_i hn1 hn2
        have : k + 1 ≤ b := by omega
        split
        · simp [Memory.wfFrom, h.1.1, h.1.2, h.2]
        · rename_i hv; simp [Memory.wfFrom, hk, hv, this, h.1.2, h.2]

/-- A write of one byte keeps the canonical form. -/
theorem Memory.write_wf (m : Memory) (k : Nat) (v : Byte) (h : m.wf = true) : (m.write k v).wf = true :=
  Memory.write_wfFrom m 0 k v h (Nat.zero_le k)

/-! ### Bytes in a row -/

theorem Memory.writeBytes_wf (m : Memory) (k : Nat) (bs : List Byte) (h : m.wf = true) : (m.writeBytes k bs).wf = true := by
  induction bs generalizing m k with
  | nil => exact h
  | cons b bs ih => exact ih _ _ (Memory.write_wf m k b h)

/-- After a write of bytes in a row, those bytes read as written and every other as before. -/
theorem Memory.read_writeBytes (m : Memory) (k a : Nat) (bs : List Byte) (h : m.wf = true) :
    (m.writeBytes k bs).read a = if k ≤ a ∧ a < k + bs.length then bs.getD (a - k) 0 else m.read a := by
  induction bs generalizing m k with
  | nil =>
    have h1 : ¬ (k ≤ a ∧ a < k + ([] : List Byte).length) := by simp
    rw [if_neg h1]
    rfl
  | cons b bs ih =>
    simp only [Memory.writeBytes, ih _ _ (Memory.write_wf m k b h), Memory.read_write m 0 k a b h, List.length_cons]
    by_cases h1 : a = k
    · subst h1
      simp
    · by_cases h2 : k + 1 ≤ a ∧ a < k + 1 + bs.length
      · have h3 : k ≤ a ∧ a < k + (bs.length + 1) := by omega
        have h4 : a - k = (a - (k + 1)) + 1 := by omega
        rw [if_pos h2, if_pos h3, h4]
        rfl
      · have h3 : ¬ (k ≤ a ∧ a < k + (bs.length + 1)) := by omega
        rw [if_neg h2, if_neg h3, if_neg h1]

/-- Filtering keeps the canonical form. -/
theorem Memory.filter_wfFrom (m : Memory) (lo : Nat) (f : Host.Cell → Bool) (h : Memory.wfFrom lo m = true) :
    Memory.wfFrom lo (m.filter f) = true := by
  induction m generalizing lo with
  | nil => rfl
  | cons p m ih =>
    obtain ⟨b, w⟩ := p
    simp only [Memory.wfFrom, Bool.and_eq_true, decide_eq_true_eq] at h
    have hm := ih (b + 1) h.2
    by_cases hf : f (b, w) = true
    · simp [hf, Memory.wfFrom, h.1.1, h.1.2, hm]
    · simp only [List.filter_cons, hf, Bool.false_eq_true, if_false]
      exact Memory.wfFrom_le _ (b + 1) lo hm (by omega)

theorem Memory.foldWrite_wf {β : Type} (l : List β) (m : Memory) (ka : β → Nat) (kv : β → Byte) (h : m.wf = true) :
    (l.foldl (fun m c => m.write (ka c) (kv c)) m).wf = true := by
  induction l generalizing m with
  | nil => exact h
  | cons c l ih => exact ih _ (Memory.write_wf m _ _ h)

/-! ### Writes with their poison and damage -/

@[simp] theorem cleanWrite_mem (s : State) (key : Nat) (bs : List Byte) : (cleanWrite s key bs).mem = s.mem.writeBytes key bs := rfl
@[simp] theorem poisonUnit_mem (c : Code) (s : State) (u : Nat) :
    (poisonUnit c s u).mem = s.mem.writeBytes u (List.replicate (unitSize u) 0) := rfl

theorem cleanWrite_wf (s : State) (key : Nat) (bs : List Byte) (h : s.mem.wf = true) : (cleanWrite s key bs).mem.wf = true :=
  Memory.writeBytes_wf s.mem key bs h

theorem poisonUnits_wf (us : List Nat) (c : Code) (s : State) (h : s.mem.wf = true) :
    (us.foldl (poisonUnit c) s).mem.wf = true := by
  induction us generalizing s with
  | nil => exact h
  | cons u us ih => exact ih _ (Memory.writeBytes_wf s.mem u _ h)

theorem poisonWrite_wf (s : State) (key n : Nat) (c : Code) (h : s.mem.wf = true) : (poisonWrite s key n c).mem.wf = true :=
  poisonUnits_wf _ c s h

theorem rawWrite_wf (s : State) (w : MemWrite) (h : s.mem.wf = true) : (rawWrite s w).mem.wf = true := by
  unfold rawWrite
  split
  · exact poisonWrite_wf s _ _ _ h
  · exact cleanWrite_wf s _ _ h

/-! ### The log, errors and caches -/

@[simp] theorem snapTrigger_mem (s : State) : (snapTrigger s).mem = s.mem := by
  unfold snapTrigger; repeat' split
  all_goals rfl

@[simp] theorem logFray_mem (s : State) (kind : Nat) (code : Code) (ctx scope addr detail : Nat) :
    (logFray s kind code ctx scope addr detail).mem = s.mem := by
  unfold logFray; dsimp only
  repeat' split
  all_goals simp

@[simp] theorem noteRow_mem (s : State) (u : Nat) : (noteRow s u).mem = s.mem := by
  unfold noteRow; split <;> rfl

@[simp] theorem noteUnit_mem (ctx : Nat) (s : State) (u : Nat) : (noteUnit ctx s u).mem = s.mem := by
  unfold noteUnit
  split
  · dsimp only; split <;> simp
  · rfl
  · rfl

/-- Errors that a read finds are noted without a change of memory. -/
@[simp] theorem noteDamage_mem (s : State) (ctx key n : Nat) : (noteDamage s ctx key n).mem = s.mem := by
  have h : ∀ (us : List Nat) (s : State), (us.foldl (noteUnit ctx) s).mem = s.mem := by
    intro us
    induction us with
    | nil => exact fun s => rfl
    | cons u us ih => intro s; simp [ih]
  exact h _ s

@[simp] theorem dropLines_mem (s : State) (which : Nat → Bool) (gone : Line → Bool) : (dropLines s which gone).mem = s.mem := rfl

@[simp] theorem dropRange_mem (s : State) (which : Nat → Bool) (key n : Nat) : (dropRange s which key n).mem = s.mem := by
  unfold dropRange; split <;> rfl

/-! ### The contents of a page on the move -/

/-- The contents of a page that is given up, copied or moved keep memory's form. -/
theorem clearRange_wf (s : State) (a n : Nat) (h : s.mem.wf = true) : (clearRange s a n).mem.wf = true := by
  rw [clearRange, dropRange_mem]
  exact Memory.filter_wfFrom s.mem 0 _ h

theorem repairUnit_wf (s : State) (u : Nat) (h : s.mem.wf = true) : (repairUnit s u).mem.wf = true := by
  unfold repairUnit
  split
  · exact h
  · simpa using h
  · exact poisonUnits_wf [u] 1 _ (by simpa using h)
  · exact poisonUnits_wf [u] 1 s h

theorem repairUnits_wf (us : List Nat) (s : State) (h : s.mem.wf = true) : (us.foldl repairUnit s).mem.wf = true := by
  induction us generalizing s with
  | nil => exact h
  | cons u us ih => exact ih _ (repairUnit_wf s u h)

theorem putRange_wf (s : State) (a b n : Nat) (from_ : State) (h : s.mem.wf = true) : (putRange s a b n from_).mem.wf = true :=
  Memory.foldWrite_wf _ _ _ _ (clearRange_wf s b n h)

theorem copyRange_wf (s : State) (a b n : Nat) (h : s.mem.wf = true) : (copyRange s a b n).mem.wf = true :=
  putRange_wf _ a b n _ (repairUnits_wf _ s h)

theorem moveRange_wf (s : State) (a b n : Nat) (h : s.mem.wf = true) : (moveRange s a b n).mem.wf = true :=
  putRange_wf _ a b n _ (clearRange_wf _ a n (repairUnits_wf _ s h))

theorem movePage_wf (s : State) (key leaf b : Nat) (h : s.mem.wf = true) : (movePage s key leaf b).mem.wf = true := by
  unfold movePage
  split
  · exact copyRange_wf s _ _ _ h
  · exact moveRange_wf s _ _ _ h

/-- Memory is in its canonical form after reset. -/
theorem reset_mem_wf : State.reset.mem.wf = true := rfl

end Sys2Proof.Machine
end

