-- ==== Sys2Proof/Laws/Table.lean ====
section
/-! SUPPORT. Tables: what is found after a record is put, taken away or changed. -/

namespace Sys2Proof

variable {α : Type}

@[simp] theorem Tab.find_put_self (t : Tab α) (k : Nat) (v : α) : Tab.find (Tab.put t k v) k = some v := by
  induction t with
  | nil => simp [Tab.put, Tab.find]
  | cons p t ih =>
    obtain ⟨j, w⟩ := p
    unfold Tab.put
    split
    · simp [Tab.find]
    · split
      · simp [Tab.find]
      · rename_i h; simp [Tab.find, h, ih]

theorem Tab.find_put_other (t : Tab α) (k j : Nat) (v : α) (h : j ≠ k) : Tab.find (Tab.put t k v) j = Tab.find t j := by
  induction t with
  | nil => simp [Tab.put, Tab.find, Ne.symm h]
  | cons p t ih =>
    obtain ⟨i, w⟩ := p
    unfold Tab.put
    split
    · simp [Tab.find, Ne.symm h]
    · split
      · rename_i hi; subst hi; simp [Tab.find, Ne.symm h]
      · simp [Tab.find, ih]

theorem Tab.find_put (t : Tab α) (k j : Nat) (v : α) :
    Tab.find (Tab.put t k v) j = if j = k then some v else Tab.find t j := by
  split
  · rename_i h; subst h; simp
  · rename_i h; exact Tab.find_put_other t k j v h

theorem Tab.find_del_other (t : Tab α) (k j : Nat) (h : j ≠ k) : Tab.find (Tab.del t k) j = Tab.find t j := by
  induction t with
  | nil => rfl
  | cons p t ih =>
    obtain ⟨i, w⟩ := p
    unfold Tab.del
    split
    · rename_i hi; subst hi; simp [Tab.find, Ne.symm h]
    · simp [Tab.find, ih]

@[simp] theorem Tab.find_modify_self (t : Tab α) (k : Nat) (f : α → α) :
    Tab.find (Tab.modify t k f) k = (Tab.find t k).map f := by
  induction t with
  | nil => rfl
  | cons p t ih =>
    obtain ⟨i, w⟩ := p
    unfold Tab.modify
    split
    · rename_i hi; simp [Tab.find, hi]
    · rename_i hi; simp [Tab.find, hi, ih]

theorem Tab.find_modify_other (t : Tab α) (k j : Nat) (f : α → α) (h : j ≠ k) :
    Tab.find (Tab.modify t k f) j = Tab.find t j := by
  induction t with
  | nil => rfl
  | cons p t ih =>
    obtain ⟨i, w⟩ := p
    unfold Tab.modify
    split
    · rename_i hi; subst hi; simp [Tab.find, Ne.symm h]
    · simp [Tab.find, ih]

/-- Two changes that agree on the record at a number make the same table. -/
theorem Tab.modify_congr {t : Tab α} {k : Nat} {v : α} {f g : α → α} (h : Tab.find t k = some v) (hv : f v = g v) :
    Tab.modify t k f = Tab.modify t k g := by
  induction t with
  | nil => rfl
  | cons p t ih =>
    obtain ⟨i, w⟩ := p
    unfold Tab.modify
    by_cases hi : i = k
    · simp only [Tab.find, hi, if_true, Option.some.injEq] at h
      simp [hi, h, hv]
    · simp only [Tab.find, hi, if_false] at h
      simp [hi, ih h]

/-- A change that leaves the record at a number as it is leaves the table. -/
theorem Tab.modify_id {t : Tab α} {k : Nat} {v : α} {f : α → α} (h : Tab.find t k = some v) (hv : f v = v) :
    Tab.modify t k f = t := by
  induction t with
  | nil => rfl
  | cons p t ih =>
    obtain ⟨i, w⟩ := p
    unfold Tab.modify
    by_cases hi : i = k
    · simp only [Tab.find, hi, if_true, Option.some.injEq] at h
      simp [hi, h, hv]
    · simp only [Tab.find, hi, if_false] at h
      simp [hi, ih h]

@[simp] theorem Tab.find_mapAll (t : Tab α) (f : Nat → α → α) (k : Nat) :
    Tab.find (Tab.mapAll t f) k = (Tab.find t k).map (f k) := by
  unfold Tab.mapAll
  induction t with
  | nil => rfl
  | cons p t ih =>
    obtain ⟨i, w⟩ := p
    simp only [List.map_cons, Tab.find]
    split
    · rename_i hi; simp [hi]
    · exact ih

/-- Every number of the table is at least `lo`, and they rise. -/
def Tab.risingFrom : Nat → Tab α → Prop
  | _, [] => True
  | lo, (j, _) :: t => lo ≤ j ∧ Tab.risingFrom (j + 1) t

/-- A number below all of a rising table is not found. -/
theorem Tab.find_below (t : Tab α) (lo k : Nat) (h : Tab.risingFrom lo t) (hk : k < lo) : Tab.find t k = none := by
  induction t generalizing lo with
  | nil => rfl
  | cons p t ih =>
    obtain ⟨i, w⟩ := p
    have h1 : lo ≤ i := h.1
    have : i ≠ k := by omega
    simp only [Tab.find, this, if_false]
    exact ih (i + 1) h.2 (by omega)

/-- What a rising table has lost is not found again. -/
theorem Tab.find_del_self (t : Tab α) (lo k : Nat) (h : Tab.risingFrom lo t) : Tab.find (Tab.del t k) k = none := by
  induction t generalizing lo with
  | nil => rfl
  | cons p t ih =>
    obtain ⟨i, w⟩ := p
    unfold Tab.del
    split
    · rename_i hi; exact Tab.find_below t (i + 1) k h.2 (by omega)
    · rename_i hi; simp only [Tab.find, hi, if_false]; exact ih (i + 1) h.2

theorem Tab.put_rising (t : Tab α) (lo k : Nat) (v : α) (h : Tab.risingFrom lo t) (hk : lo ≤ k) :
    Tab.risingFrom lo (Tab.put t k v) := by
  induction t generalizing lo with
  | nil => exact ⟨hk, trivial⟩
  | cons p t ih =>
    obtain ⟨i, w⟩ := p
    unfold Tab.put
    split
    · exact ⟨hk, by omega, h.2⟩
    · split
      · rename_i hi; exact ⟨hk, hi ▸ h.2⟩
      · exact ⟨h.1, ih (i + 1) h.2 (by omega)⟩

theorem Tab.risingFrom_le (t : Tab α) (lo lo' : Nat) (h : Tab.risingFrom lo t) (hl : lo' ≤ lo) : Tab.risingFrom lo' t := by
  cases t with
  | nil => trivial
  | cons p t => exact ⟨Nat.le_trans hl h.1, h.2⟩

theorem Tab.del_rising (t : Tab α) (lo k : Nat) (h : Tab.risingFrom lo t) : Tab.risingFrom lo (Tab.del t k) := by
  induction t generalizing lo with
  | nil => trivial
  | cons p t ih =>
    obtain ⟨i, w⟩ := p
    unfold Tab.del
    split
    · exact Tab.risingFrom_le t (i + 1) lo h.2 (by have : lo ≤ i := h.1; omega)
    · exact ⟨h.1, ih (i + 1) h.2⟩

end Sys2Proof
end

