-- ==== Sys2Proof/Laws/Ops.lean ====
section
/-! SUPPORT. The operations that the meanings share: what each answers, said once. -/

namespace Sys2Proof.Machine

/-! ### Issue -/

/-- What an instruction that issues with nothing in its way does is its own flow. -/
theorem issue_of_issues {s : State} {sid : Nat} {k : Strand} {i : Instr} {reads dests : List Nat}
    (h : Issues s sid k i reads dests) (body : State → Nat → Strand → Out) : issue i reads dests s body = body s sid k := by
  obtain ⟨hc, hk, hu, hr, he, hp, hw⟩ := h
  simp [issue, issueReady, hc, hk, hu, hr, he, hp, hw]

/-- The same for the vector unit. -/
theorem issueV_of_issues {s : State} {sid : Nat} {k : Strand} {i : Instr} {vs reads dests : List Nat}
    (h : IssuesV s sid k i vs reads dests) (body : State → Nat → Strand → Out) : issueV i vs reads dests s body = body s sid k := by
  obtain ⟨h1, hv, hok, hp⟩ := h
  obtain ⟨hc, hk, hu, hr, he, hd, hw⟩ := h1
  simp [issueV, issue, issueReady, hc, hk, hu, hr, he, hd, hw, hv, hok, hp]

/-- A word that is not legal with its hints traps (R80, R83). -/
theorem issue_of_illegal {s : State} {sid : Nat} {k : Strand} {i : Instr} (reads dests : List Nat)
    (body : State → Nat → Strand → Out) (hc : s.cur = some sid) (hk : Tab.find s.strands sid = some k)
    (hu : unitLegal k i = false) : issue i reads dests s body = .next (trap s sid causeIllegal) := by
  simp [issue, hc, hk, hu]

/-- If an issue answers a next state then the strand left at a cancellation point, or it parked, or the instruction's own flow
answered it, after the errors that its reads found (R28). -/
theorem issueReady_cases {reads dests : List Nat} {point : Bool} {s t : State} {sid : Nat}
    {body : State → Nat → Strand → Out} (h : issueReady reads dests point s sid body = .next t) :
    (∃ k r, Tab.find s.strands sid = some k ∧ firstEmpty k reads = some r ∧
      (t = (cancelPoint s sid).1 ∨ t = (cancelPoint s sid).1.modStrand sid (fun k => k.park (.reg r)) ∨
        t = s.modStrand sid fun k => k.park (.reg r))) ∨
    (∃ k r, Tab.find s.strands sid = some k ∧ firstEmpty k reads = none ∧ firstPending k dests = some r ∧
      t = s.putStrand sid (k.park (.ret r))) ∨
    ∃ k, Tab.find s.strands sid = some k ∧ firstEmpty k reads = none ∧ firstPending k dests = none ∧
      ((k.errs = [] ∧ body s sid k = .next t) ∨
        ∃ k1, Tab.find (noteWords s sid reads).strands sid = some k1 ∧ body (noteWords s sid reads) sid k1 = .next t) := by
  unfold issueReady at h
  cases hk : Tab.find s.strands sid with
  | none => simp [hk] at h
  | some k =>
    simp only [hk] at h
    cases he : firstEmpty k reads with
    | some r =>
      refine .inl ⟨k, r, rfl, he, ?_⟩
      simp only [he] at h
      by_cases hp : (point || k.pair.length == 1) = true
      · simp only [if_pos hp] at h
        exact .inr (.inr (by simpa using h.symm))
      · simp only [if_neg hp] at h
        split at h
        · exact .inr (.inl (by simpa using h.symm))
        · exact .inl (by simpa using h.symm)
    | none =>
      simp only [he] at h
      cases hp : firstPending k dests with
      | some r => exact .inr (.inl ⟨k, r, rfl, he, hp, by simpa [hp] using h.symm⟩)
      | none =>
        refine .inr (.inr ⟨k, rfl, he, hp, ?_⟩)
        by_cases hw : k.errs = []
        · exact .inl ⟨hw, by simpa [hp, hw] using h⟩
        · cases hn : Tab.find (noteWords s sid reads).strands sid with
          | none => simp [hp, hw, hn] at h
          | some k1 => exact .inr ⟨k1, rfl, by simpa [hp, hw, hn] using h⟩

/-! ### Pointers, cancellation points, the end of a word -/

theorem withClean_of_clean {s : State} {sid : Nat} {k : Strand} {rs : List Nat} (h : AllClean k rs) (body : Out) :
    withClean s sid k rs body = body := by
  simp [withClean, h]

theorem withClean_of_frayed {s : State} {sid : Nat} {k : Strand} {rs : List Nat} {c : Code} (h : firstFray k rs = some c)
    (body : Out) : withClean s sid k rs body = .next (observeFray s sid c) := by
  simp [withClean, h]

@[simp] theorem retire_eq (s : State) (sid : Nat) (k : Strand) : retire s sid k = .next (s.putStrand sid k.advance) := rfl

@[simp] theorem AllClean_nil (k : Strand) : AllClean k [] := rfl

/-- A cancellation point with no cancel that the shield lets through and no taint only starts the eager count anew. -/
theorem cancelPoint_quiet {s : State} {sid : Nat} {k : Strand} (hk : Tab.find s.strands sid = some k)
    (hc : k.st.c = false ∨ 0 < k.st.sd) (ht : k.st.t = false) :
    cancelPoint s sid = (s.modStrand sid fun k => { k with eager := 0 }, true) := by
  have hf : Tab.find (s.modStrand sid fun k => { k with eager := 0 }).strands sid = some { k with eager := 0 } := by
    simp [hk]
  rcases hc with hc | hc <;> simp [cancelPoint, taintCheck, actOnCancel, hk, hc, ht]

/-- A cancellation point that a strand goes on from leaves it in the table. -/
theorem cancelPoint_goes_on {s : State} {sid : Nat} (h : (cancelPoint s sid).2 = true) :
    ∃ k, Tab.find (cancelPoint s sid).1.strands sid = some k := by
  unfold cancelPoint at h ⊢
  generalize taintCheck (s.modStrand sid fun k => { k with eager := 0 }) sid = x at h ⊢
  unfold actOnCancel at h ⊢
  cases hk : Tab.find x.strands sid with
  | none => simp [hk] at h
  | some k =>
    simp only [hk] at h ⊢
    split at h
    · rename_i hq; simp [hq, hk]
    · repeat' split at h
      all_goals simp at h

/-- The flow after a cancellation point that finds nothing to act on. -/
theorem atPoint_quiet {s : State} {sid : Nat} {k : Strand} (hk : Tab.find s.strands sid = some k) (h : Quiet k)
    (body : State → Strand → Out) : atPoint s sid body = body (s.pointed sid) k.pointed := by
  by_cases ha : k.again = true
  · have hm : s.pointed sid = s := by
      have : Tab.modify s.strands sid Strand.pointed = s.strands := Tab.modify_id hk (by simp [Strand.pointed, ha])
      simp [State.pointed, State.modStrand, this]
    simp [atPoint, hk, ha, hm, Strand.pointed]
  · have h := h.resolve_left ha
    have ha : k.again = false := by simpa using ha
    have hm : s.modStrand sid (fun k => { k with eager := 0 }) = s.pointed sid := by
      have : Tab.modify s.strands sid (fun k => { k with eager := 0 }) = Tab.modify s.strands sid Strand.pointed :=
        Tab.modify_congr hk (by simp [Strand.pointed, ha])
      simp [State.pointed, State.modStrand, this]
    have hf : Tab.find (s.pointed sid).strands sid = some k.pointed := by simp [State.pointed, hk]
    simp [atPoint, hk, ha, cancelPoint_quiet hk h.1 h.2, hm, hf]

/-! ### Arithmetic words -/

/-- A clean source list: the result is full and clean in g[d], and nothing else of the strand but its pc changes. -/
theorem alu_of_clean {s : State} {sid : Nat} {k : Strand} {i : Instr} {d : Nat} {srcs : List Nat} (f : Strand → Word)
    (h : Issues s sid k i srcs [d]) (hc : AllClean k srcs) :
    alu i d srcs f s = .next (s.putStrand sid (k.writeG d (f k)).advance) := by
  have hr : k.result d (f k) srcs = k.writeG d (f k) := by
    unfold Strand.result
    rw [show firstFray k srcs = none from hc]
  rw [alu, issue_of_issues h, hr, retire_eq]

/-! ### Traps -/

/-- A trap in a kernel with a usable entry changes its strand alone (R92). -/
theorem trap_usable {s : State} {sid cause : Nat} {k : Strand} (hk : Tab.find s.strands sid = some k)
    {tv : Nat} (h0 : trapEntry s k = some tv) (hf : fetchSegOk (segsOf s k.ctx k.core) tv = true) :
    trap s sid cause = s.putStrand sid { (k.saveTrap cause).endUnit with eager := k.count, pair := [], pc := tv } := by
  simp [trap, hk, h0, hf]

/-! ### Accesses -/

/-- An access that is granted at a place of the issuer's die is performed there. -/
theorem withAccess_of_local {s : State} {sid : Nat} {k : Strand} {ptr n align need : Nat} {moves : Bool} {l : Loc}
    (h : LocalAt s sid k ptr n align need l) (body : Way → Out) :
    withAccess s sid k ptr n align need moves body = body (.here l) := by
  obtain ⟨h1, h2, h3, h4, h5, h6⟩ := h
  rcases h6 with ⟨hs, rfl, hc, hr, hl, hp⟩ | ⟨hs, ht, hb⟩
  · simp [withAccess, h1, h2, h3, hs, h4, hc, hr, hl, hp]
  · simp [withAccess, h1, h2, h3, h4, hs, ht, hb]

/-- Everything an access can come to: a trap of its checks, a wait of the slot, a walk, a migration, or the access made at its
place or as a request. -/
theorem withAccess_cases (s : State) (sid : Nat) (k : Strand) (ptr n align need : Nat) (moves : Bool) (body : Way → Out) :
    withAccess s sid k ptr n align need moves body = .next (trap s sid causeSegment) ∨
    withAccess s sid k ptr n align need moves body = .next (trap s sid causeAlignment) ∨
    withAccess s sid k ptr n align need moves body = .next (s.putStrand sid (k.wait .request)) ∨
    (∃ va, withAccess s sid k ptr n align need moves body = .next (s.putStrand sid { k with stall := .walk va need })) ∨
    withAccess s sid k ptr n align need moves body = .next (s.putStrand sid (k.wait (.leave (ptrCore ptr)))) ∨
    ∃ w : Way, withAccess s sid k ptr n align need moves body = body w := by
  unfold withAccess
  split
  · exact .inl rfl
  split
  · exact .inr (.inl rfl)
  split
  · exact .inr (.inr (.inl rfl))
  split
  · dsimp only
    split
    · split
      · exact .inr (.inr (.inr (.inr (.inr ⟨_, rfl⟩))))
      · exact .inr (.inr (.inl rfl))
    · split
      · exact .inr (.inr (.inr (.inr (.inl rfl))))
      · split
        · exact .inr (.inr (.inr (.inr (.inr ⟨_, rfl⟩))))
        · exact .inr (.inr (.inl rfl))
  · split
    · exact .inr (.inr (.inr (.inl ⟨_, rfl⟩)))
    · split
      · exact .inr (.inr (.inr (.inr (.inr ⟨_, rfl⟩))))
      · exact .inr (.inr (.inl rfl))

/-! ### Writes -/

@[simp] theorem spillTo_mem (s : State) (sid : Nat) (k : Strand) (x : Spilled) : (spillTo s sid k x).mem = s.mem := rfl

@[simp] theorem wakeWaita_mem (s : State) (m : Monitor) (how : Woken) : (wakeWaita s m how).mem = s.mem := by
  unfold wakeWaita
  split
  · rfl
  · split
    · split <;> simp
    · simp

theorem wakeWaitas_mem (ms : List Monitor) (how : Woken) (s : State) :
    (ms.foldl (fun s m => wakeWaita s m how) s).mem = s.mem := by
  induction ms generalizing s with
  | nil => rfl
  | cons m ms ih => simp [ih]

@[simp] theorem wakeMonitors_mem (a b : State) : (wakeMonitors a b).mem = b.mem := by
  unfold wakeMonitors
  rw [wakeWaitas_mem]

/-- With no waiter on a doubleword a write wakes none. -/
theorem wakeMonitors_none {a b : State} (h : b.sync.monitors = []) : wakeMonitors a b = b := by
  simp [wakeMonitors, h]

/-- Items put in flight one after another leave memory alone. -/
theorem sends_mem {β : Type} (l : List β) (f : β → Flight) (s : State) :
    (l.foldl (fun s x => s.send (f x)) s).mem = s.mem := by
  induction l generalizing s with
  | nil => rfl
  | cons x l ih => simp [ih]

/-- A stamped write is on its way to each other die (R223): memory is as before. -/
@[simp] theorem stampWrite_mem (s : State) (die sid : Nat) (w : Nat → MemWrite) : (stampWrite s die sid w).mem = s.mem := by
  unfold stampWrite; dsimp only; rw [sends_mem]; rfl

/-- Lines that a write makes old are given up (R26): memory is as before. -/
@[simp] theorem uncache_mem (s : State) (w : MemWrite) : (uncache s w).mem = s.mem := by
  unfold uncache
  dsimp only
  split
  · rfl
  · split
    · simp
    · split <;> simp

/-- A write at its home leaves memory as the bare write does; its wakes change strands and waiters alone, and what it makes old leaves
the caches. -/
@[simp] theorem writeAt_mem (s : State) (w : MemWrite) : (writeAt s w).mem = (rawWrite s w).mem := by
  simp [writeAt]

theorem writeAt_wf (s : State) (w : MemWrite) (h : s.mem.wf = true) : (writeAt s w).mem.wf = true := by
  rw [writeAt_mem]; exact rawWrite_wf s w h

theorem putBytes_wf (s : State) (key : Nat) (bs : List Byte) (h : s.mem.wf = true) : (putBytes s key bs).mem.wf = true :=
  writeAt_wf s _ h

/-- A write on its way keeps memory's form, whether it is performed, stamped or sent. -/
theorem issueWrite_wf (s : State) (sid die : Nat) (l : Loc) (w : MemWrite) (h : s.mem.wf = true) :
    (issueWrite s sid die l w).mem.wf = true := by
  unfold issueWrite
  split
  · simpa using h
  · split
    · exact writeAt_wf s w h
    · simpa using h

theorem countLess_wf (s : State) (ctx key : Nat) (h : s.mem.wf = true) : (countLess s ctx key).mem.wf = true := by
  unfold countLess; dsimp only
  split
  · simpa using h
  · exact putBytes_wf _ _ _ (by simpa using h)

/-- The withdrawal of a waiter keeps memory's form. -/
theorem withdraw_wf (s : State) (sid : Nat) (h : s.mem.wf = true) : (withdraw s sid).mem.wf = true := by
  have key : ∀ (ks : List Nat) (s : State), s.mem.wf = true →
      (ks.foldl (fun s key =>
        if keyServes s key 32 then countLess s (sid / 32768) key
        else s.send (.lockUpdate (sid / 32768) 0 key false)) s).mem.wf = true := by
    intro ks
    induction ks with
    | nil => exact fun s h => h
    | cons a ks ih =>
      intro s h
      refine ih _ ?_
      dsimp only
      split
      · exact countLess_wf s _ _ h
      · exact h
  exact key _ _ h

/-! ### Caches and arrays (R26, R28) -/

@[simp] theorem renewArray_mem (s : State) (key : Nat) : (renewArray s key).mem = s.mem := rfl

@[simp] theorem fillLine_mem (s : State) (cluster : Nat) (x : Line) : (fillLine s cluster x).mem = s.mem := rfl

/-- A read brings its line into the cache and leaves memory alone. -/
@[simp] theorem afterRead_mem (s : State) (cluster ctx : Nat) (l : Loc) : (afterRead s cluster ctx l).mem = s.mem := by
  unfold afterRead; split <;> simp

/-- Where a cluster's cache holds no line, every read goes to memory. -/
theorem cacheHit_of_empty {s : State} {cluster : Nat} (h : Tab.get s.caches.lines cluster [] = []) (l : Loc) (n : Nat) :
    cacheHit s cluster l n = none := by
  simp [cacheHit, cachedLine, h]

/-- Registers whose words hold no error are read without a trace. -/
theorem noteWords_of_clean {s : State} {sid : Nat} {k : Strand} (hk : Tab.find s.strands sid = some k) (h : k.errs = [])
    (ws : List Nat) : noteWords s sid ws = s := by
  have h1 : ∀ w, noteWord sid s w = s := fun w => by simp [noteWord, hk, h, Tab.find]
  induction ws with
  | nil => rfl
  | cons w ws ih => simpa [noteWords, h1 w] using ih

/-! ### Messages and marks -/

@[simp] theorem ackMsg_mem (s : State) (m : Msg) (v : Nat) (f : Bool) (c : Code) : (ackMsg s m v f c).mem = s.mem := by
  unfold ackMsg; split <;> rfl

@[simp] theorem deliver_mem (s : State) (sid : Nat) (m : Msg) : (deliver s sid m).mem = s.mem := by
  simp [deliver]

theorem deliverEach_mem (sid : Nat) (ms : List Msg) (s : State) : (deliverEach sid ms s).mem = s.mem := by
  induction ms generalizing s with
  | nil => rfl
  | cons m ms ih =>
    unfold deliverEach
    split
    · rfl
    · split <;> simp [ih]

@[simp] theorem wakeParked_mem (s : State) (why : Park) (x : Spilled) : (wakeParked s why x).mem = s.mem := by
  have h : ∀ (l : Tab Strand) (s : State), (l.foldl (fun s p => spillTo s p.1 p.2 x) s).mem = s.mem := by
    intro l
    induction l with
    | nil => exact fun s => rfl
    | cons p l ih => intro s; simp [ih]
  simp [wakeParked, h]

@[simp] theorem deliverHeld_mem (s : State) (sid : Nat) : (deliverHeld s sid).mem = s.mem := by
  unfold deliverHeld
  split
  · rfl
  · split
    · simp [wakeSpace, deliverEach_mem]
    · rfl

@[simp] theorem endWait_mem (s : State) (sid d : Nat) (k : Strand) : (endWait s sid d k).mem = s.mem := by
  simp [endWait]

/-- A mark keeps memory's form: it writes at most the counts of the queues that its strand leaves. -/
theorem markStrand_wf (s : State) (sid : Nat) (h : s.mem.wf = true) : (markStrand s sid).mem.wf = true := by
  unfold markStrand
  split
  · exact h
  · dsimp only
    repeat' split
    all_goals first
      | exact h
      | (rw [endWait_mem]; exact withdraw_wf s sid h)
      | (rw [endWait_mem]; exact h)

end Sys2Proof.Machine
end

