-- ==== Sys2Proof/Tests/Slice0.lean ====
section
/-! SUPPORT. The model's own tests: ill-formed instructions, words of the spec's encoding tables, single steps, and states that
meet the hypotheses of each statement. -/

namespace Sys2Proof.Tests

set_option Elab.async false

open Sys2Proof Sys2Proof.Machine

/-! ### Small states -/

/-- A full, clean register. -/
def full (n : Nat) : GReg := ⟨BitVec.ofNat 64 n, true, false, 0, false⟩

/-- The context root and a scope below it, opened by strand 0. -/
def root : Scope := {
  units := 2 ^ 31, handle := 1, parent := 0, opener := 0, landing := 0, child := 32769, sibling := 0, succeeder := 0
  remote := 0, remotes := [], withheld := 0, root := true, eager := false, selv := true, state := .open, result := .ok
  fray := 0, saved := 0 }
def inner : Scope := { root with
  units := 2 ^ 30, handle := 32769, parent := 1, landing := 64, child := 0, root := false, selv := false, saved := 20 }

/-- Strand 0: anchored, in the inner scope, g1 = 3, g2 = 5, g4 a pointer into its page, g5 one into its scratchpad. -/
def k0 : Strand := { fetchStrand with
  sc := 32769, share := 20, opened := 1
  regs := ((((Vector.replicate 16 (full 0)).set 1 (full 3)).set 2 (full 5)).set 4 (full 4096)).set 5 (full (7 * 2 ^ 61 + 256)) }

/-- Register r of a strand with a value. -/
def g (k : Strand) (r n : Nat) : Strand := k.setG r (full n)

/-- A booted package whose core 0 runs strand 0 of context 0. -/
def base : State := { State.reset.withFetchWord 32 0 with
  turns := [], cur := some 0, mem := []
  ctxs := [(0, { fetchContext with root := 1, quads := 3, segs := [15 * 2 ^ 124 + 2 ^ 121, 0, 0, 0, 0, 0, 0, 15 * 2 ^ 124 + 2 ^ 61] })]
  groups := { State.reset.groups with scopes := [(0, root), (1, inner)] }
  links := { State.reset.links with hostUp := true }
  sys := { State.reset.sys with boot := 9, staged := [], published := [1024, 0, 255] } }

/-- The state with another record of strand 0. -/
def at0 (k : Strand) (s : State := base) : State := { s with strands := [(0, k)] }

/-! ### Hypotheses met: scalar words -/

/-- Frayed g1 and float patterns for the arithmetic statements. -/
def kf : Strand := (g (g k0 6 0x40400000) 7 0x3F800000).setG 1 (.frayed 3 2)

theorem wit_IntegerResults : integerRule k0 (.add 3 1 2) = some (3, [1, 2], 8) ∧
    Issues (at0 k0) 0 k0 (.add 3 1 2) [1, 2] [3] ∧ AllClean k0 [1, 2] := by and_intros <;> decide +kernel

theorem wit_FloatResults : (floatRule kf (.fmin 3 6 7)).map (fun x => (x.1, x.2.1)) = some (3, [6, 7]) ∧
    Issues (at0 kf) 0 kf (.fmin 3 6 7) [6, 7] [3] ∧ AllClean kf [6, 7] := by and_intros <;> decide +kernel

theorem wit_FrayedSourcesFrayResults : integerRule kf (.add 3 1 2) = some (3, [1, 2], 8) ∧
    Issues (at0 kf) 0 kf (.add 3 1 2) [1, 2] [3] ∧ firstFray kf [1, 2] = some 2 := by and_intros <;> decide +kernel

/-- Places of context 0: its page at 4096, its scratchpad at 256. -/
def lp (va : Nat) : Loc := ⟨va, 0, 0, false, false, fetchLeaf 0⟩
def lsp (off : Nat) : Loc := scratchLoc 0 (7 * 2 ^ 61 + off)

theorem wit_LoadsReadMemory : loadForm (.ldp 6 4 3 1 16) = some ([(6, 8, false), (7, 8, false)], 4, 1, 16, 16) ∧
    Issues (at0 k0) 0 k0 (.ldp 6 4 3 1 16) [4] [6, 7, 4] ∧ AllClean k0 [4] ∧ vccOf (at0 k0) k0 = none ∧
    LocalAt (at0 k0) 0 k0 (addressRule k0 4 1 16).1 16 16 needRd (lp 4096) ∧ CleanRange (at0 k0) (lp 4096) 16 := by and_intros <;> decide +kernel

/-- The line of that page in the cache of strand 0's cluster. -/
def cached (s : State := at0 k0) : State := afterRead s 0 0 (lp 4096)

theorem wit_LoadsReadMemory_cached : Issues (cached) 0 k0 (.ldp 6 4 3 1 16) [4] [6, 7, 4] ∧
    LocalAt (cached) 0 k0 4096 16 16 needRd (lp 4096) ∧ CleanRange (cached) (lp 4096) 16 ∧ (lp 4096).key < scratchBase ∧
    cachedLine (cached) (clusterOf k0.core) 4096 16 = some (lineAt (at0 k0) 4096) ∧
    lineCurrent (cached) (clusterOf k0.core / 16) 4096 16 = true ∧
    cacheHit (at0 k0) (clusterOf k0.core) (lp 4096) 16 = none := by and_intros <;> decide +kernel

theorem wit_LoadsReadMemory_spread : loadForm (.ld 6 5 1 2 1) = some ([(6, 2, true)], 5, 2, 1, 2) ∧
    Issues (at0 k0) 0 k0 (.ld 6 5 1 2 1) [5] [6, 5] ∧ isSpread (k0.nat 5) = true ∧
    LocalAt (at0 k0) 0 k0 (addressRule k0 5 2 1).1 2 2 needRd (lsp 256) ∧ CleanRange (at0 k0) (lsp 256) 2 := by and_intros <;> decide +kernel

def fly (f : Flight) (s : State := base) : State := { s with flights := [(9, f)], nextId := 10 }
/-- The same with g6 awaiting its data. -/
def kp : Strand := { k0.await 6 with phase := .parked (.ret 6) }

theorem wit_LoadDataFillsRegisters :
    Tab.find (fly (.loadRet 0 0 [⟨6, 77, false, 0⟩] none) (at0 kp)).flights 9 = some (.loadRet 0 0 [⟨6, 77, false, 0⟩] none) ∧
    Tab.find (fly (.loadRet 0 0 [⟨6, 77, false, 0⟩] none) (at0 kp)).strands 0 = some kp ∧ kp.gen = 0 := by and_intros <;> decide +kernel

def poisoned (u : Nat) (s : State := at0 k0) : State := { s with prot := { s.prot with poison := [(u, 2)] } }

theorem wit_PoisonedLoadFrays : Issues (poisoned 4096) 0 k0 (.ldN 6 4 2 0 8) [4] [6] ∧ AllClean k0 [4] ∧
    vccOf (poisoned 4096) k0 = none ∧ LocalAt (poisoned 4096) 0 k0 (addressRule k0 4 0 8).1 4 4 needRd (lp 4104) ∧
    Tab.find (poisoned 4096).prot.poison (unitBase 4104) = some 2 ∧
    (unitsOf 4104 4).all (fun u => !Tab.has (poisoned 4096).prot.damage u) = true := by and_intros <;> decide +kernel

theorem wit_PoisonedLoadFrays_ldp : loadForm (.ldp 6 4 3 0 0) = some ([(6, 8, false), (7, 8, false)], 4, 0, 0, 16) ∧
    Issues (poisoned 4096 (at0 (g k0 4 4112))) 0 (g k0 4 4112) (.ldp 6 4 3 0 0) [4] [6, 7] ∧
    LocalAt (poisoned 4096 (at0 (g k0 4 4112))) 0 (g k0 4 4112) 4112 16 16 needRd (lp 4112) ∧ (lp 4112).poisoned = false ∧
    unitBase 4112 = 4096 ∧ unitBase 4120 = 4096 ∧ 4112 + 16 ≤ scratchBase := by and_intros <;> decide +kernel

theorem wit_StoresWriteMemory : storeForm (.stp 6 4 3 3 0) = some ([6, 7], 8, 4, 3, 0, 16) ∧
    Issues (at0 k0) 0 k0 (.stp 6 4 3 3 0) [4, 6, 7] [] ∧ AllClean k0 [4, 6, 7] ∧ k0.st.t = false ∧
    releaseReady (at0 k0) 0 k0 0 = true ∧ LocalAt (at0 k0) 0 k0 (addressRule k0 4 3 0).1 16 16 needWr (lp 4096) ∧
    (at0 k0).mem.wf = true := by and_intros <;> decide +kernel

theorem wit_FrayedStoreWritesPoison : Issues (at0 kf) 0 kf (.st 1 4 1 0 6) [4, 1] [] ∧ AllClean kf [4] ∧ (kf.g 1).fray = true ∧
    vccOf (at0 kf) kf = none ∧ LocalAt (at0 kf) 0 kf (addressRule kf 4 0 6).1 2 2 needWr (lp 4102) ∧
    (at0 kf).sync.monitors = [] := by and_intros <;> decide +kernel

/-- A roaming strand, and one whose TLB is empty. -/
def kr : Strand := { k0 with vcount := 0 }
def cold (s : State := at0 k0) : State := { s with xlat := { s.xlat with tlb := [] } }
def rdOnly : State := { base with xlat := { base.xlat with
  pages := [(0, ⟨fetchLeaf 0 - 2 ^ 58, 1, false, 0⟩)], tlb := [(0, [⟨0, 0, fetchLeaf 0 - 2 ^ 58⟩])] } }
/-- A pointer to core 1's scratchpad. -/
def far : Nat := 7 * 2 ^ 61 + 2 ^ 16 + 256
/-- One to package 1's. -/
def farther : Nat := 7 * 2 ^ 61 + 2 ^ 28 + 256
def twoPackages : State := { base with
  ctxs := base.ctxs.map fun p => (p.1, { p.2 with segs := p.2.segs.set 7 (15 * 2 ^ 124 + 2 * 2 ^ 61) }) }

theorem wit_AccessOutcomes : strandCheck (at0 k0) k0 (2 ^ 61) 8 1 = false ∧ strandCheck (at0 k0) k0 4097 8 1 = true ∧
    translate (cold) k0 4096 1 = .miss 4096 ∧ translate rdOnly k0 4096 2 = .miss 4096 ∧ memBusy (at0 k0) 0 = false ∧
    farStores (at0 k0) 0 1 = false ∧ (scratchLoc 0 farther).pkg = 1 ∧ isSpread farther = true ∧
    strandCheck (at0 k0 twoPackages) k0 farther 8 1 = true ∧
    isSpread far = true ∧ ptrPkg far = 0 ∧ ptrCore far ≠ homeCore (at0 k0) 0 0 ∧ strandCheck (at0 k0) k0 far 8 1 = true := by
  and_intros <;> decide +kernel

/-! ### Hypotheses met: atomics, fences, control flow -/

theorem wit_AtomicsIssue_form : atomicForm (.amoc 2 6 4 1 2 1 0) = some (9, 2, 6, 4, 1, some 2, 8, 0) ∧
    atomicForm (.claim 0 6 4 1 0) = some (11, 0, 6, 4, 1, none, 8, 0) := ⟨rfl, rfl⟩

theorem wit_AtomicsIssue :
    Issues (at0 k0) 0 k0 (.amoc 2 6 4 1 2 1 0) [4, 1, 2] [6] ∧ AllClean k0 [4, 1, 2] ∧ k0.st.t = false ∧
    releaseReady (at0 k0) 0 k0 0 = true ∧ LocalAt (at0 k0) 0 k0 (k0.nat 4) 8 8 3 (lp 4096) := by and_intros <;> decide +kernel

theorem wit_AtomicsIssue_claim :
    Issues (at0 k0) 0 k0 (.claim 0 6 4 1 0) [4, 1] [6] ∧ LocalAt (at0 k0) 0 k0 (k0.nat 4) 8 8 3 (lp 4096) := by and_intros <;> decide +kernel

def am (op n : Nat) : Atomic := {
  sid := 0, gen := 0, reg := 6, op := op, width := n, loc := lp 4096, page := none, y := 5, expect := 0, poison := none
  order := 0, reach := 0, withhold := none, frayedOperand := false, at_ := none }

/-- A claim at its last stage, on its way to its home. -/
def clHome : Combined := ⟨am 11 8, 0, 4, []⟩

theorem wit_AtomicAtHome : AtItsHome (fly (.atomic (am 9 8) false)) 9 (.atomic (am 9 8) false) (am 9 8) ∧
    CleanRange (fly (.atomic (am 9 8) false)) (lp 4096) 8 ∧ (am 9 8).poison = none ∧ (am 9 8).withhold = none ∧
    AtItsHome (fly (.claim clHome)) 9 (.claim clHome) (am 11 8) ∧ CleanRange (fly (.claim clHome)) (lp 4096) 8 :=
  ⟨⟨by decide +kernel, .inl rfl, by and_intros <;> decide +kernel⟩, by decide +kernel, rfl, rfl,
    ⟨by decide +kernel, .inr ⟨clHome, rfl, rfl, rfl⟩, by and_intros <;> decide +kernel⟩, by decide +kernel⟩

/-- The same for an atomic in a page, which HBM's are: its place is that of the page's present frame. -/
def amp : Atomic := { am 0 8 with page := some 0 }

theorem wit_AtomicAtHome_page : AtItsHome (fly (.atomic amp false)) 9 (.atomic amp false) amp :=
  ⟨by decide +kernel, .inl rfl, by and_intros <;> decide +kernel⟩

theorem wit_AtomicOnPoison : Tab.find (poisoned 4096 (fly (.atomic (am 0 8) false))).prot.poison (unitBase 4096) = some 2 ∧
    AtItsHome (poisoned 4096 (fly (.atomic (am 0 8) false))) 9 (.atomic (am 0 8) false) (am 0 8) :=
  ⟨by decide +kernel, by decide +kernel, .inl rfl, by and_intros <;> decide +kernel⟩

theorem wit_AtomicsIssue_own : Issues (at0 k0) 0 k0 (.amoAdd 0 6 5 1 0 0) [5, 1] [6] ∧
    LocalAt (at0 k0) 0 k0 (k0.nat 5) 8 8 3 (lsp 256) ∧ scratchBase ≤ (lsp 256).key ∧ vccOf (at0 k0) k0 = none ∧
    CleanRange (at0 k0) (lsp 256) 8 := by and_intros <;> decide +kernel

theorem wit_AtomicResultFills :
    Tab.find (fly (.atomicRet 0 0 ⟨6, 77, false, 0⟩ 1 0) (at0 kp)).flights 9 = some (.atomicRet 0 0 ⟨6, 77, false, 0⟩ 1 0) := by
  decide +kernel

def cl (st : Nat) (ps : List (Nat × Nat)) : Combined := ⟨am 11 8, 0, st, ps⟩
def claims (f9 f8 : Flight) : State := { base with flights := [(7, .claim (cl 8 [])), (8, f8), (9, f9)], nextId := 10 }

theorem wit_ClaimsCombine : waitingPeer (fly (.claim (cl 0 []))) 9 (cl 0 []) 1 = none ∧
    waitingPeer (claims (.claim (cl 0 [])) (.claim (cl 1 [(7, 5)]))) 9 (cl 0 []) 1 = some (8, cl 1 [(7, 5)]) := by decide +kernel

theorem wit_ClaimReplySharesOut : (cl 4 [(7, 5), (8, 5)]).parts = [(7, (cl 8 []).claim.y), (8, (cl 8 []).claim.y)] ∧
    Tab.find (claims (.claimReply (cl 4 [(7, 5), (8, 5)]) ⟨0, 100, false, 0⟩) (.claim (cl 8 []))).flights 8 = some (.claim (cl 8 [])) := by
  and_intros <;> decide +kernel

def fenced : Strand := { k0 with stall := .fence 2 }
def busyStore : Flight := .remoteStore 0 0 ⟨scratchBase + 2 ^ 16, [1], none⟩ none

theorem wit_FencesAndAdvice : Issues (at0 k0) 0 k0 (.fence 2) [] [] ∧ fenceClear (at0 k0) 0 k0 2 = true ∧
    fenceClear (fly busyStore (at0 k0)) 0 k0 2 = false ∧ Issues (fly busyStore (at0 k0)) 0 k0 (.fence 2) [] [] ∧
    fenceClear (at0 fenced) 0 fenced 2 = true ∧ Issues (at0 k0) 0 k0 (.pref 5) [5] [] ∧ isSpread (k0.nat 5) = true ∧
    Issues (at0 k0) 0 k0 (.pgadv 4 1 2) [4, 1] [] ∧ strandCheck (at0 k0) k0 4096 3 needRd = true ∧
    pagesIn (at0 k0) 0 4096 3 = [0] := by and_intros <;> decide +kernel

theorem wit_FencesAndAdvice_noPage : Issues (at0 (g k0 6 (2 ^ 59))) 0 (g k0 6 (2 ^ 59)) (.pref 6) [6] [] ∧
    strandCheck (at0 (g k0 6 (2 ^ 59))) (g k0 6 (2 ^ 59)) (2 ^ 59) 1 needRd = true ∧ findPage (at0 k0) 0 (2 ^ 59) = none := by
  and_intros <;> decide +kernel

theorem wit_Branches : Issues (at0 k0) 0 k0 (.br 1 1 5) [1] [] ∧ Issues (at0 k0) 0 k0 (.brc 1 1 5) [1] [1] ∧
    Issues (at0 k0) 0 k0 (.jmp 5) [] [] ∧ Issues (at0 k0) 0 k0 (.call 5) [] [15] ∧ Issues (at0 k0) 0 k0 (.jr 4 1) [4] [] ∧
    Issues (at0 k0) 0 k0 (.jr 1 0) [1] [] ∧ AllClean k0 [1, 4] := by and_intros <;> decide +kernel


/-! ### Hypotheses met: strands and scopes -/

theorem wit_ForkPushesRecord : Issues (at0 k0) 0 k0 (.fork 6 1) [0, 1, 2, 3] [6] ∧ Quiet k0 ∧ AllClean k0 [0, 1, 2, 3] ∧
    freeTicket (at0 k0) 0 0 = some 0 ∧ spoolRoom (at0 k0) 0 0 = true ∧ 0 < k0.share ∧
    Issues (at0 k0) 0 k0 (.forkr 6 4) [0, 1, 2, 3, 4] [6] ∧ AllClean k0 [0, 1, 2, 3, 4] ∧ k0.nat 4 % 4 = 0 := by
  and_intros <;> decide +kernel

def kx : Strand := { k0 with opened := 0 }

theorem wit_StrandInstructions : Issues (at0 kx) 0 kx .exit [] [] ∧ kx.opened = 0 ∧ Issues (at0 k0) 0 k0 .exit [] [] ∧
    0 < k0.opened ∧ Issues (at0 k0) 0 k0 .yield [] [] ∧ Quiet k0 ∧ Issues (at0 k0) 0 k0 (.self 6) [] [6] ∧
    Issues (at0 k0) 0 k0 (.mode 6 0xF0) [] [6] ∧ k0.mail = [] ∧
    Issues (at0 k0) 0 k0 (.empty 0xF0) [] (maskRegs 0xF0) := by and_intros <;> decide +kernel

theorem wit_Send : Issues (at0 k0) 0 k0 (.send 6 0 1 3 1) [0, 1] [6] ∧ AllClean k0 [0] ∧ sendMalformed (at0 k0) k0 (k0.nat 0) = false ∧
    releaseReady (at0 k0) 0 k0 3 = true ∧ memBusy (at0 k0) 0 = false ∧ 0 < k0.share ∧ k0.nat 0 / 2 ^ 51 % 2 ^ 13 = (at0 k0).pkg ∧
    messageRoom (at0 k0) 0 (k0.nat 0 / 2 ^ 48 % 8) = true := by
  and_intros <;> decide +kernel

theorem wit_SopenOpensScope : Issues (at0 k0) 0 k0 (.sopen 6 1 1 8) [] [6] ∧ takeIndex (at0 k0) 0 8 0 = some 2 ∧
    findScope (at0 k0) 0 32769 = some inner ∧ inner.state = .open := by and_intros <;> decide +kernel

/-- Strand 0 in the root, which it did not open. -/
def kroot : Strand := { k0 with sc := 1 }

theorem wit_ScloseParks : Issues (at0 k0) 0 k0 (.sclose 6) [] [6] ∧ findScope (at0 k0) 0 32769 = some inner ∧ inner.root = false ∧
    inner.opener = strandHandle (at0 k0) k0 ∧ memBusy (at0 k0) 0 = false ∧ releaseReady (at0 k0) 0 k0 3 = true ∧ k0.st.t = false ∧
    Issues (at0 kroot) 0 kroot (.sclose 6) [] [6] ∧ findScope (at0 kroot) 0 1 = some root ∧ root.root = true := by
  and_intros <;> decide +kernel

def ksh (n : Nat) : Strand := { k0 with st := { k0.st with sd := n } }
/-- g6 names a scope: the inner one, one of die 1, the root, none. -/
def kh (h : Nat) : Strand := g k0 6 h
def otherDie : State := { base with groups := { base.groups with scopes := [(0, root), (16384, { inner with handle := 2 ^ 29 + 1 })] } }

theorem wit_ScopeInstructions : Issues (at0 (kh 5)) 0 (kh 5) (.scancel 6) [6] [] ∧ findScope (at0 (kh 5)) 0 5 = none ∧
    Issues (at0 (kh 1)) 0 (kh 1) (.scancel 6) [6] [] ∧ findScope (at0 (kh 1)) 0 1 = some root ∧ root.parent = 0 ∧
    Issues (at0 (kh 32769)) 0 (kh 32769) (.scancel 6) [6] [] ∧ 32769 / 2 ^ 29 = dieOf 0 ∧
    Issues (at0 (kh (2 ^ 29 + 1)) otherDie) 0 (kh (2 ^ 29 + 1)) (.scancel 6) [6] [] ∧
    findScope (at0 (kh (2 ^ 29 + 1)) otherDie) 0 (2 ^ 29 + 1) = some { inner with handle := 2 ^ 29 + 1 } ∧
    Issues (at0 k0) 0 k0 .shield [] [] ∧ k0.st.sd < 15 ∧ Issues (at0 (ksh 15)) 0 (ksh 15) .shield [] [] ∧
    Issues (at0 (ksh 2)) 0 (ksh 2) .unshield [] [] ∧ Issues (at0 k0) 0 k0 .unshield [] [] ∧ k0.st.sd = 0 ∧
    Issues (at0 k0) 0 k0 .cpt [] [] ∧ Quiet k0 := by and_intros <;> decide +kernel

def kc : Strand := { k0 with st := { k0.st with c := true } }
def notOpener (s : State) : State := { s with groups := { s.groups with scopes := [(0, root), (1, { inner with opener := 99 })] } }

theorem wit_MarkedStrand : Issues (at0 kc) 0 kc .cpt [] [] ∧ kc.again = false ∧ kc.st.c = true ∧ kc.st.sd = 0 ∧ kc.st.t = false ∧
    kc.gang = none ∧ findScope (at0 kc) 0 32769 = some inner ∧ inner.opener = strandHandle (at0 kc) kc ∧
    findScope (notOpener (at0 kc)) 0 32769 = some { inner with opener := 99 } ∧
    Issues (notOpener (at0 kc)) 0 kc .cpt [] [] := by and_intros <;> decide +kernel

/-- A scope whose result is set already. -/
def won : State := { base with groups := { base.groups with scopes := [(0, root), (1, { inner with result := .succeeded })] } }

theorem wit_SucceedSetsResult : Issues (at0 k0) 0 k0 .succeed [] [] ∧
    findScope (at0 k0) 0 k0.sc = some inner ∧ inner.state = .open ∧ inner.result = .ok ∧ inner.root = false ∧ k0.sc < 2 ^ 32 ∧
    ScopesFiled (at0 k0) 0 ∧ Issues (at0 k0 won) 0 k0 .succeed [] [] ∧
    findScope (at0 k0 won) 0 k0.sc = some { inner with result := .succeeded } ∧ ScopesFiled (at0 k0 won) 0 := by and_intros <;> decide +kernel

theorem wit_SinfoReadsRecord : Issues (at0 (kh 32769)) 0 (kh 32769) (.sinfo 7 6 4) [6] [7] ∧ AllClean (kh 32769) [6] ∧
    Issues (at0 (kh 5)) 0 (kh 5) (.sinfo 7 6 0) [6] [7] := by and_intros <;> decide +kernel

/-! ### Hypotheses met: barriers, locks, waiting -/

/-- An object at 4096 and a strand that points to it. -/
def bar0 : Bar := ⟨2, 0, 0, 32769, 0, 0, 0, 0, 0, 1⟩
def withBar (b : Bar) (k : Strand := k0) : State := { at0 k with mem := Memory.writeBytes [] 4096 b.bytes }

theorem wit_BinitWritesObject : Issues (at0 k0) 0 k0 (.binitCount 4) [4] [] ∧ ObjectAt (at0 k0) 0 k0 4 32 3 false (lp 4096) ∧
    Tab.get (at0 k0).sync.waiters 4096 [] = [] ∧ Tab.get (at0 k0).sync.queues 4096 [] = [] ∧ (at0 k0).sync.monitors = [] := by
  and_intros <;> decide +kernel

theorem wit_ExpectAndArrive : BarAt (withBar bar0) (lp 4096) bar0 ∧ bar0.mode < 2 ∧ bar0.state ≠ 4 ∧ (k0.g 1).fray = false ∧
    Issues (withBar bar0) 0 k0 (.bexpect 4 1) [4, 1] [] ∧ ObjectAt (withBar bar0) 0 k0 4 32 3 false (lp 4096) ∧
    Issues (withBar bar0) 0 k0 (.barrive 4 1) [4, 1] [] ∧ ObjectAt (withBar bar0) 0 k0 4 32 3 true (lp 4096) ∧
    k0.st.t = false ∧ (k0.g 6).fray = false ∧
    Issues (withBar bar0 kf) 0 kf (.bexpect 4 1) [4, 1] [] ∧ ObjectAt (withBar bar0 kf) 0 kf 4 32 3 false (lp 4096) ∧
    (kf.g 1).fray = true ∧ BarAt (withBar bar0 kf) (lp 4096) bar0 := by and_intros <;> decide +kernel

def kt : Strand := { k0 with st := { k0.st with t := true, fc := 3 } }
def outer (b : Bar) : Bar := { b with owner := 999 }

theorem wit_TaintedArrival : BarAt (withBar bar0 kt) (lp 4096) bar0 ∧ kt.st.t = true ∧
    Issues (withBar bar0 kt) 0 kt (.barrive 4 1) [4, 1] [] ∧ ObjectAt (withBar bar0 kt) 0 kt 4 32 3 true (lp 4096) ∧
    isOutside (withBar bar0 kt) 0 bar0.owner (selvedgeOf (withBar bar0 kt) 0 32769) false = false ∧
    BarAt (withBar (outer bar0) kt) (lp 4096) (outer bar0) ∧
    isOutside (withBar (outer bar0) kt) 0 999 (selvedgeOf (withBar (outer bar0) kt) 0 32769) false = true ∧
    Issues (withBar bar0 kf) 0 kf (.barrive 4 1) [4, 1] [] ∧ ObjectAt (withBar bar0 kf) 0 kf 4 32 3 true (lp 4096) ∧
    BarAt (withBar bar0 kf) (lp 4096) bar0 ∧ (kf.g 1).fray = true := by
  and_intros <;> decide +kernel

theorem wit_BwaitAndBtest : Issues (withBar bar0) 0 k0 (.bwait 6 4) [4] [6] ∧ Quiet k0 ∧
    ObjectAt ((withBar bar0).pointed 0) 0 k0.pointed 4 32 3 false (lp 4096) ∧ BarAt ((withBar bar0).pointed 0) (lp 4096) bar0 ∧
    BarAt ((withBar { bar0 with state := 2 }).pointed 0) (lp 4096) { bar0 with state := 2 } ∧
    BarAt ((withBar { bar0 with state := 3 }).pointed 0) (lp 4096) { bar0 with state := 3 } ∧
    BarAt ((withBar { bar0 with state := 4, code := 7 }).pointed 0) (lp 4096) { bar0 with state := 4, code := 7 } ∧
    Issues (withBar bar0) 0 k0 (.btest 6 4) [4] [6] ∧ ObjectAt (withBar bar0) 0 k0 4 32 1 false (lp 4096) := by
  and_intros <;> decide +kernel

def lock0 : Bar := ⟨0, 0, 5, 32769, 0, 0, 0, 0, 2, 0⟩
/-- A lock held by strand 0, and by another. -/
def mine : Bar := { lock0 with state := 6, short := 0 }
def theirs : Bar := { lock0 with state := 6, short := 77 }

theorem wit_WrongFamilyTraps : BarAt (withBar lock0) (lp 4096) lock0 ∧ lock0.mode = 2 ∧
    ObjectAt (withBar lock0) 0 k0 4 32 3 true (lp 4096) ∧ Issues (withBar lock0) 0 k0 (.bexpect 4 1) [4, 1] [] ∧
    Issues (withBar bar0) 0 k0 (.unlock 4) [4] [] ∧ Issues (withBar bar0) 0 k0 (.lock 6 4) [4] [6] ∧
    ObjectAt ((withBar bar0).pointed 0) 0 k0.pointed 4 32 3 false (lp 4096) := by and_intros <;> decide +kernel

theorem wit_LockAcquires : Issues (withBar lock0) 0 k0 (.lock 6 4) [4] [6] ∧
    ObjectAt ((withBar lock0).pointed 0) 0 k0.pointed 4 32 3 false (lp 4096) ∧
    BarAt ((withBar lock0).pointed 0) (lp 4096) lock0 ∧ lock0.short ≠ strandHandle (withBar lock0) k0 ∧ k0.phase = .running ∧
    BarAt ((withBar { lock0 with state := 4, code := 2 }).pointed 0) (lp 4096) { lock0 with state := 4, code := 2 } ∧
    BarAt ((withBar theirs).pointed 0) (lp 4096) theirs ∧ theirs.short ≠ strandHandle (withBar theirs) k0 ∧
    BarAt ((withBar mine).pointed 0) (lp 4096) mine ∧ mine.short = strandHandle (withBar mine) k0 := by
  and_intros <;> decide +kernel

def queued (b : Bar) : State := { withBar b with sync := { base.sync with queues := [(4096, [⟨3, 6, 1⟩, ⟨5, 6, 2⟩])] } }

theorem wit_UnlockPassesOn : Issues (withBar mine) 0 k0 (.unlock 4) [4] [] ∧ ObjectAt (withBar mine) 0 k0 4 32 3 true (lp 4096) ∧
    BarAt (withBar mine) (lp 4096) mine ∧ mine.short = strandHandle (withBar mine) k0 ∧ mine.hctx = k0.ctx % 64 ∧
    BarAt (queued { mine with arrived := 2 }) (lp 4096) { mine with arrived := 2 } ∧
    ObjectAt (queued { mine with arrived := 2 }) 0 k0 4 32 3 true (lp 4096) ∧
    (⟨5, 6, 2⟩ : Waiter) ∈ Tab.get (queued { mine with arrived := 2 }).sync.queues 4096 [] ∧
    BarAt (withBar theirs) (lp 4096) theirs ∧ theirs.short ≠ strandHandle (withBar theirs) k0 := by and_intros <;> decide +kernel

theorem wit_UnlockPassesOn_tainted : Issues (withBar mine kt) 0 kt (.unlock 4) [4] [] ∧ kt.st.t = true ∧
    ObjectAt (withBar mine kt) 0 kt 4 32 3 true (lp 4096) ∧ BarAt (withBar mine kt) (lp 4096) mine ∧
    mine.short = strandHandle (withBar mine kt) kt ∧
    isOutside (withBar mine kt) 0 mine.owner (selvedgeOf (withBar mine kt) 0 32769) false = false ∧
    BarAt (withBar (outer mine) kt) (lp 4096) (outer mine) ∧
    isOutside (withBar (outer mine) kt) 0 999 (selvedgeOf (withBar (outer mine) kt) 0 32769) false = true := by
  and_intros <;> decide +kernel

def w3 : State := { base with mem := Memory.writeBytes [] 4096 [3] }
def kw : Strand := { k0 with phase := .parked (.waita 6) }
def monitored : State := { at0 k0 with
  strands := [(0, k0), (1, { kw with entry := 1 })], sync := { base.sync with monitors := [⟨1, 4096, lp 4096, 6, 3, none, false, .no⟩] } }

/-- A waiter that a write or a `WAKEA` has woken. -/
def wakened (w : Woken) (s : State := at0 k0) : State := { s with sync := { s.sync with monitors := [⟨0, 4096, lp 4096, 6, 3, none, false, w⟩] } }

theorem wit_WaitaAndWakea_woken : wokenWaita (wakened .byWrite) 0 = some ⟨0, 4096, lp 4096, 6, 3, none, false, .byWrite⟩ ∧
    wokenWaita (wakened .byWakea (at0 k0 w3)) 0 = some ⟨0, 4096, lp 4096, 6, 3, none, false, .byWakea⟩ ∧
    wokenWaita (wakened .byWrite (at0 k0 w3)) 0 = some ⟨0, 4096, lp 4096, 6, 3, none, false, .byWrite⟩ ∧
    (wakened .byWrite).cur = some 0 ∧ Tab.find (wakened .byWrite).strands 0 = some k0 ∧ (k0.st.c = false ∨ 0 < k0.st.sd) ∧
    translate (wakened .byWrite) k0 4096 needRd = .at (lp 4096) ∧ (lp 4096).die = dieOf k0.core ∧
    homeServes (wakened .byWrite) (dieOf k0.core) (lp 4096) 8 = true ∧ CleanRange (wakened .byWrite) (lp 4096) 8 ∧
    numberAt (wakened .byWrite) 4096 8 ≠ 3 ∧ numberAt (wakened .byWrite (at0 k0 w3)) 4096 8 = 3 := by and_intros <;> decide +kernel

theorem wit_WaitaAndWakea : Issues (at0 k0) 0 k0 (.waita 6 4 1) [4, 1] [6] ∧ Quiet k0 ∧ wokenWaita (at0 k0) 0 = none ∧ AllClean k0 [4, 1] ∧
    ObjectAt ((at0 k0).pointed 0) 0 k0.pointed 4 8 1 false (lp 4096) ∧ CleanRange (at0 k0) (lp 4096) 8 ∧
    numberAt (at0 k0) 4096 8 ≠ k0.nat 1 ∧ numberAt (at0 k0 w3) 4096 8 = k0.nat 1 ∧
    ObjectAt ((at0 k0 w3).pointed 0) 0 k0.pointed 4 8 1 false (lp 4096) ∧ Issues (at0 k0) 0 k0 (.wakea 4 1) [4, 1] [] ∧
    ObjectAt (at0 k0) 0 k0 4 8 1 true (lp 4096) ∧ Issues monitored 0 k0 (.wakea 4 1) [4, 1] [] ∧
    ObjectAt monitored 0 k0 4 8 1 true (lp 4096) := by and_intros <;> decide +kernel

def kb : Strand := { k0.await 6 with phase := .parked (.bwait 6) }
def kl : Strand := { k0.await 6 with phase := .parked (.lock 6) }
def polling : State := { at0 kw with sync := { base.sync with monitors := [⟨0, 4096, lp 4096, 6, 3, none, true, .no⟩] } }

theorem wit_WaitRepliesComplete : Tab.find (fly (.bwaitRet 0 0 6 9 []) (at0 kb)).flights 9 = some (.bwaitRet 0 0 6 9 []) ∧
    kb.phase = .parked (.bwait 6) ∧ kb.out = false ∧ { kb with out := true }.phase = .parked (.bwait 6) ∧ kb.gen = 0 ∧ kl.phase = .parked (.lock 6) ∧
    Tab.find (fly (.lockRet 0 0 6 0 []) (at0 kl)).flights 9 = some (.lockRet 0 0 6 0 []) ∧
    (polling.sync.monitors.find? fun m => m.sid == 0 && m.poll && m.woken == .no) = some ⟨0, 4096, lp 4096, 6, 3, none, true, .no⟩ ∧
    polledAt polling kw ⟨0, 4096, lp 4096, 6, 3, none, true, .no⟩ = some (lp 4096) ∧
    homeServes polling (dieOf kw.core) (lp 4096) 8 = true ∧ CleanRange polling (lp 4096) 8 ∧ numberAt polling 4096 8 ≠ 3 := by and_intros <;> decide +kernel

def kfar : Strand := g k0 4 far
def farBar : State := { at0 kfar with mem := Memory.writeBytes [] (scratchLoc 0 far).key bar0.bytes }

theorem wit_BarrierRequest : Issues (at0 kfar) 0 kfar (.btest 6 4) [4] [6] ∧ AllClean kfar [4] ∧
    strandCheck (at0 kfar) kfar far 32 1 = true ∧ far % 32 = 0 ∧ memBusy (at0 kfar) 0 = false ∧ kfar.nat 4 = far ∧
    ptrCore far ≠ homeCore (at0 kfar) 0 0 ∧ (scratchLoc 0 far).pkg = 0 ∧
    homeServes (fly (.barrier 0 (.test 6) (scratchLoc 0 far) far) farBar) 0 (scratchLoc 0 far) 32 = true ∧
    BarAt (fly (.barrier 0 (.test 6) (scratchLoc 0 far) far) farBar) (scratchLoc 0 far) bar0 := by and_intros <;> decide +kernel

theorem wit_MendAndFray : Issues (at0 kf) 0 kf (.mend 2) [] (maskRegs 2) ∧
    Issues (withBar { bar0 with state := 4, code := 7 }) 0 k0 (.mendb 4) [4] [] ∧
    BarAt (withBar { bar0 with state := 4, code := 7 }) (lp 4096) { bar0 with state := 4, code := 7 } ∧
    ObjectAt (withBar { bar0 with state := 4, code := 7 }) 0 k0 4 32 3 false (lp 4096) ∧
    Issues (withBar bar0) 0 k0 (.mendb 4) [4] [] ∧ Issues (at0 k0) 0 k0 (.mendm 4) [4] [] ∧
    LocalAt (at0 k0) 0 k0 4096 32 32 2 (lp 4096) ∧ Issues (at0 k0) 0 k0 (.fray 1 0) [1] [1] ∧
    Issues (withBar bar0) 0 k0 (.fray 4 1) [4] [] ∧ Issues (withBar mine) 0 k0 (.fray 4 1) [4] [] ∧
    BarAt (withBar mine) (lp 4096) mine ∧ mine.mode = 2 ∧ mine.state ≠ 4 ∧ ObjectAt (withBar mine) 0 k0 4 32 3 false (lp 4096) ∧ Issues (at0 k0) 0 k0 (.fray 4 2) [4] [] ∧
    Issues (at0 (kh 32769)) 0 (kh 32769) (.fray 6 3) [6] [] ∧ Issues (at0 k0) 0 k0 (.bndset 1 2 1 3) [1, 2] [] := by
  and_intros <;> decide +kernel


/-! ### Hypotheses met: vectors and masks -/

/-- v1 and v2 hold numbers, v3 indices, k1 every other byte pair. -/
def ramp (seed : Nat) : VReg :=
  ⟨BitVec.ofNat 1024 ((List.range 128).foldl (fun n i => n * 256 + (i * seed + seed) % 251) 0), 0, 0⟩
def kv : Strand := { k0 with
  vregs := ((k0.vregs.set 1 (ramp 37)).set 2 (ramp 91)).set 3 ⟨BitVec.ofNat 1024 (1 + 2 ^ 32 * 5 + 2 ^ 64 * 40), 0, 0⟩
  masks := k0.masks.set 1 ⟨BitVec.ofNat 128 0x0F0F0F0F0F0F0F0F, false, 0⟩ }
def sv : State := at0 kv

theorem wit_VectorLaneResults : (laneRule (.vadd 4 1 2 1 6)).map (fun x => (x.1, x.2.1, x.2.2.1, x.2.2.2.1)) = some (4, 1, 6, [4, 1, 2]) ∧
    IssuesV sv 0 kv (.vadd 4 1 2 1 6) [4, 1, 2] [] [] ∧ CleanV kv [4, 1, 2] 1 ∧
    IssuesV sv 0 kv (.vabs 4 1 0 2) [4, 1] [] [] := by and_intros <;> decide +kernel

def kvf : Strand := { kv with vregs := kv.vregs.set 1 { ramp 37 with fray := 5, code := 3 } }

theorem wit_VectorFraySpreads : IssuesV (at0 kvf) 0 kvf (.vadd 4 1 2 0 6) [4, 1, 2] [] [] ∧ (kvf.v 1).fray ≠ 0 ∧
    (kv.v 1).fray = 0 ∧ (kv.v 2).fray = 0 ∧ IssuesV (at0 kvf) 0 kvf (.vadd 4 2 1 0 6) [4, 2, 1] [] [] := by
  and_intros <;> decide +kernel

/-- The same with a destination frayed before it and, for the mask, a code of its own. -/
def kvm : Strand := { kvf with vregs := kvf.vregs.set 4 { ramp 11 with fray := 0x8003, code := 6 } }
def kvmm : Strand := { kvm with masks := kvm.masks.set 1 { kvm.m 1 with fray := true, code := 9 } }

theorem wit_VectorFraySpreads_masked : IssuesV (at0 kvm) 0 kvm (.vadd 4 1 2 1 6) [4, 1, 2] [] [] ∧
    (((List.range (laneCount 6)).filter (laneActive kvm 1 6)).any fun j => (kvm.v 1).fray.getLsbD (laneBits 6 * j / 64)) = true ∧
    IssuesV (at0 kvmm) 0 kvmm (.vadd 4 2 2 1 6) [4, 2, 2] [] [] ∧ maskFrayed kvmm 1 = true ∧
    ((List.range (laneCount 6)).filter (laneActive kvmm 1 6)).isEmpty = false ∧
    (((List.range (laneCount 6)).filter (laneActive kvmm 1 6)).any fun j => (kvmm.v 2).fray.getLsbD (laneBits 6 * j / 64)) = false := by
  and_intros <;> decide +kernel

theorem wit_VectorSelectAndCompare : IssuesV sv 0 kv (.vsel 4 1 2 1 6) [4, 1, 2] [] [] ∧ CleanV kv [1, 2] 1 ∧
    IssuesV sv 0 kv (.vcmp 2 1 2 1 6 6) [1, 2] [] [] ∧ IssuesV sv 0 kv (.vcmp 0 1 2 1 8 3) [1, 2] [] [] := by
  and_intros <;> decide +kernel

theorem wit_VectorConversions : IssuesV sv 0 kv (.vcvt 4 1 0 1 3 6) [4, 1, 0] [] [] ∧ CleanV kv [4, 1, 0] 1 ∧
    IssuesV sv 0 kv (.vcvt 4 1 0 0 8 11) [4, 1, 0] [] [] ∧ IssuesV sv 0 kv (.vcvt 4 1 0 0 11 8) [4, 1, 0] [] [] := by
  and_intros <;> decide +kernel

theorem wit_IntegerReductions : modSat kv.mod = false ∧ CleanV kv [4, 3] 1 ∧ IssuesV sv 0 kv (.vredSum 4 3 1 2) [4, 3] [] [] ∧
    IssuesV sv 0 kv (.vredMax 4 3 1 2) [4, 3] [] [] ∧ IssuesV sv 0 kv (.vredMin 4 3 1 2) [4, 3] [] [] ∧
    IssuesV sv 0 kv (.vredMaxi 4 3 1 2) [4, 3] [] [] ∧ IssuesV sv 0 kv (.vredMini 4 3 1 2) [4, 3] [] [] ∧
    IssuesV sv 0 kv (.vscanSum 4 3 1 2) [4, 3] [] [] ∧ IssuesV sv 0 kv (.vscanMax 4 3 1 2) [4, 3] [] [] ∧
    IssuesV sv 0 kv (.vscanMin 4 3 1 2) [4, 3] [] [] := by and_intros <;> decide +kernel

/-- The greatest active lane of v3 under k1 in 32-bit lanes is lane 2, and the least ones, with 0, begin at lane 4. -/
theorem wit_IntegerReductions_extremes :
    let act := (List.range 32).filter (laneActive kv 1 2)
    let x := fun j => laneInt 2 (laneAt (kv.v 3) 2 j)
    2 ∈ act ∧ (∀ i ∈ act, x i ≤ x 2) ∧ (∀ i ∈ act, i < 2 → x i < x 2) ∧
    4 ∈ act ∧ (∀ i ∈ act, x 4 ≤ x i) ∧ ∀ i ∈ act, i < 4 → x 4 < x i := by decide +kernel

theorem wit_VectorMoves : IssuesV sv 0 kv (.vperm 4 1 3 1 6) [4, 1, 3] [] [] ∧ CleanV kv [4, 1, 3] 1 ∧
    IssuesV sv 0 kv (.vpermX2 4 1 3 1 6) [4, 1, 2, 3] [] [] ∧ IssuesV sv 0 kv (.vshuf 4 1 2 1 6) [4, 1, 2] [] [] ∧
    IssuesV sv 0 kv (.vbcast 4 1 1 6) [4] [1] [] ∧ AllClean kv [1] ∧ IssuesV sv 0 kv (.vmov 4 1 1 6) [4, 1] [] [] ∧
    IssuesV sv 0 kv (.vmovX2 4 2 1 6) [4, 2, 5, 3] [] [] ∧ CleanV kv [4, 2, 5, 3] 1 ∧
    IssuesV sv 0 kv (.vmovX4 4 0 1 6) [4, 0, 5, 1, 6, 2, 7, 3] [] [] ∧ CleanV kv [4, 0, 5, 1, 6, 2, 7, 3] 1 ∧
    maskFrayed kv 1 = false := by and_intros <;> decide +kernel

theorem wit_LaneInsertAndExtract : IssuesV sv 0 kv (.vins 1 4 2 6) [1] [4, 2] [] ∧ kv.nat 2 < laneCount 6 ∧
    IssuesV sv 0 kv (.vins 1 2 4 6) [1] [2, 4] [] ∧ laneCount 6 ≤ kv.nat 4 ∧ IssuesV sv 0 kv (.vext 6 1 2 2) [1] [2] [6] ∧
    IssuesV sv 0 kv (.vext 6 1 4 2) [1] [4] [6] := by and_intros <;> decide +kernel

theorem wit_MaskInstructions : (kv.m 1).fray = false ∧ IssuesV sv 0 kv (.kand 2 1 0) [] [] [] ∧
    IssuesV sv 0 kv (.kor 2 1 0) [] [] [] ∧ IssuesV sv 0 kv (.kxor 2 1 0) [] [] [] ∧ IssuesV sv 0 kv (.knot 2 1) [] [] [] ∧
    IssuesV sv 0 kv (.kmov 0 1) [] [] [] ∧ IssuesV sv 0 kv (.kmovLo 6 1) [] [] [6] ∧ IssuesV sv 0 kv (.kmovHi 6 1) [] [] [6] ∧
    IssuesV sv 0 kv (.kpop 6 1) [] [] [6] ∧ IssuesV sv 0 kv (.kmovG 2 1 2) [] [1, 2] [] := by and_intros <;> decide +kernel

/-- Elements of four bytes from 4096 on under k1: lanes 0, 2, 4 and so on. -/
def els (m : Nat) (key : Nat → Nat) : List (Nat × Loc) := ((List.range 32).filter (laneActive kv m 6)).map fun j => (j, lp (key j))

theorem wit_VectorLoads : IssuesV sv 0 kv (.vld 4 4 1 6 0) [4] [4] [] ∧ AllClean kv [4] ∧ CleanV kv [4] 1 ∧
    ElementsAt sv 0 kv 0 1 4 (elementsRule kv 1 6 0 4 fun j => (j * 4 : Nat)) (els 1 fun j => 4096 + 4 * j) ∧
    (els 1 fun j => 4096 + 4 * j).all (fun e => decide (CleanRange sv e.2 4)) = true ∧
    IssuesV sv 0 kv (.vst 1 4 1 6 0) [1] [4] [] ∧ sv.sync.monitors = [] ∧ sv.mem.wf = true ∧
    ElementsAt sv 0 kv 0 2 4 (elementsRule kv 1 6 0 4 fun j => (j * 4 : Nat)) (els 1 fun j => 4096 + 4 * j) := by
  and_intros <;> decide +kernel

def kst : Strand := g kv 1 8

theorem wit_VectorLoads_strided : IssuesV (at0 kst) 0 kst (.vlds 4 4 1 1 6 0) [4] [4, 1] [] ∧
    ElementsAt (at0 kst) 0 kst 0 1 4 (elementsRule kst 1 6 0 4 fun j => (j : Int) * 8) (els 1 fun j => 4096 + 8 * j) ∧
    IssuesV (at0 kst) 0 kst (.vgath 4 4 5 1 6 0) [4, 5] [4] [] ∧
    ElementsAt (at0 kst) 0 kst 0 1 4 (elementsRule kst 1 6 0 4 fun _ => 0) (els 1 fun _ => 4096) ∧
    IssuesV (at0 kst) 0 kst (.vsts 1 4 1 1 6 0) [1] [4, 1] [] ∧ IssuesV (at0 kst) 0 kst (.vscat 1 4 5 1 6 0) [1, 5] [4] [] := by
  and_intros <;> decide +kernel

/-- Bound register 3 under clamp mode: -1 to 1 in FP32. -/
def bnd : State := { sv with cores := [(0, { Core.blank with
  ctx := 0, mode := .running, slots := [(0, 0)], kernel := some 0, bounds := [(3, ⟨0xBF800000, 0x3F800000, 1, 0⟩)] })] }

theorem wit_BoundedVectorStore : IssuesV bnd 0 kv (.vstBnd 3 4 3 1 8 0) [3] [4] [] ∧ AllClean kv [4] ∧ maskFrayed kv 1 = false ∧ (kv.v 3).fray = 0 ∧
    ElementsAt bnd 0 kv 0 2 4 (elementsRule kv 1 8 0 4 fun j => (j * 4 : Nat)) (els 1 fun j => 4096 + 4 * j) ∧
    (els 1 fun j => 4096 + 4 * j).all (fun e => match boundCheck (fmtOf 8) (boundOf bnd 0 3) (laneAt (kv.v 3) 8 e.1) with
      | .write _ => true
      | _ => false) = true := by and_intros <;> decide +kernel


/-- The bound under trap mode, and under flag mode over registers that hold 4 and a frayed 2 among zeros. -/
def bndMode (mode : Nat) (k : Strand := kv) : State := { at0 k bnd with cores := [(0, { Core.blank with
  ctx := 0, mode := .running, slots := [(0, 0)], kernel := some 0, bounds := [(3, ⟨0xBF800000, 0x3F800000, mode, 0⟩)] })] }
def kbig : Strand := { kv with vregs := kv.vregs.set 3 ⟨BitVec.ofNat 1024 (0x40800000 + 2 ^ 64 * 0x40000000), 2, 6⟩ }

theorem wit_BoundedVectorStore_modes : IssuesV (bndMode 2 kbig) 0 kbig (.vstBnd 3 4 3 1 8 0) [3] [4] [] ∧
    boundCheck (fmtOf 8) (boundOf (bndMode 2) 0 3) (laneAt (kbig.v 3) 8 0) = .fail ∧ laneFrayed (kbig.v 3) 8 0 = false ∧
    boundCheck (fmtOf 8) (boundOf (bndMode 0) 0 3) (laneAt (kbig.v 3) 8 0) = .poison true ∧ laneFrayed (kbig.v 3) 8 2 = true ∧
    ElementsAt (bndMode 0 kbig) 0 kbig 0 2 4 (elementsRule kbig 1 8 0 4 fun j => (j * 4 : Nat)) (els 1 fun j => 4096 + 4 * j) := by
  and_intros <;> decide +kernel

/-! ### Hypotheses met: the matrix-vector unit and gangs -/

def core0 : Core := (Tab.find base.cores 0).getD Core.blank
def km : Strand := (((((k0.setG 6 (full 1)).setG 7 (full (2 ^ 32)))).setG 8 (full (64 + 64 * 2 ^ 32))).setG 9 (full (2 ^ 32)))
def kslot : Strand := g k0 6 0x8888888888888888
def ka : Strand := (g k0 6 0).setG 7 (full 64)
def kscalar : Strand := { k0 with vcount := 0 }
/-- One group of two rows: the offsets 0 and 2 in buffer A. -/
def sgrp (k : Strand) : State := { at0 k with mem := Memory.writeBytes [] (bufferKey 0 0 bufA 0) [0, 0, 0, 0, 2, 0, 0, 0] }
def kgrp : Strand := ((g k0 6 0).setG 7 (full (64 + 1024 * 2 ^ 32))).setG 9 (full (2 ^ 32))
def withRights (s : State) (r : Bool) : State := { s with kernels := [(0, { fetchKernel with sright := r, gang := 2 })] }

theorem wit_MatrixInstructionsEnqueue : Issues (at0 kscalar) 0 kscalar (.mzero 0) [] [] ∧ MvuFree (at0 ka) 0 ka core0 ∧
    Issues (at0 ka) 0 ka (.mma 20 9 0 6 7 0) [6, 7] [] ∧ Issues (at0 ka) 0 ka (.mmas 20 9 0 6 7 1) [6, 7] [] ∧
    AllClean ka [6, 7] ∧ ka.nat 6 % 64 = 0 ∧ ka.nat 6 + dimM 20 * rowBytes 20 9 ≤ 2 ^ 17 ∧ ka.nat 7 % 64 = 0 ∧
    ka.nat 7 + dimN 20 * colBytes 20 9 true ≤ 2 ^ 18 ∧
    Issues (sgrp kgrp) 0 kgrp (.mmag 20 9 0 6 7 0 9) [6, 7, 9] [] ∧ Unharmed (sgrp kgrp) ∧ coreMvuClear (sgrp kgrp) 0 = true ∧ buffersReady (sgrp kgrp) 0 0 = true ∧
    MvuFree (sgrp kgrp) 0 kgrp core0 ∧
    (List.range 2).map (fun g => numberAt (sgrp kgrp) (bufferKey 0 0 bufA (0 + 4 * g)) 4) = [0, 2] ∧ 2 ≤ dimM 20 ∧
    64 + dimN 20 * colBytes 20 9 false ≤ 2 ^ 18 ∧ Issues (at0 ka) 0 ka (.mxs 0 6 7 1) [6, 7] [] ∧
    Issues (at0 ka) 0 ka (.mzero 3) [] [] ∧
    IssuesV (at0 ka) 0 ka (.mrd 2 0 6 4) ((List.range 4).map (4 + ·)) [6] [] ∧
    IssuesV (at0 ka) 0 ka (.mwr 2 0 6 4) ((List.range 4).map (4 + ·)) [6] [] ∧ ka.nat 6 + 4 ≤ 32 ∧
    (∀ j, j < 4 → (ka.v (4 + j)).fray = 0) ∧
    Issues (at0 ka) 0 ka (.ldt 9 5 7 1) [5, 7] [] ∧ AllClean ka [5, 7] ∧ strandCheck (at0 ka) ka (ka.nat 5) 8 1 = true ∧
    isSpread (ka.nat 5) = true ∧ ptrPkg (ka.nat 5) = 0 ∧ quadOf (ptrCore (ka.nat 5)) = quadOf ka.core ∧ ka.nat 5 % 8 = 0 ∧
    ka.nat 5 % 128 + 32 * ldtBytes 9 ≤ 128 ∧ ka.nat 5 % 2 ^ 16 / 128 * 128 + 4096 ≤ 65536 ∧ ka.nat 7 + 1024 * ldtBytes 9 ≤ 2 ^ 17 ∧
    Issues (withRights (at0 kslot) true) 0 kslot (.mslot 6) [6] [] ∧ AllClean kslot [6] ∧
    (∀ p, p < 16 → kslot.nat 6 / 16 ^ p % 16 ≤ 3 ∨ kslot.nat 6 / 16 ^ p % 16 = 8) ∧
    kernelOf (withRights (at0 kslot) true) kslot = some { fetchKernel with sright := true, gang := 2 } ∧
    kernelOf (withRights (at0 kslot) false) kslot = some { fetchKernel with sright := false, gang := 2 } := by
  and_intros <;> decide +kernel

def mop (kind : MvuKind) (o : MvuOp := MvuOp.blank 0 k0 kind) : MvuOp :=
  { o with kind := kind, shape := 20, ty := 9, tile := 1, a := 0, b := 64, p := 0 }
def queuedOp (o : MvuOp) : State := (at0 k0).putCore 0 { core0 with dispatch := [o] }
def tableOf (n : Nat) (s : State) : State :=
  { s with quads := [(0, { Quad.open with slotTable := List.replicate 16 n, rr := 3 })] }

theorem wit_MvuServesItsTable : (quadAt (tableOf 8 (queuedOp (mop .mma))) 0).busy = none ∧
    Tab.find (tableOf 8 (queuedOp (mop .mma))).cores (0 * 4 + 0) = some { core0 with dispatch := [mop .mma] } ∧
    core0.mode ≠ .preempting ∧ (mop .mma).kind ≠ .ldt ∧ buffersReady (tableOf 8 (queuedOp (mop .mma))) 0 0 = true ∧
    mvuTurn (tableOf 8 (queuedOp (mop .mma))) 0 0 (mop .mma) = true ∧ (queuedOp (mop .mma)).images = [] ∧
    (quadAt (tableOf 8 (queuedOp (mop .mma))) 0).slotTable.getD 1 8 = 8 ∧
    0 = ((quadAt (tableOf 8 (queuedOp (mop .mma))) 0).rr + 1) % 4 ∧
    (quadAt (tableOf 0 (queuedOp (mop .mma))) 0).slotTable.getD 1 8 = 0 := by and_intros <;> decide +kernel

/-- The unit works on an operation. -/
def busyWith (o : MvuOp) (k : Strand := k0) : State :=
  { at0 k with quads := [(0, { Quad.open with busy := some (0, o) })]
               mem := Memory.writeBytes [] (bufferKey 0 0 bufA 0) ((List.range 64).map fun i => BitVec.ofNat 8 (i * 37)) }
def mrows : MvuOp := { mop .mwr with a := 2, rows := [k0.v 0, { data := 5, fray := 0, code := 0 }] }
def mreads : MvuOp := { mop .mrd with ty := 1, a := 2, v := 4, waits := true }
def kmvu : Strand := { k0 with stall := .mvu }
def mgroups (n : Nat) : MvuOp := { mop .mmag with offsets := [0, 2], group := n, p := 1024 }

theorem wit_MvuOperationsPerform : (∀ o ∈ [mop .mma, mop .mmas, mop .mxs, mop .mzero, mrows, mop .ldt],
      (quadAt (busyWith o) 0).busy = some (0, o) ∧ o.bound = none ∧ o.waits = false) ∧
    (quadAt (busyWith mreads kmvu) 0).busy = some (0, mreads) ∧ mreads.bound = none ∧ Unharmed (busyWith mreads kmvu) ∧
    Tab.find (busyWith mreads kmvu).strands 0 = some kmvu ∧ kmvu.gen = mreads.gen ∧ mreads.v + 2 ^ mreads.ty ≤ 32 ∧
    mrows.rows[1]? = some { data := 5, fray := 0, code := 0 } ∧ (mgroups 0).nextStep = some 0 ∧ (mgroups 1).nextStep = none ∧
    (quadAt (busyWith (mgroups 1)) 0).busy = some (0, mgroups 1) := by and_intros <;> decide +kernel

/-- Cores 0 and 4 of a cluster, in the gang word 0x103. -/
def kg : Strand := g k0 6 0x103
def kin : Strand := { kg with gang := some ⟨9, 32769⟩ }
def partner : Strand := { kg with core := 4, entry := 32, phase := .parked .gang, gang := some ⟨9, 32769⟩ }
def withPartner : State := { withRights (at0 kg) false with
  strands := [(0, kg), (32, partner)], gangs := [(9, ⟨0, 0, 0x103, [32], none, none, 0, 0⟩)] }
def member (v : Nat) (k : Strand) (p : Nat := 0) : State := { withRights (at0 k) false with
  gangs := [(9, ⟨0, 0, 0x103, [0], some 0, some v, p, 0⟩)] }

theorem wit_GangInstructions : kg.vcount ≠ 0 ∧ gangWordOk (withRights (at0 kg) false) kg (kg.nat 6) = true ∧
    Issues (withRights (at0 kg) false) 0 kg (.gangEnter 6) [6] [] ∧ kg.gang = none ∧
    equalGangs (withRights (at0 kg) false) kg (kg.nat 6) = [] ∧
    Issues (member 300 kin) 0 kin (.gangEnter 6) [6] [] ∧ AllClean kin [6] ∧
    Issues withPartner 0 kg (.gangEnter 6) [6] [] ∧ Tab.find withPartner.strands 32 = some partner ∧
    gangWordOk withPartner kg (kg.nat 6) = true ∧ gangCores 0 0x103 = [kg.core, partner.core] ∧
    Issues (member 200 kin) 0 kin (.atVcc 6) [6] [] ∧ vccOf (member 200 kin) kin = some 200 ∧ 200 < kin.nat 6 ∧
    Issues (member 300 kin) 0 kin (.atVcc 6) [6] [] ∧ vccOf (member 300 kin) kin = some 300 ∧ kin.nat 6 ≤ 300 ∧
    Issues (member 300 kin) 0 kin .gangExit [] [] ∧ holdsLoad (member 300 kin) 0 = false ∧
    Tab.find (member 300 kin).gangs 9 = some ⟨0, 0, 0x103, [0], some 0, some 300, 0, 0⟩ ∧
    Issues (at0 kg) 0 kg (.atVcc 6) [6] [] ∧ AllClean kg [6] ∧
    Issues (at0 kg) 0 kg .gangExit [] [] ∧ kg.gangAborted = false ∧
    Issues (at0 { kg with gangAborted := true }) 0 { kg with gangAborted := true } .gangExit [] [] := by
  and_intros <;> decide +kernel

def ktarget : Strand := { kin with vccTarget := some 250 }
def dueLoad : State := { member 300 kin with flights := [(7, .loadRet 0 kin.gen [⟨5, 3, false, 0⟩] (some 290))] }
def lateGang : State := { withPartner with cycle := 65536 }

theorem wit_GangEvents : Tab.find dueLoad.flights 7 = some (.loadRet 0 kin.gen [⟨5, 3, false, 0⟩] (some 290)) ∧
    Tab.find dueLoad.strands 0 = some kin ∧ vccOf dueLoad kin = some 300 ∧
    Tab.find (member 300 ktarget).strands 0 = some ktarget ∧ ktarget.vccTarget = some 250 ∧
    vccOf (member 300 ktarget) ktarget = some 300 ∧
    Tab.find (member 300 kin 65536).gangs 9 = some ⟨0, 0, 0x103, [0], some 0, some 300, 65536, 0⟩ ∧
    Tab.find lateGang.gangs 9 = some ⟨0, 0, 0x103, [32], none, none, 0, 0⟩ ∧ 0 + 65536 ≤ lateGang.cycle := by
  and_intros <;> decide +kernel

/-! ### Hypotheses met: engines -/

/-- g6 a destination, g7 a length, g8 a barrier, g9 a tag or a descriptor. -/
def ke (d n b q : Nat) : Strand := (((k0.setG 6 (full d)).setG 7 (full n)).setG 8 (full b)).setG 9 (full q)
def kcopy : Strand := ke 5120 64 8192 0
def ktag : Strand := ke 64 (64 + 2 * 2 ^ 44) 8192 7
def kdesc : Strand := ke 5120 16384 8192 16384
def describes (raw : Nat) : State := { at0 kdesc with mem := Memory.writeBytes [] 16384 (leBytes 64 raw) }
def selRaw (count stride cap control : Nat) : Nat :=
  4096 + count * 2 ^ 64 + stride * 2 ^ 128 + 5120 * 2 ^ 192 + cap * 2 ^ 256 + control * 2 ^ 288 + 8192 * 2 ^ 320
def rawP : Nat := selRaw 4 0 64 (2 + 16)
def rawK : Nat := selRaw 4 0 64 (2 + 4096)
def rawR : Nat := selRaw (1 + 2 * 2 ^ 32) 8 64 (8 + 4096)
def tensorRaw : Nat := 64 * 2 ^ 64

theorem wit_EngineCommandsIssue : Issues (at0 kcopy) 0 kcopy (.copy 0 1 6 4 7 8) [6, 4, 7, 8] [] ∧ AllClean kcopy [6, 4, 7, 8] ∧
    EngineFree (at0 kcopy) 0 kcopy true 1 ∧ kcopy.nat 7 = 64 + 0 * 2 ^ 44 + 0 * 2 ^ 46 ∧
    SideOk (at0 kcopy) kcopy 0 (kcopy.nat 4) 64 needRd ∧ SideOk (at0 kcopy) kcopy 0 (kcopy.nat 6) 64 needWr ∧
    BarrierOk (at0 kcopy) kcopy (kcopy.nat 8) ∧
    Issues (at0 ktag) 0 ktag (.copyTag 1 1 6 4 7 8 9) [6, 4, 7, 8, 9] [] ∧ AllClean ktag [6, 4, 7, 8, 9] ∧
    EngineFree (at0 ktag) 0 ktag true 1 ∧ ktag.nat 7 = 64 + 2 * 2 ^ 44 + 0 * 2 ^ 46 ∧
    SideOk (at0 ktag) ktag 2 (ktag.nat 6) 64 needWr ∧ BarrierOk (at0 ktag) ktag (ktag.nat 8) ∧
    Issues (describes tensorRaw) 0 kdesc (.copyT 0 1 6 4 7 8) [6, 4, 7, 8] [] ∧ EngineFree (describes tensorRaw) 0 kdesc true 1 ∧
    descRead (describes tensorRaw) 0 kdesc (kdesc.nat 7) = .at (lp 16384) ∧ CleanRange (describes tensorRaw) (lp 16384) 64 ∧
    numberAt (describes tensorRaw) 16384 64 = tensorRaw ∧
    tensorDesc tensorRaw = some ⟨0, 0, 64, 1, [⟨64, 1, 1⟩]⟩ ∧
    sideTrap (describes tensorRaw) kdesc ⟨0, 0, 64, 1, [⟨64, 1, 1⟩]⟩ false (kdesc.nat 4) (reachLo false [⟨64, 1, 1⟩]) (reachHi false 1 [⟨64, 1, 1⟩]) = none ∧
    sideTrap (describes tensorRaw) kdesc ⟨0, 0, 64, 1, [⟨64, 1, 1⟩]⟩ true (kdesc.nat 6) (reachLo true [⟨64, 1, 1⟩]) (reachHi true 1 [⟨64, 1, 1⟩]) = none := by
  and_intros <;> decide +kernel

theorem wit_SelectionCommandsIssue : (∀ p ∈ [(0, rawP), (1, rawK), (2, rawR)],
      descRead (describes p.2) 0 kdesc (kdesc.nat 9) = .at (lp 16384) ∧
      CleanRange (describes p.2) (lp 16384) 64 ∧ numberAt (describes p.2) 16384 64 = p.2 ∧ Sel.ok ⟨p.1, p.2⟩ = true ∧ isSpread (Sel.base ⟨p.1, p.2⟩) = false ∧
      engineCheck (describes p.2) kdesc (Sel.base ⟨p.1, p.2⟩) (Sel.span ⟨p.1, p.2⟩) needRd = true ∧
      engineCheck (describes p.2) kdesc (Sel.out ⟨p.1, p.2⟩) (Sel.outMax ⟨p.1, p.2⟩) needWr = true ∧
      BarrierOk (describes p.2) kdesc (Sel.barrier ⟨p.1, p.2⟩) ∧ Sel.base ⟨p.1, p.2⟩ % Sel.esize ⟨p.1, p.2⟩ = 0 ∧
      Sel.stride ⟨p.1, p.2⟩ % Sel.esize ⟨p.1, p.2⟩ = 0 ∧ EngineFree (describes p.2) 0 kdesc false 1) ∧
    Issues (describes rawP) 0 kdesc (.selp 0 1 9) [9] [] ∧ Issues (describes rawK) 0 kdesc (.selk 1 1 9) [9] [] ∧
    Issues (describes rawR) 0 kdesc (.selr 0 1 9) [9] [] ∧ AllClean kdesc [9] := by and_intros <;> decide +kernel

def eo : EngineOp := { EngineOp.make (at0 k0) 0 k0 8192 1 false 19 with src := 4096, dst := 5120, size := 64 }
def active : EngineOp := { eo with state := .active }
def going : EngineOp := { active with mode := some 0 }
/-- The operation, with a barrier object at 8192 and other bytes at 4096. -/
def withOp (o : EngineOp) (bar : Bar := bar0) : State := { at0 k0 with
  ops := [(3, o)], mem := (Memory.writeBytes [] 8192 bar.bytes).writeBytes 4096 ((List.range 64).map fun i => BitVec.ofNat 8 (i * 29)) }
def lockBar : State := withOp active { bar0 with mode := 2 }

theorem wit_EngineOperationsBegin : Tab.find (withOp { eo with state := .waiting }).ops 3 = some { eo with state := .waiting } ∧
    Tab.find (withOp eo).ops 3 = some eo ∧ eo.state = .queued ∧ eo.sel = none ∧ active.mode = none ∧
    active.probe (withOp active) = .ok (lp 8192) bar0 ∧ active.stopping = false ∧
    { active with marked := true }.probe (withOp { active with marked := true }) = .ok (lp 8192) bar0 ∧
    { active with marked := true }.stopping = true ∧ active.away = none ∧
    active.worst = .complete ∧ active.shielded = false ∧ active.probe lockBar = .refused (lp 8192) 0 := by
  and_intros <;> decide +kernel

def wayOf (s : State) (o : EngineOp) (u : Nat) : List Loc × List Loc := match unitWay s o u with
  | .go a b => (a, b)
  | _ => ([], [])
def lostSrc : EngineOp := { going with src := 2 ^ 40 }

theorem wit_CopiesMoveBytesAndEnd : Tab.find (withOp going).ops 3 = some going ∧ going.mode ≠ none ∧ going.sel = none ∧
    readyUnits (withOp going) going = [0] ∧
    unitWay (withOp going) going 0 = .go (wayOf (withOp going) going 0).1 (wayOf (withOp going) going 0).2 ∧
    RunAt (wayOf (withOp going) going 0).1 4096 64 ∧ RunAt (wayOf (withOp going) going 0).2 5120 64 ∧
    (withOp going).sync.monitors = [] ∧ going.dspace ≠ 2 ∧ advanceDone 64 [0] 17 0 = 64 ∧
    firstBad (withOp lostSrc) lostSrc (openUnits lostSrc) = some (0, 2) ∧ lostSrc.done = 0 ∧ going.away = none ∧
    { going with marked := true }.stopping = true ∧ openUnits { going with marked := true } = [] ∧ beyondUnits { going with marked := true } 1 = [] := by
  and_intros <;> decide +kernel

def sd : SelDesc := ⟨0, rawP⟩
def se : EngineOp := { going with sel := some sd, size := 0, dst := 5120 }
def scanned : EngineOp := { se with written := [3, 2, 1, 0], engaged := [0], arrived := [0], found := [(0, 7)] }

theorem wit_SelectionsScanAndEnd : Tab.find (withOp { se with written := [2, 1, 0] }).ops 3 = some { se with written := [2, 1, 0] } ∧
    nextPiece (withOp { se with written := [2, 1, 0] }) { se with written := [2, 1, 0] } sd 0 = [3] ∧
    dieTurn (withOp { se with written := [2, 1, 0] }) 0 (dieOf se.core) = true ∧ se.away = none ∧ scanned.stopping = false ∧
    { se with marked := true }.stopping = true ∧ se.mode ≠ none ∧
    elementAt (withOp se) se sd 3 = .at (lp 4108) ∧ CleanRange (withOp se) (lp 4108) (Sel.esize sd) ∧
    unread scanned sd = [] ∧ (∀ x ∈ scanned.engaged, x ∈ scanned.arrived) ∧
    (∀ l ∈ [(Sel.output sd scanned.found 0).length], outWay (withOp scanned) scanned l =
      .go [] ((List.range l).map fun j => { lp (5120 + j) with die := 4 })) ∧
    RunAt ((List.range (Sel.output sd scanned.found 0).length).map fun j => { lp (5120 + j) with die := 4 }) 5120 (Sel.output sd scanned.found 0).length ∧
    (∀ i ∈ unread { scanned with arrived := [] } sd, stackAt (withOp se) scanned sd i ≠ some 0) ∧
    (0 ∈ { scanned with arrived := [] }.engaged) ∧
    selectFault (withOp { se with src := 2 ^ 40 }) { se with src := 2 ^ 40 } sd = some 2 := by
  and_intros <;> decide +kernel

theorem wit_SelkKeepsTheBest : (⟨1, rawK⟩ : SelDesc).kind = 1 ∧ (([(0, 7), (3, 9)] : List (Nat × Nat)).map (·.1)).Nodup := by
  and_intros <;> decide +kernel

def comingPage : State := { withOp { going with src := 65536 } with
  xlat := { (at0 k0).xlat with pages := Tab.put (at0 k0).xlat.pages 1 ⟨fetchLeaf 0 - 2 ^ 60, 0, false, 0⟩ } }
def arr : Arrival := ⟨0, 4096, 8, 1, 0, false, 0, none, 3, 8, 32769, true, some 3, false⟩
def arriving : State := { withBar bar0 with flights := [(7, .arrival arr false)] }
def parkedAtomic : State := { at0 k0 with flights := [(7, .atomic (am 0 4) true)] }
def parkedClaim : State := { at0 k0 with flights := [(7, .claim { clHome with stage := 5 })] }

theorem wit_EngineArrivalsAndFaults : arrivalFirst arriving 7 3 = true ∧ probeBar arriving 0 false none 4096 = .ok (lp 4096) bar0 ∧
    bar0.mode = 0 ∧ faultOf comingPage { going with src := 65536 } = some (0, 1) ∧ faultRoom comingPage 1 = true ∧
    pathOpen parkedAtomic (replayLoc parkedAtomic (am 0 4)).pkg = true ∧ atomicGone parkedAtomic (am 0 4) = false ∧
    atomicParks parkedAtomic { am 0 4 with loc := replayLoc parkedAtomic (am 0 4) } = false ∧ Tab.find parkedAtomic.ops 3 = none ∧
    pathOpen parkedClaim (replayLoc parkedClaim clHome.claim).pkg = true ∧ atomicGone parkedClaim clHome.claim = false ∧
    atomicParks parkedClaim { clHome.claim with loc := replayLoc parkedClaim clHome.claim } = false ∧
    Tab.find comingPage.flights 3 = none ∧
    Tab.find comingPage.ops 3 = some { going with src := 65536 } := by
  and_intros <;> decide +kernel


/-! ### Hypotheses met: system words, traps, launches -/

/-- The kernel of context 0 with a trap entry, with a dictionary of two words, or resident. -/
def withKernel (x : Kernel) (s : State) : State := { s with kernels := [(0, x)] }
def handler : Kernel := { fetchKernel with tvec := some 4096 }
/-- A trap entry that no segment may fetch from. -/
def farHandler : Kernel := { fetchKernel with tvec := some (2 ^ 60) }
def dictKernel : Kernel := { fetchKernel with dict := [0, 0] }
def khint : Strand := { k0 with run := some ⟨8, some 5, none, none⟩ }
def khlat : Strand := { k0 with run := some ⟨8, none, some 3, none⟩ }
def khmod : Strand := { k0 with run := some ⟨8, none, none, some 7⟩ }

theorem wit_TrapEntry : Tab.find (withKernel handler (at0 khint)).strands 0 = some khint ∧
    trapEntry (withKernel handler (at0 khint)) khint = some 4096 ∧
    fetchSegOk (segsOf (withKernel handler (at0 khint)) 0 0) 4096 = true ∧
    trapEntry (at0 (ksh 2)) (ksh 2) = none ∧
    trapEntry (withKernel farHandler (at0 (ksh 2))) (ksh 2) = some (2 ^ 60) ∧
    fetchSegOk (segsOf (withKernel farHandler (at0 (ksh 2))) 0 0) (2 ^ 60) = false ∧ Tab.find (at0 (ksh 2)).strands 0 = some (ksh 2) ∧ (ksh 2).phase = .running ∧
    0 < (ksh 2).st.sd := by and_intros <;> decide +kernel

def snapper (held : Bool) : State := { at0 k0 with
  ctxs := base.ctxs.map fun p => (p.1, { p.2 with rights := 2 }), sys := { base.sys with snapHeld := held } }

/-- Power fails, with the window open or held. -/
def failing (held : Bool) : State := { snapper held with sys := { (snapper held).sys with powerFail := true } }

theorem wit_SystemInstructions : Issues (at0 k0) 0 k0 (.trap 5) [] [] ∧ Issues (at0 k0) 0 k0 (.bkpt 5) [] [] ∧
    (at0 k0).cur = some 0 ∧ Issues (at0 k0) 0 k0 .nop [] [] ∧ Issues (at0 k0) 0 k0 (.time 6) [] [6] ∧
    Issues (at0 k0) 0 k0 .snap [] [] ∧ (Tab.find (at0 k0).ctxs 0).map (·.rights / 2 % 2) = some 0 ∧
    (Tab.find (snapper true).ctxs 0).map (·.rights / 2 % 2) = some 1 ∧ (snapper true).sys.powerFail = false ∧
    (failing false).sys.powerFail = true ∧ (failing false).sys.snapHeld = false ∧ (Tab.find (failing false).ctxs 0).map (·.rights / 2 % 2) = some 1 ∧
    Issues (failing false) 0 k0 .snap [] [] ∧
    Issues (at0 k0) 0 k0 (.ctlr 6 0x23) [] [6] ∧ Issues (at0 k0) 0 k0 (.ctlr 6 1) [] [6] ∧ flagsPending (at0 k0) 0 k0 = false ∧
    (∀ n ∈ [3, 5, 6, 7], Issues (at0 k0) 0 k0 (.ctlw 1 n) [1] []) ∧ AllClean k0 [1] := by and_intros <;> decide +kernel

theorem wit_HintsAndPairs : (at0 khlat).cur = some 0 ∧ Tab.find (at0 khlat).strands 0 = some khlat ∧
    khlat.run = some ⟨8, none, some 3, none⟩ ∧ Tab.find (at0 khmod).strands 0 = some khmod ∧ khmod.run = some ⟨8, none, none, some 7⟩ ∧
    (at0 khint).cur = some 0 ∧ Tab.find (at0 khint).strands 0 = some khint ∧
    (fits (.hintLat 3) && legalWith none (.hintLat 3)) = true ∧ (fits (.hintImm 3) && legalWith none (.hintImm 3)) = true ∧
    (fits (.hintMod 1 1 2) && legalWith none (.hintMod 1 1 2)) = true ∧ k0.run = none ∧
    Issues (withKernel dictKernel (at0 k0)) 0 k0 (.pair 0 1) [] [] ∧ kernelOf (withKernel dictKernel (at0 k0)) k0 = some dictKernel ∧
    dictReady (withKernel dictKernel (at0 k0)) k0 0 = true ∧ dictReady (withKernel dictKernel (at0 k0)) k0 1 = true ∧ entryTrap k0 0x0448CE06 = none ∧
    entryTrap k0 0x048D0140 = none ∧ secondMajor 0x048D0140 = true ∧ secondWaits k0 0x0448CE06 0x048D0140 = none ∧
    Issues (withKernel dictKernel (at0 k0)) 0 k0 (.pair 2 1) [] [] ∧ dictKernel.dict.length ≤ 2 := by and_intros <;> decide +kernel

def paired : State := { withKernel dictKernel (at0 k0) with
  mem := Memory.writeBytes [] (dictKey (at0 k0) 0 0 0) (leBytes 8 (0x0448CE06 + 0x048D0140 * 2 ^ 32)) }

theorem wit_PairEntries : Issues paired 0 k0 (.pair 0 1) [] [] ∧ Unharmed paired ∧ dictReady paired k0 0 = true ∧ dictReady paired k0 1 = true ∧ vecPending paired 0 (secondVregs 0x048D0140) = false ∧
    numberAt paired (scratchKey 0 (paired.pkg * 2 ^ 28 + homeCore paired 0 0 * 2 ^ 16 + 0xF000 + 4 * 0)) 4 = 0x0448CE06 ∧
    numberAt paired (scratchKey 0 (paired.pkg * 2 ^ 28 + homeCore paired 0 0 * 2 ^ 16 + 0xF000 + 4 * 1)) 4 = 0x048D0140 := by
  and_intros <;> decide +kernel

/-- A block for one record at 4096: arguments 1 to 4. -/
def blockRaw : Nat := 1 + 2 * 2 ^ 64 + 3 * 2 ^ 128 + 4 * 2 ^ 192 + 2 ^ 256
def klc : Strand := g k0 6 0
def launching : State := { at0 klc with mem := Memory.writeBytes [] 4096 (leBytes 64 blockRaw) }
def launched : Option (Nat × State) :=
  launch launching 0 0 1 ((List.range 4).map fun j => BitVec.ofNat 64 (blockRaw / 2 ^ (64 * j) % 2 ^ 64)) ⟨0, none, none, none⟩

theorem wit_KlaunchLaunches : Issues launching 0 klc (.klaunch 7 6 4) [6, 4] [7] ∧ AllClean klc [6, 4] ∧
    LocalAt launching 0 klc (klc.nat 4) 64 64 1 (lp 4096) ∧ CleanRange launching (lp 4096) 64 ∧ homeServes launching (dieOf 0) (lp 4096) 64 = true ∧
    numberAt launching 4096 64 = blockRaw ∧ launchable launching 0 0 = true ∧ blockTrap launching klc blockRaw = none ∧
    releaseReady launching 0 klc 3 = true ∧ launched.isSome = true ∧ takeIndex launching 0 8 0 = some 2 ∧
    findScope launching 0 1 = some root ∧ root.state = .open ∧ root.result = .ok ∧
    ((Tab.find launching.ctxs 0).map quadsOf) = some [0, 1] ∧ (freeTicket launching 0 (dieOf 0)).isSome = true := by
  and_intros <;> decide +kernel

/-! ### Hypotheses met: strands' own steps, messages, scopes -/

def spawn0 : Spawn := ⟨0x400, [1, 2, 3, 4], [none, none, none, none], 2 ^ 35, 32769, 5, 0⟩
def spooled (core : Nat) (c0 : Core := core0) : State := { at0 k0 with
  cores := [(0, c0), (1, core0)], groups := { base.groups with spools := [(core, [spawn0])] } }
def stealer : Core := { core0 with slots := [(0, 0)] }
def stealing (s : State) : State := { s with kernels := [(0, { fetchKernel with steal := 4, vregs := 0 })] }

theorem wit_RecordsArePlaced : runningCore (spooled 0) 0 = some core0 ∧ nextArrival (spooled 0) 0 core0 = none ∧
    takeEntry (spooled 0) 0 (homeCore (spooled 0) 0 0) 1 = some 1 ∧ (spooled 0).sync.monitors = [] ∧
    popChoice (spooled 0) 0 1 core0 = some (0, spawn0) ∧ popChoice (stealing (spooled 1)) 0 1 core0 = none ∧
    takeEntry (stealing (spooled 1)) 0 (homeCore (stealing (spooled 1)) 0 0) 1 = some 1 ∧
    (stealFrom (stealing (spooled 1)) 0 1 core0 [1, 2, 3, 4]).isSome = true := by and_intros <;> decide +kernel

def kplaced : Strand := { k0 with phase := .placed }
def later (s : State) : State := { s with cycle := 2 }
def kleave : Strand := { k0 with stall := .leave 1 }
def kmoving : Strand := { k0 with phase := .migrating, core := 0 }
def kend : Strand := { k0 with phase := .cancelling }
def keager : Strand := { k0 with eager := 4096, counts := true }
def withInner (r : Scope) (s : State) : State := { s with groups := { s.groups with scopes := [(0, root), (1, r)] } }
def empty1 : Core := { core0 with slots := [] }
def migrating : State := { at0 kmoving with cores := [(0, empty1)], flights := [(7, .migration 0 0 kmoving.message [1, 0, 0, 0, 0, 0, 0, 0])] }
def waitingCore : Core := { empty1 with arrivals := [0] }

theorem wit_StrandEvents : Tab.find (at0 kplaced).strands 0 = some kplaced ∧ kplaced.out = false ∧
    scopeMarked (at0 kplaced) 0 32769 = false ∧ scopeMarked (withInner { inner with result := .cancelled, state := .cancelling } (at0 kplaced)) 0 32769 = true ∧
    kleave.stall = .leave 1 ∧ nonePending kleave = true ∧ memBusy (at0 kleave) 0 = false ∧ (at0 kleave).images = [] ∧
    Tab.find migrating.flights 7 = some (.migration 0 0 kmoving.message [1, 0, 0, 0, 0, 0, 0, 0]) ∧
    kmoving.unpack kmoving.message 0 = { kmoving with ep := 0 } ∧ kplaced.since < (later (at0 kplaced)).cycle ∧ Tab.find (later (at0 kplaced)).strands 0 = some kplaced ∧
    scopeMarked (later (at0 kplaced)) 0 32769 = false ∧ releaseReady (at0 kend) 0 kend 3 = true ∧ kend.gang = none ∧ empty1.arrivals = [] ∧ freeSlot empty1 = some 0 ∧
    Tab.find migrating.cores 0 = some empty1 ∧ empty1.mode = .running ∧ otherKernel migrating 0 0 0 = false ∧
    waitingCore.arrivals = [0] ∧ kernelReady migrating 0 0 0 = true ∧ kmoving.phase = .migrating ∧ kmoving.st.c = false ∧ kmoving.st.t = false ∧
    kmoving.mail = [] ∧ migrating.sync.monitors = [] ∧ empty1.ctx = kmoving.ctx ∧ Tab.has waitingCore.slots 0 = false ∧ nonePending kend = true ∧ holdsLoad (at0 kend) 0 = false ∧
    kend.mail = [] ∧ eagerDue keager = true := by
  and_intros <;> decide +kernel

def kmode : Strand := { (k0.setG 6 GReg.empty) with st := { k0.st with mode := 0xFFFF } }
def msg0 (t : Nat) (a : Option Nat) : Msg := ⟨0, t, 6, 77, false, 0, 40, 3, 32769, 8, a⟩
def posted (m : Msg) : State := { at0 kmode with flights := [(7, .msg m)], nextId := 8 }
/-- The core of the receiver has issued in this cycle. -/
def issuedCore : Core := { core0 with last := [(0, base.cycle)] }
def afterIssue : State := (posted (msg0 0 none)).putCore 0 issuedCore
def acked : State := { at0 k0 with flights := [(7, .ack 0 0 ⟨6, 2, false, 0⟩)] }

theorem wit_MessagesAreDelivered : takesMail kmode = true ∧ kmode.mail = [] ∧ mayIssueNow (posted (msg0 0 none)) kmode = true ∧
    mayIssueNow afterIssue kmode = false ∧ Tab.find afterIssue.strands 0 = some kmode ∧ messageFirst afterIssue 7 (msg0 0 none) = true ∧
    (msg0 0 none).target / 2 ^ 51 % 2 ^ 13 = (posted (msg0 0 none)).pkg ∧ scopeMarked afterIssue 0 32769 = false ∧
    messageFirst (posted (msg0 0 none)) 7 (msg0 0 none) = true ∧
    scopeMarked (posted (msg0 0 none)) 0 32769 = false ∧ Tab.find (posted (msg0 0 none)).strands 0 = some kmode ∧
    kmode.gen = 0 ∧ (kmode.g 6).full = false ∧ (kmode.g 6).pend = false ∧ kmode.st.mode.getLsbD 6 = true ∧
    Tab.find (posted (msg0 (2 ^ 36) (some 5))).strands 1 = none ∧
    scopeMarked (withInner { inner with result := .cancelled, state := .cancelling } (posted (msg0 0 (some 5)))) 0 32769 = true ∧
    Tab.find acked.flights 7 = some (.ack 0 0 ⟨6, 2, false, 0⟩) ∧ Tab.find acked.strands 0 = some k0 := by
  and_intros <;> decide +kernel

def kclose : Strand := { k0 with phase := .parked (.close 6), opened := 1 }
def emptying : Scope := { inner with state := .emptying, units := 2 ^ 32 - 8, opener := strandHandle (at0 kclose) kclose }
def sharing (r : Scope) (k : Strand) : State := { withInner r (at0 k) with flights := [(7, .share 0 32769 8 0)] }
def kborrow : Strand := { k0 with phase := .parked .borrow }
def alone (f : Flight) (k : Strand := k0) : State := { at0 k with
  groups := { base.groups with scopes := [(1, inner)] }, flights := [(7, f)] }

/-- A scope below the inner one, with a member of its own, while a cancel of the inner one arrives. -/
def deep : Scope := { inner with handle := 65537, parent := 32769 }
def kdeep : Strand := { k0 with sc := 65537 }
def nested : State := { at0 k0 with
  strands := [(0, k0), (1, { kdeep with entry := 1 })], flights := [(7, .cancel 0 32769)]
  groups := { base.groups with scopes := [(0, root), (1, { inner with child := 65537 }), (2, deep)] } }

theorem wit_ScopeEvents_below : Tab.find nested.flights 7 = some (.cancel 0 32769) ∧
    findScope nested 0 32769 = some { inner with child := 65537 } ∧ ScopesFiled nested 0 ∧ deep ∈ descendants nested 0 32769 ∧ deep.state = .open ∧
    findScope nested 0 1 = some root ∧ root ∉ descendants nested 0 32769 ∧
    Tab.find nested.strands 1 = some { kdeep with entry := 1 } ∧ kdeep.phase = .running ∧ kdeep.out = false := by and_intros <;> decide +kernel

theorem wit_ScopeEvents : findScope (sharing inner k0) 0 32769 = some inner ∧ inner.units + 8 ≠ 2 ^ 32 ∧
    emptying.units + 8 = 2 ^ 32 ∧ findScope (sharing emptying kclose) 0 32769 = some emptying ∧
    strandOf (sharing emptying kclose) 0 emptying.opener = some 0 ∧
    1 ≤ inner.units ∧ 2 ^ 16 ≤ inner.units + 1 ∧ Tab.find (alone (.borrowGrant 0 9) kborrow).strands 0 = some kborrow ∧
    findScope (alone (.cancel 0 32769)) 0 32769 = some inner ∧ inner.state = .open ∧ inner.result = .ok ∧
    ScopesFiled (alone (.cancel 0 32769)) 0 ∧
    findScope (sharing inner k0) 0 1 = some root ∧ scopeKey 0 1 ≠ scopeKey 0 32769 := by and_intros <;> decide +kernel

/-! ### Hypotheses met: scratchpads, links between dies, repair -/

def banked (r : Retention) : State := { base with prot := { base.prot with banks := [(16 * 3 + 2, r)] } }
def withRegion (r : Region) : State := { base with prot := { base.prot with regions := [(7, r)] } }
def remoteAt : Nat := scratchBase + 2 ^ 16 + 64
def stampedTo (v : List Nat) : Flight := .stamped 0 1 0 v ⟨4096, [1, 2], none⟩
def harmed (u : Nat) (d : Damage) : State := { base with prot := { base.prot with damage := [(u, d)] } }
def linkTried (n : Nat) : State := { base with links := { base.links with d2d := [(5, n)] } }

theorem wit_ScratchpadEvents : Tab.find base.prot.banks (16 * 3 + 2) = none ∧
    (∀ r ∈ [Retention.entering, .retained, .leaving], Tab.find (banked r).prot.banks (16 * 3 + 2) = some r) ∧
    Tab.find (withRegion ⟨some 3, [3], some 4, none⟩).prot.regions 7 = some ⟨some 3, [3], some 4, none⟩ ∧
    Tab.find (withRegion ⟨some 3, [], none, some 3⟩).prot.regions 7 = some ⟨some 3, [], none, some 3⟩ ∧
    requestFirst (fly (.remoteStore 0 0 ⟨remoteAt, [1, 2], none⟩ none)) 9 0 0 = true ∧ bankIdle base 3 2 = true ∧
    requestReady base remoteAt 2 = true ∧ requestLanded base 0 remoteAt = true ∧ remoteAt < bufferBase ∧ keyPackage base remoteAt = base.pkg ∧ base.sync.monitors = [] ∧
    Unharmed base := by and_intros <;> decide +kernel

/-- A row that has had sixteen corrected errors, one that holds poison, and a CAM with no spare left. -/
def worn : State := { base with prot := { base.prot with rowErrors := [(3 * 2 ^ 25 + 9, 16)] } }
def fullCam : State := { worn with prot := { worn.prot with remap := (List.range 1024).map fun i => (3 * 2 ^ 25 + 100 + i, 100 + i) } }

theorem wit_MemorySystemEvents : mayApply (appliedOf base 1) 0 [1, 0, 0, 0, 0, 0, 0, 0] = true ∧
    writeReady base ⟨4096, [1, 2], none⟩ = true ∧
    Tab.get (linkTried 63).links.d2d 5 0 < 64 ∧ 64 ≤ Tab.get (linkTried 64).links.d2d 5 0 ∧
    Tab.find worn.prot.remap (3 * 2 ^ 25 + 9) = none ∧ rowDue worn (3 * 2 ^ 25 + 9) = true ∧
    ((worn.prot.remap.filter fun p => p.1 / 2 ^ 25 == 3).any fun p => p.2 == 77) = false ∧
    (worn.prot.remap.filter fun p => p.1 / 2 ^ 25 == 3).length < 1024 ∧
    ownHbm (harmed 4096 .correctable) 4096 = true ∧ sramDie (harmed (scratchBase + 64) .uncorrectable) (scratchBase + 64) = some 0 := by
  and_intros <;> decide +kernel

theorem wit_MemorySystemEvents_full : 1024 ≤ (fullCam.prot.remap.filter fun p => p.1 / 2 ^ 25 == 3).length ∧
    Tab.find fullCam.prot.remap (3 * 2 ^ 25 + 9) = none ∧ rowDue fullCam (3 * 2 ^ 25 + 9) = true := by
  and_intros <;> decide +kernel

/-! ### Hypotheses met: pages and contexts -/

def leafOf (st : Nat) : Nat := withState (fetchLeaf 0) st
def pageIn (st : Nat) : Page := ⟨leafOf st, 1, false, 2 ^ 20⟩
def withPage (p : Page) (s : State := at0 k0) : State := { s with xlat := { s.xlat with pages := [(0, p)], tlb := [] } }
def kwalk : Strand := { k0 with stall := .walk 4096 needRd }
def kfaulted : Strand := { k0 with phase := .faultedOut 0 }

/-- A wake for a strand that is switched out. -/
def kfaultedOut : Strand := { kfaulted with out := true }
def wakeOut : State := { at0 kfaultedOut with flights := [(7, .repairWake 0 0)] }

theorem wit_PageWalks_out : Tab.find wakeOut.flights 7 = some (.repairWake 0 0) ∧ Tab.find wakeOut.strands 0 = some kfaultedOut ∧
    kfaultedOut.phase = .faultedOut 0 ∧ kfaultedOut.out = true ∧ kwalk.out = false := by decide +kernel

theorem wit_PageWalks : Tab.find (withPage (pageIn 1) (at0 kwalk)).strands 0 = some kwalk ∧ kwalk.phase = .running ∧
    findPage (withPage (pageIn 1) (at0 kwalk)) 0 4096 = some (0, pageIn 1) ∧ leafRights (leafOf 1) needRd = true ∧
    leafState (leafOf 1) = 1 ∧ findPage (withPage (pageIn 0) (at0 kwalk)) 0 4096 = some (0, pageIn 0) ∧
    leafRights (leafOf 0) needRd = true ∧ leafState (leafOf 0) = 0 ∧
    findPage { at0 kwalk with xlat := { base.xlat with pages := [] } } 0 4096 = none ∧
    Tab.find ({ at0 kfaulted with flights := [(7, .repairWake 0 0)] } : State).strands 0 = some kfaulted ∧ kfaulted.gen = 0 := by
  decide +kernel

def repairing (p : Page) : State := { withPage p with xlat := { (withPage p).xlat with repairs := [0] } }
def coldPage : Page := { pageIn 1 with cold := true }

/-- A page in migration with a waiter recorded at a barrier in it. -/
def waitedPage : State := { withPage (pageIn 2) with sync := { base.sync with waiters := [(0 + 64, [⟨0, 6, 5⟩])] } }

theorem wit_PageLife_waiters : findPage waitedPage 0 4096 = some (0, pageIn 2) ∧ 64 < leafSize (pageIn 2).leaf ∧ leafValid (pageIn 2).leaf = true ∧
    (pageIn 2).former = 1 ∧ (pageIn 2).target % leafSize (pageIn 2).leaf = 0 ∧ (pageIn 2).target < 2 ^ 52 ∧
    waitedPage.sync.waiters = [(leafFrame (pageIn 2).leaf + 64, [⟨0, 6, 5⟩])] ∧ waitedPage.mem.wf = true ∧
    shooting waitedPage 0 (pageVa 0) = false := by and_intros <;> decide +kernel

theorem wit_PageLife : Tab.find (withPage (pageIn 0)).xlat.pages 0 = some (pageIn 0) ∧ leafState (pageIn 0).leaf = 0 ∧
    0 ∉ (withPage (pageIn 0)).xlat.repairs ∧ findPage (repairing (pageIn 0)) 0 4096 = some (0, pageIn 0) ∧
    0 ∈ (repairing (pageIn 0)).xlat.repairs ∧
    frameOk (repairing (pageIn 0)) (2 ^ 20) (leafSize (leafOf 0)) (leafPkg (leafOf 0)) (leafSwz (leafOf 0)) = true ∧
    (repairing (pageIn 0)).mem.wf = true ∧ findPage (withPage (pageIn 1)) 0 4096 = some (0, pageIn 1) ∧
    frameOk (withPage (pageIn 1)) (2 ^ 20) (leafSize (leafOf 1)) (2 ^ 20 / 2 ^ 39) (leafSwz (leafOf 1)) = true ∧
    shooting (withPage (pageIn 1)) 0 (pageVa 0) = false ∧ findPage (withPage (pageIn 2)) 0 4096 = some (0, pageIn 2) ∧
    leafState (pageIn 2).leaf = 2 ∧ leafFrame (leafOf 2) + leafSize (leafOf 2) ≤ (pageIn 2).target ∧
    findPage (withPage coldPage) 0 4096 = some (0, coldPage) ∧ oldHeld (withPage coldPage) coldPage.leaf = false ∧
    Tab.find (withPage (pageIn 1)).xlat.pages 0 = some (pageIn 1) ∧ leafValid (leafOf 1) = true := by and_intros <;> decide +kernel

def shot (t : Option Nat) : State := { base with xlat := { base.xlat with shootdowns := [⟨0, 0, leafOf 1, t⟩] } }
/-- A `MAP` waits for its shootdown. -/
def busyManager : State := shot (some 9)
def freshLeaf : Nat := leafOf 1 + 2 ^ 20 / 2 ^ 16

theorem wit_ShootdownsAndMapping : firmwareUp busyManager = true ∧ managerBusy busyManager = true ∧ swizzlesOk (at0 k0) 0 0 = true ∧
    swizzlesOk base (pageKey 0 (2 ^ 20)) freshLeaf = true ∧
    findPage (at0 k0) 0 4096 = some (0, ⟨fetchLeaf 0, 1, false, 0⟩) ∧
    narrows (fetchLeaf 0) 0 = true ∧ leafWellFormed 0 0 = true ∧ leafState (fetchLeaf 0) ≠ 2 ∧ 0 + 2 ^ 52 ≠ fetchLeaf 0 ∧
    leafOf 1 / 2 ^ 52 % 2 = 1 ∧ (leafOf 1 - 2 ^ 52) + 2 ^ 52 = leafOf 1 ∧ findPage (withPage (pageIn 1)) 0 4096 = some (0, pageIn 1) ∧ shooting (at0 k0) 0 (pageVa 0) = false ∧ oldHeld (shot (some 9)) (leafOf 1) = false ∧
    firmwareUp base = true ∧ managerBusy base = false ∧ Tab.has base.ctxs 0 = true ∧ leafWellFormed freshLeaf (2 ^ 20) = true ∧
    leafValid freshLeaf = true ∧ overlapping base 0 (2 ^ 20) (leafSize freshLeaf) = [] := by and_intros <;> decide +kernel

def cx : Context := (Tab.find base.ctxs 0).getD fetchContext
def descRaw : Nat := 2 ^ 1024 + 145 * 2 ^ 2112 + 3 * 2 ^ 2148
def defining : State := { base with mem := Memory.writeBytes [] 8192 (leBytes 512 descRaw) }
def idleCores (s : State) (c : Context := cx) : State := { s with cores := [(0, { core0 with mode := .idle })], ctxs := [(0, c)] }
def suspended : Context := { cx with state := .suspended }
def onlyRoot : State := { base with groups := { base.groups with scopes := [(0, { root with result := .frayed, fray := 3 })] } }

/-- The key's bytes carry poison. -/
def unreadable : State := { defining with prot := { defining.prot with poison := [(8192 + 32, 7)] } }
/-- Nothing of context 0 is on its way, or a copy operation of it is still at work. -/
def quiet : State := { at0 k0 with queues := [] }
def working : State := { withOp going with queues := [] }

theorem wit_ContextCommands_teardown : firmwareUp quiet = true ∧ Tab.find quiet.ctxs 0 = some cx ∧ quiet.sync.holders = [] ∧ quiet.sync.queues = [] ∧
    quiet.queues = [] ∧ quiet.ops = [] ∧ quiet.xlat.shootdowns = [] ∧ quiet.flights = [] ∧
    firmwareUp working = true ∧ Tab.find working.ctxs 0 = some cx ∧ working.sync.holders = [] ∧ working.sync.queues = [] ∧ working.queues = [] ∧
    Tab.find working.ops 3 = some going ∧ going.ctx = 0 := by and_intros <;> decide +kernel

theorem wit_ContextCommands : firmwareUp defining = true ∧
    (base.ctxs.any fun p => p.2.suspending.isSome || p.2.setseg.isSome || p.2.tearing.isSome) = false ∧ freeCtx defining = some 1 ∧
    (readAt defining 8192 512).code = none ∧ withoutFused defining (leNat (readAt defining 8192 512).bytes) = descRaw ∧
    descriptorOk descRaw = true ∧ (readAt (idleCores base) 8192 128).code = none ∧
    segsOk (segsFrom (leNat (readAt (idleCores base) 8192 128).bytes)) = true ∧ Tab.find (idleCores base).ctxs 0 = some cx ∧
    (∀ p ∈ (idleCores base).cores, p.2.ctx = 0 → p.2.mode = .idle) ∧ cx.state = .resident ∧
    Tab.find (idleCores base suspended).ctxs 0 = some suspended ∧
    (findScope onlyRoot 0 cx.root).isSome = true ∧ (onlyRoot.groups.scopes.any fun p => p.1 / 2 ^ 17 == 0 && p.2.parent == cx.root) = false ∧
    defining.prot.damage = [] ∧ (readAt defining 8192 56).code = none ∧ (readAt unreadable 8192 56).code ≠ none ∧ unreadable.prot.damage = [] := by and_intros <;> decide +kernel

def kout : Strand := { k0 with out := true }
def im0 : Image := ⟨[(0, 0)], some 0, 0, [], [], none, List.replicate 16 8, none⟩
def offCore (k : Strand) (ims : Tab Image) : State := { at0 k with
  cores := [], images := ims, groups := { base.groups with spools := [(0, [spawn0])] } }
def donating : State := { offCore kout [(0, im0)] with
  flights := [(7, .donation 4096 0 5 0)], sync := { base.sync with holders := [(4096, 0)], donations := [(4096, (0, 5))] } }
def preempting : Core := { core0 with mode := .preempting }
def rival : State := { at0 k0 with
  cycle := 10 ^ 6
  ctxs := [(0, { cx with quantum := 9 }), (1, cx)], groups := { base.groups with spools := [(4096, [spawn0])] }
  kernels := [(0, fetchKernel), (2 ^ 32, fetchKernel)] }
def segged : State := { at0 k0 with cores := [(0, { core0 with oldSegs := some [] })] }

/-- Context 1 has work and a higher priority, or context 0 has no work left, or context 1 has none. -/
def urgent : State := { rival with ctxs := [(0, cx), (1, { cx with prio := 9 })] }
def kidle : Strand := { k0 with phase := .parked .borrow }
def workless : State := { rival with strands := [(0, kidle)] }

theorem wit_ImagesComeAndGo_interrupts : Tab.find urgent.cores 0 = some core0 ∧ core0.mode = .running ∧ core0.dispatch = [] ∧
    (quadAt urgent (quadOf 0)).busy = none ∧ (1, { cx with prio := 9 }) ∈ urgent.ctxs ∧ 1 ≠ core0.ctx ∧ eligible urgent 1 0 = true ∧
    hasWork urgent 1 0 = true ∧ effectivePrio urgent core0.ctx < effectivePrio urgent 1 ∧
    Tab.find workless.cores 0 = some core0 ∧ (quadAt workless (quadOf 0)).busy = none ∧ (1, cx) ∈ workless.ctxs ∧ eligible workless 1 0 = true ∧ hasWork workless 1 0 = true ∧
    hasWork workless core0.ctx 0 = false ∧ (at0 k0).ctxs.map (·.1) = [0] ∧ core0.ctx = 0 := by and_intros <;> decide +kernel

theorem wit_ImagesComeAndGo : eligible (offCore k0 []) 0 0 = true ∧ coreFree (offCore k0 []) 0 = true ∧
    highestThere (offCore k0 []) 0 0 = true ∧ hasWork (offCore k0 []) 0 0 = true ∧
    Tab.find (offCore k0 []).images (0 * 4096 + 0) = none ∧ highestThere (offCore kout [(0, im0)]) 0 0 = true ∧
    hasWork (offCore kout [(0, im0)]) 0 0 = true ∧ (offCore kout [(0, im0)]).groups.spill = [] ∧ im0.runsOn = none ∧
    Tab.find (at0 k0).cores 0 = some core0 ∧ core0.mode = .running ∧ core0.dispatch = [] ∧ settled k0 = true ∧ (quadAt (at0 k0) 0).busy = none ∧
    Tab.find rival.ctxs core0.ctx = some { cx with quantum := 9 } ∧ (1, cx) ∈ rival.ctxs ∧
    core0.began + 2500 * 9 ≤ rival.cycle ∧ donatedHere rival core0 = false ∧ effectivePrio rival 1 = effectivePrio rival 0 ∧ eligible rival 1 0 = true ∧ hasWork rival 1 0 = true ∧
    preempting.arrivals = [] ∧ (at0 k0).sync.holders = [] ∧ k0.gang = none ∧ (at0 k0).images = [] ∧
    Tab.find segged.cores 0 = some { core0 with oldSegs := some [] } ∧ cx.setseg = none ∧
    Tab.find donating.sync.holders 4096 = some 0 ∧ Tab.has donating.sync.donations 4096 = true ∧
    Tab.find donating.strands 0 = some kout ∧ Tab.find donating.images (0 * 4096 + kout.core) = some im0 ∧
    eligible donating 0 0 = true ∧ coreFree donating 0 = true ∧ quadOf 0 = quadOf kout.core := by and_intros <;> decide +kernel


/-! ### Hypotheses met: kernels and host queues -/

/-- A kernel descriptor at 8192, with one dictionary word at 12288, in a context with some rights. -/
def descOf (image : Nat) : Nat := image + 4096 * 2 ^ 64 + 2 ^ 96 + (2 ^ 32 - 1) * 2 ^ 128 + 2 ^ 160 + 8 * 2 ^ 176 + 12288 * 2 ^ 256
def loading (image rights : Nat) : State := { base with
  mem := (Memory.writeBytes [] 8192 (leBytes 128 (descOf image))).writeBytes 12288 (leBytes 4 0x0448CE06)
  ctxs := [(0, { cx with rights := rights })] }
def kernelIn (st : KernelState) : State := withKernel { fetchKernel with state := st } base
def kernelRoot : Scope := { root with units := 2 ^ 32, handle := 65537, parent := 1, state := .closed, result := .succeeded }
def queue0 : Queue := {
  ctx := 0, state := .running, held := true, ring := 32768, size := 16, status := 36864, head := 0, done := 0, tail := 1
  started := [], fault := 0, lastFray := 0, waiting := none, since := 0, evictable := false, paging := false, statusDue := false }
def withQueue (x : Queue) (s : State := base) : State := { s with queues := [(5, x)] }
def closing : State := withQueue { queue0 with started := [Started.blank 0 1], head := 1 } { base with
  groups := { base.groups with scopes := [(0, { root with child := 65537 }), (2, kernelRoot)] }
  launches := [(2, ⟨0, some (5, 0), some 4096, some 8192⟩)], kernels := [(0, { fetchKernel with roots := [65537] })] }

theorem wit_KernelLife : firmwareUp (loading 0 0) = true ∧ Tab.find (loading 0 0).ctxs 0 = some { cx with rights := 0 } ∧
    (readAt (loading 0 0) 8192 128).code = none ∧ leNat (readAt (loading 0 0) 8192 128).bytes = descOf 0 ∧
    descriptorFields (descOf 2) cx = false ∧ descriptorFields (descOf (2 ^ 62)) cx = true ∧
    rangesOk (loading (2 ^ 62) 0) cx (kernelDesc (descOf (2 ^ 62))) = false ∧ descriptorFields (descOf 0) cx = true ∧
    rangesOk (loading 0 0) cx (kernelDesc (descOf 0)) = true ∧
    poolOk (loading 0 0) cx (kernelDesc (descOf 0)) = true ∧ (loading 0 0).prot.damage = [] ∧
    firmwareReads (loading 0 0) 0 (tableRanges cx (kernelDesc (descOf 0))) = .ok [0x0448CE06, 0] ∧ presetsOk [] = true ∧
    dictWordOk 0x0448CE06 = true ∧ descriptorFields (descOf 0) { cx with rights := 8 } = true ∧
    rangesOk (loading 0 8) { cx with rights := 8 } (kernelDesc (descOf 0)) = true ∧ cx.keySet = false := by
  and_intros <;> decide +kernel

/-- A descriptor that fails a part of each check, or whose tables are to come or cannot be read, and a signed one with its key. -/
def badPool : Nat := descOf 0 + 4096 * 2 ^ 384 + 64 * 2 ^ 448
def badWord : State := { loading 0 0 with mem := (loading 0 0).mem.writeBytes 12288 (leBytes 4 0x00000001) }
def badPreset : Nat := descOf 0 + 2 ^ 240 + 20480 * 2 ^ 512
def presetMem : State := { loading 0 0 with mem := ((loading 0 0).mem.writeBytes 20480 (leBytes 16 (3 * 2 ^ 96))).writeBytes 8192 (leBytes 128 badPreset) }
def farTable : Nat := descOf 0 + 65536 * 2 ^ 256 - 12288 * 2 ^ 256
def tablesToCome (st : Nat) : State := { loading 0 0 with
  xlat := { base.xlat with pages := Tab.put base.xlat.pages 1 ⟨withState (fetchLeaf 0) st + 1, 0, false, 0⟩ } }
def signedDesc : Nat := 8 * 2 ^ 64 + 2 ^ 96 + (2 ^ 32 - 1) * 2 ^ 128 + 8 * 2 ^ 176 + 64 * 2 ^ 480 + 16384 * 2 ^ 576
def signedCx : Context := { cx with rights := 8, keySet := true, key := 5 }
def signedLoad : State := { loading 0 8 with ctxs := [(0, signedCx)], mem := (loading 0 0).mem.writeBytes 8192 (leBytes 128 signedDesc) }

theorem wit_KernelLife_checks : poolOk (loading 0 0) { cx with rights := 0 } (kernelDesc badPool) = false ∧ descriptorFields badPool { cx with rights := 0 } = true ∧
    firmwareReads badWord 0 (tableRanges cx (kernelDesc (descOf 0))) = .ok [1, 0] ∧ dictWordOk 1 = false ∧ (kernelDesc (descOf 0)).dcount = 1 ∧
    firmwareReads presetMem 0 (tableRanges cx (kernelDesc badPreset)) = .ok [0x0448CE06, 3 * 2 ^ 96] ∧ presetsOk [3 * 2 ^ 96] = false ∧
    rangesOk presetMem { cx with rights := 0 } (kernelDesc badPreset) = true ∧
    rangesOk (tablesToCome 3) { cx with rights := 0 } (kernelDesc farTable) = true ∧
    firmwareReads (tablesToCome 3) 0 (tableRanges cx (kernelDesc farTable)) = .wait (some 1) ∧
    firmwareReads (loading 0 0) 0 (tableRanges cx (kernelDesc farTable)) = .bad ∧
    descriptorFields signedDesc signedCx = true ∧ poolOk signedLoad signedCx (kernelDesc signedDesc) = true ∧
    rangesOk signedLoad signedCx (kernelDesc signedDesc) = true ∧ firmwareReads signedLoad 0 (tableRanges signedCx (kernelDesc signedDesc)) = .ok [0, 0] ∧
    signedCx.rights / 2 ^ 3 % 2 = 1 ∧ canVerify signedCx (kernelDesc signedDesc) = true ∧
    firmwareReads signedLoad 0 (signedRanges signedCx (kernelDesc signedDesc)) = .ok [0, 0, 0, 0, 0] := by and_intros <;> decide +kernel

/-- A kernel whose image's page is spilled. -/
def pinning : State := { kernelIn .verified with xlat := { base.xlat with pages := [(0, ⟨withState (fetchLeaf 0) 3, 0, false, 0⟩)] } }

theorem wit_KernelLife_more : imagePages pinning 0 { fetchKernel with state := .verified } = [(0, ⟨withState (fetchLeaf 0) 3, 0, false, 0⟩)] ∧
    leafState (withState (fetchLeaf 0) 3) = 3 ∧ ctxRuns closing 0 = true ∧ firmwareReady closing (lp 4096) 8 = true ∧
    imageCovered (kernelIn .verified) 0 { fetchKernel with state := .verified } = true ∧
    imagePages (kernelIn .verified) 0 { fetchKernel with state := .verified } ≠ [] ∧
    Tab.find (kernelIn .resident).kernels 0 = some { fetchKernel with state := .resident } ∧
    Tab.find (kernelIn .running).kernels 0 = some fetchKernel ∧ closedRoot closing 0 65537 = some kernelRoot ∧
    Tab.find closing.launches (scopeKey 0 65537) = some ⟨0, some (5, 0), some 4096, some 8192⟩ ∧
    Tab.find closing.kernels 0 = some { fetchKernel with roots := [65537] } ∧
    firmwareAt closing 0 4096 needWr = .at (lp 4096) ∧ pathOpen closing 0 = true ∧ closing.mem.wf = true := by
  and_intros <;> decide +kernel

def createRaw : Nat := 32768 + 16 * 2 ^ 64 + 36864 * 2 ^ 128
def creating : State := { base with mem := Memory.writeBytes [] 8192 (leBytes 64 createRaw) }
def oldUnmapped : Queue := { queue0 with state := .unmapped, held := false }
def aged (s : State) : State := { s with cycle := 25000000 }

/-- A copy of a queue's command at work. -/
def workingFor (q : Nat) : State := withQueue queue0 (withOp { going with queue := some (q, 0) })
def pagedQueue : Queue := { queue0 with state := .pagedOut, held := false, paging := true, waiting := some 3 }

theorem wit_QueueLife_more : (∃ c, Tab.find creating.ctxs 0 = some c ∧ c.tearing = none) ∧ ctxRuns (withQueue oldUnmapped) 0 = true ∧
    firmwareAt (withQueue queue0) 0 (resolve (segsOfCtx (withQueue queue0) 0) queue0.status) needWr = .at (lp 36864) ∧
    firmwareReady (withQueue queue0) (lp 36864) 32 = true ∧ (withQueue queue0).mem.wf = true ∧ queue0.waiting = none ∧
    Tab.find (workingFor 5).ops 3 = some { going with queue := some (5, 0) } ∧
    Tab.find (withQueue pagedQueue).queues 5 = some pagedQueue ∧ pagedQueue.head % pagedQueue.size ≠ pagedQueue.tail ∧
    (∀ p ∈ Tab.del (withQueue pagedQueue).queues 5, p.2.waiting = none) ∧ heldSlots (withQueue pagedQueue) < 4096 ∧
    (0 + 1) % queue0.size = queue0.tail ∧ queue0.head % queue0.size = 16 % queue0.size ∧ queue0.started = [] ∧
    Tab.find (withQueue { pagedQueue with tail := 0, waiting := none }).queues 5 = some { pagedQueue with tail := 0, waiting := none } :=
  ⟨⟨cx, by decide +kernel, by decide +kernel⟩, by and_intros <;> decide +kernel⟩

theorem wit_QueueLife : freeQueue creating = some 0 ∧ (readAt creating 8192 64).code = none ∧
    leNat (readAt creating 8192 64).bytes = createRaw ∧ queueRange creating 0 32768 (64 * 16) needRd = true ∧
    queueRange creating 0 36864 32 needWr = true ∧ isSpread 32768 = false ∧ isSpread 36864 = false ∧
    Tab.find (withQueue { queue0 with state := .faulted }).queues 5 = some { queue0 with state := .faulted } ∧
    (withQueue queue0).links.hostUp = true ∧ 0 % 16 ≠ 3 % 16 ∧ heldSlots (withQueue oldUnmapped) < 4096 ∧
    (∀ p ∈ (withQueue queue0).queues, p.2.waiting = none) ∧
    parkedOnWait { queue0 with started := [Started.blank 0 4] } = true ∧
    (longest ((aged (withQueue oldUnmapped)).queues.filter fun p => p.2.state == .unmapped && p.2.waiting.isNone)).map (·.1) = some 5 := by
  and_intros <;> decide +kernel

/-- A command at the head of the queue. -/
def commandOf (raw : Nat) (s : State := withQueue queue0) : State := { s with mem := s.mem.writeBytes 32768 (leBytes 64 raw) }
def launchRaw : Nat := 1 + 2 ^ 96 + 7 * 2 ^ 128 + 4096 * 2 ^ 384
def copyRaw : Nat := 2 + 5120 * 2 ^ 64 + 4096 * 2 ^ 128 + 64 * 2 ^ 192 + 8192 * 2 ^ 256 + 2 * 2 ^ 320
def signalRaw : Nat := 3 + 4096 * 2 ^ 64 + 77 * 2 ^ 128 + 2 ^ 192
def waitRaw : Nat := 4 + 4096 * 2 ^ 64 + 77 * 2 ^ 128 + 2 ^ 192
def stampRaw : Nat := 5 + 4096 * 2 ^ 64
def queued1 : Option (Nat × State) := launch (commandOf launchRaw) 0 0 1
  ((List.range 4).map fun j => BitVec.ofNat 64 (launchRaw / 2 ^ (128 + 64 * j))) ⟨0, some (5, 0), some (resolve (segsOfCtx base 0) 4096), none⟩

/-- A fenced command behind one that is still at work. -/
def busyQueue : Queue := { queue0 with head := 1, tail := 2, started := [Started.blank 0 4] }
def fencedAt : State := { withQueue busyQueue with mem := base.mem.writeBytes (32768 + 64) (leBytes 64 262) }

theorem wit_QueueCommandsStart : (∀ p ∈ [(1, launchRaw), (2, copyRaw), (3, signalRaw), (4, waitRaw), (5, stampRaw)],
      StartsAs (commandOf p.2) 5 queue0 p.2 p.1) ∧
    queueRange (commandOf launchRaw) 0 4096 8 needWr = true ∧ launchable (commandOf launchRaw) 0 0 = true ∧ queued1.isSome = true ∧
    launchRaw / 2 ^ 112 % 2 ^ 16 = 0 ∧ launchRaw / 2 ^ 448 % 2 ^ 64 = 0 ∧ copyRaw / 2 ^ 328 % 2 ^ 8 = 0 ∧
    copyRaw / 2 ^ 352 % 2 ^ 160 = 0 ∧ copySize (copyRaw / 2 ^ 192 % 2 ^ 64) = some ⟨0, 0, 64, 1, []⟩ ∧
    findScope (commandOf copyRaw) 0 cx.root = some root ∧ queueSide (commandOf copyRaw) 0 0 4096 64 needRd = none ∧
    queueSide (commandOf copyRaw) 0 0 5120 64 needWr = none ∧
    queueRange (commandOf copyRaw) 0 8192 32 (needBar ||| needEn) = true ∧ 2 ^ 16 ≤ root.units ∧ cx.quads / 2 ^ 0 % 2 = 1 ∧
    engineLoad (commandOf copyRaw) 0 true < 320 ∧ signalCheck (commandOf signalRaw) 0 4096 1 needBar = none ∧
    signalCheck (commandOf waitRaw) 0 4096 1 needRd = none ∧ queueRange (commandOf stampRaw) 0 4096 8 needWr = true ∧
    CommandAt (commandOf 6) 5 queue0 6 ∧ CommandAt fencedAt 5 busyQueue 262 := by
  and_intros <;> decide +kernel

theorem wit_PlaceFor_signal :
    PlaceFor (commandOf signalRaw) 5 queue0 (resolve (segsOfCtx (commandOf signalRaw) 0) 4096) 8 needBar (lp 4096) :=
  ⟨by decide +kernel, by decide +kernel, by decide +kernel, by decide +kernel, by decide +kernel, lp 36864, by decide +kernel, by decide +kernel⟩

/-- A page of package 1 beyond an open path, and a signal to a barrier in it. -/
def abroadRaw : Nat := 3 + 69632 * 2 ^ 64 + 77 * 2 ^ 128
def signalAbroad : State := { commandOf abroadRaw with
  xlat := { base.xlat with pages := base.xlat.pages ++ [(1, ⟨fetchLeaf 1, 1, false, 0⟩)] }
  links := { base.links with paths := [(1, ⟨.open, 0, 8⟩)] } }

theorem wit_PlaceFor_abroad : StartsAs signalAbroad 5 queue0 abroadRaw 3 ∧ signalCheck signalAbroad 0 69632 0 needBar = none ∧
    PlaceFor signalAbroad 5 queue0 (resolve (segsOfCtx signalAbroad 0) 69632) 32 needBar ⟨2 ^ 39 + 4096, 1, 0, false, false, fetchLeaf 1⟩ ∧
    1 ≠ signalAbroad.pkg :=
  ⟨by decide +kernel, by decide +kernel, ⟨by decide +kernel, by decide +kernel, by decide +kernel, by decide +kernel, by decide +kernel, lp 36864, by decide +kernel, by decide +kernel⟩, by decide +kernel⟩

theorem wit_PlaceFor_timestamp :
    PlaceFor (commandOf stampRaw) 5 queue0 (resolve (segsOfCtx (commandOf stampRaw) 0) 4096) 8 needWr (lp 4096) :=
  ⟨by decide +kernel, by decide +kernel, by decide +kernel, by decide +kernel, by decide +kernel, lp 36864, by decide +kernel, by decide +kernel⟩

def waits (kind : Nat) (d : Bool) : Started := ⟨0, 4, 0, d, 0, kind, 4096, 0⟩
def waitQueue (c : Started) : Queue := { queue0 with head := 1, started := [c] }
def woken (b : Bar) (kind : Nat) : State := withQueue (waitQueue (waits kind false)) (withBar b)

/-- The page of a `WAIT` is spilled. -/
def waitSpilled : State := { woken bar0 1 with xlat := { base.xlat with pages := [(0, ⟨withState (fetchLeaf 0) 3, 0, false, 0⟩)] } }

theorem wit_QueueCommandsComplete : Tab.find waitSpilled.queues 5 = some (waitQueue (waits 1 false)) ∧
    firmwareAt waitSpilled 0 4096 needRd = .resolvable 0 ∧ ctxRuns (withQueue (waitQueue (waits 1 true))) 0 = true ∧
    firmwareAt (woken { bar0 with state := 2 } 0) 0 4096 needBar = .at (lp 4096) ∧ (readLoc (woken { bar0 with state := 2 } 0) (lp 4096) 32).code = none ∧
    (waitQueue (waits 1 false)).started.find? (fun c => c.n == 0 && c.kind == 4 && !c.done) = some (waits 1 false) ∧
    firmwareAt (woken bar0 1) 0 4096 needRd = .at (lp 4096) ∧ firmwareReady (woken bar0 1) (lp 4096) 32 = true ∧ (readLoc (woken bar0 1) (lp 4096) 8).code = none ∧ queue0.state ≠ .mapped ∧
    (waits 1 false).waitVal ≤ leNat (readLoc (woken bar0 1) (lp 4096) 8).bytes ∧
    (readBar (woken { bar0 with state := 4, code := 3 } 0) 4096).state = 4 ∧
    (readBar (woken { bar0 with state := 2 } 0) 4096).state = 2 ∧ (readBar (woken { bar0 with state := 2 } 0) 4096).valid = true ∧
    (waitQueue (waits 1 true)).started.find? (fun c => c.n == 0 && c.done) = some (waits 1 true) ∧
    arrivalsMade (withQueue (waitQueue (waits 1 true))) (waits 1 true) = true := by and_intros <;> decide +kernel


/-! ### Hypotheses met: links, management, the whole machine -/

def up0 : Port := ⟨.up, 8, 5, 9, [4, 5], [(0, 0), (0, 0)], false, 0, false, 0, 0, none, false⟩
/-- Flits replayed 16 times since the last lane went, or 64 times in all. -/
def tired : Port := { up0 with tries := [(16, 16), (3, 3)] }
def spent : Port := { up0 with tries := [(2, 64), (1, 1)] }
def withPort (x : Port) (s : State := base) : State := { s with links := { s.links with ports := [(3, x)] } }
def flitBody : Nat := 10 + 4 * 2 ^ 16
def flitWith (crc : Nat) : List Nat := (leBytes 64 (flitBody + crc * 2 ^ 480)).map (·.toNat)
def goodCrc : Nat := crc32 (leBytes 60 flitBody)
def routed (x : Port) (st : PathState) : State := { withPort x { base with groups := { base.groups with scopes := [] } } with
  links := { (withPort x).links with paths := [(7, ⟨st, 2, 8⟩)] } }
def noticed : State := { routed up0 .dead with
  mem := Memory.writeBytes [] 4096 bar0.bytes, flights := [(9, .frayNotice { arr with op := 4096 } 7 2)] }

/-- The same notice for an object that is malformed. -/
def malformed : State := { noticed with mem := Memory.writeBytes [] 4124 [6] }

/-- A flit that asks for a retry, in order. -/
def askBody : Nat := flitBody + 3 * 2 ^ 32
def cancelling (st : PathState) : State := { routed up0 st with
  flights := [(9, .proxyCancel 0 5 7)], links := { (routed up0 st).links with proxies := [(1, ⟨0, 0, 5, 7, 8, false⟩)] } }

def taintedNotice : State := { routed up0 .dead with
  groups := { base.groups with scopes := [(0, root), (1, inner)] }
  flights := [(9, .frayNotice { arr with op := 4096, tainted := true, selvedge := 32769 } 7 2)] }

/-- A path with an engine's copy at work beyond it, whose page is package 7's. -/
def copying : State := { routed spent .open with
  ops := [(3, { going with mode := some 0 })]
  xlat := { base.xlat with pages := [(0, ⟨fetchLeaf 7, 1, false, 0⟩)] } }

theorem wit_LinkEvents_cut : copying.links.paths = [(7, ⟨.open, 2, 8⟩)] ∧ copying.flights = [] ∧ copying.groups.scopes = [] ∧
    Tab.find copying.ops 3 = some { going with mode := some 0 } ∧ opWorks copying 7 { going with mode := some 0 } = true ∧
    going.cut = none ∧ going.away ≠ some 7 := by and_intros <;> decide +kernel

theorem wit_LinkEvents_more : noticed.prot.damage = [] ∧ (readAt noticed 4096 32).code = none ∧ (readBar noticed 4096).valid = true ∧
    (readBar malformed 4096).valid = false ∧ malformed.prot.damage = [] ∧ Tab.find malformed.flights 9 = Tab.find noticed.flights 9 ∧
    leNat (((flitWith goodCrc).take 64).map (BitVec.ofNat 8)) / 2 ^ 32 % 2 ^ 8 ≠ 4 ∧
    askBody / 2 ^ 32 % 2 ^ 8 = 3 ∧ askBody % 2 ^ 16 = (up0.recvSeq + 1) % 2 ^ 16 ∧
    (up0.unacked.filter fun f =>
      let d := (f % 2 ^ 16 + 2 ^ 16 - askBody / 2 ^ 16 % 2 ^ 16) % 2 ^ 16
      decide (0 < d ∧ d < 2 ^ 15)) = [5] ∧ 0 + 25000 ≤ ({ withPort up0 with cycle := 25000 } : State).cycle ∧
    (portAt (withPort { up0 with quiescing := some 7 }) 3).quiescing = some 7 ∧
    (portAt (withPort { up0 with state := .training, alternate := true }) 3).alternate = true ∧
    Tab.find (cancelling .open).flights 9 = some (.proxyCancel 0 5 7) ∧ pathOpen (cancelling .open) 7 = true ∧
    Tab.find (cancelling .dead).flights 9 = some (.proxyCancel 0 5 7) ∧ pathOpen (cancelling .dead) 7 = false ∧
    (routed up0 .open).sync.monitors = [] ∧ findScope taintedNotice 0 32769 ≠ none ∧
    Tab.find taintedNotice.flights 9 = some (.frayNotice { arr with op := 4096, tainted := true, selvedge := 32769 } 7 2) := by
  and_intros <;> decide +kernel

theorem wit_LinkEvents : (portAt (withPort up0) 3).state = .up ∧ (portAt (withPort up0) 3).quiescing = none ∧
    leNat (((flitWith goodCrc).take 64).map (BitVec.ofNat 8)) = flitBody + goodCrc * 2 ^ 480 ∧
    crc32 (leBytes 60 (flitBody + goodCrc * 2 ^ 480)) = goodCrc ∧
    (flitBody + goodCrc * 2 ^ 480) / 2 ^ 480 % 2 ^ 32 = goodCrc ∧ flitBody % 2 ^ 16 = (up0.recvSeq + 1) % 2 ^ 16 ∧
    crc32 (leBytes 60 flitBody) ≠ flitBody / 2 ^ 480 % 2 ^ 32 ∧
    (∃ e ∈ (portAt (withPort spent) 3).tries, 64 ≤ e.2) ∧ (∃ e ∈ (portAt (withPort tired) 3).tries, 16 ≤ e.1) ∧ 4 < up0.lanes ∧
    (portAt (withPort { tired with lanes := 4 }) 3).lanes ≤ 4 ∧
    (withPort up0).links.paths = [] ∧ (routed up0 .open).links.paths = [(7, ⟨.open, 2, 8⟩)] ∧ routePorts ⟨.open, 2, 8⟩ = [3] ∧
    (routed up0 .open).flights = [] ∧ (routed up0 .open).sync = base.sync ∧ base.sync.waiters = [] ∧ base.sync.queues = [] ∧
    (routed up0 .open).groups.scopes = [] ∧ (portAt (withPort { up0 with state := .training }) 3).state = .training ∧
    Tab.find (routed up0 .dead).links.paths 7 = some ⟨.dead, 2, 8⟩ ∧ routeUp (routed up0 .dead) ⟨.dead, 2, 8⟩ = true ∧
    pendingNotices (routed up0 .dead) 7 = false ∧ Tab.find noticed.links.paths 7 = some ⟨.dead, 2, 8⟩ ∧
    routeUp noticed ⟨.dead, 2, 8⟩ = true := by and_intros <;> decide +kernel

/-- A port with a flit to acknowledge or a request on its way over it, and one whose `QUIESCE` waits. -/
def carrying : State := { withPort { up0 with unacked := [] } with links := { (withPort { up0 with unacked := [] }).links with sent := [⟨1, 7, some 3, true, none⟩] } }
def quiescing : State := withPort { up0 with quiescing := some 7 }

theorem wit_LinkCommands : firmwareUp quiescing = true ∧ (quiescing.links.ports.any fun x => x.2.quiescing.isSome) = true ∧
    (∃ e ∈ carrying.links.sent, e.port = some 3) ∧ (portAt carrying 3).unacked = [] ∧ (withPort { up0 with unacked := [] }).links.sent = [] ∧
    firmwareUp (withPort up0) = true ∧ ((withPort up0).links.ports.any fun x => x.2.quiescing.isSome) = false ∧
    (withPort up0).links.paths = [] ∧ (portAt (withPort up0) 3).unacked ≠ [] ∧
    (portAt (withPort { up0 with unacked := [] }) 3).unacked = [] ∧
    (portAt (withPort { up0 with state := .quiesced }) 3).state = .quiesced ∧ 7 ≠ (withPort up0).pkg ∧ ((withPort up0).links.ports.any fun x => x.2.quiescing.isSome) = false := by
  and_intros <;> decide +kernel

def booting (n : Nat) : State := { State.reset with sys := { State.reset.sys with boot := n, staged := [] } }
def logged : State := { base with sys := { base.sys with frayLog := [⟨1, 5, 1, 0, 0, 4096, 0⟩] } }

/-- A boot with a last outcome of some step, and with a port in training. -/
def booted (n : Nat) (es : List (Nat × Nat)) : State := { State.reset with sys := { State.reset.sys with boot := n, staged := [], journal := es } }
def drained : State := { State.reset with sys := { State.reset.sys with drained := true, staged := [(1, 5)] } }
def doorbelled : State := { logged with sys := { logged.sys with doorbells := [(7, [⟨0x61, 9, []⟩])] } }
def failed : State := { logged with sys := { logged.sys with powerFail := true } }

theorem wit_Bring_up_more : lastOutcome (booted 1 [(5, 2 ^ 20)]) 1 0 = some 5 ∧ lastOutcome (booted 1 [(8, 2 ^ 20)]) 1 0 = some 8 ∧
    (booted 1 [(5, 2 ^ 20)]).sys.drained = false ∧ (booted 1 [(5, 2 ^ 20)]).sys.powerFail = false ∧ drained.sys.drained = true ∧
    lastOutcome (booted 6 [(8, 7 * 2 ^ 20)]) 7 0 = some 8 ∧ lastOutcome (booted 6 [(5, 7 * 2 ^ 20)]) 7 0 = some 5 ∧
    (∀ p ∈ (booted 6 []).links.ports, p.2.state ≠ .training) ∧ lastOutcome (booted 2 [(5, 3 * 2 ^ 20 + 9)]) 3 9 = some 5 ∧
    (booted 8 []).mem.wf = true ∧ (booted 3 []).sys.boot = 3 ∧ (booted 7 []).sys.boot = 7 ∧
    submitted doorbelled 7 = ⟨0x61, 9, []⟩ :: [] ∧ Tab.find (Tab.del doorbelled.sys.doorbells 7) 7 = none ∧ firmwareUp doorbelled = true ∧
    failed.sys.powerFail = true ∧ failed.sys.snapHeld = false ∧ 40 < barSize 0 ∧ 5 < 2 ^ 20 := by and_intros <;> decide +kernel

theorem wit_Bring_up : (booting 7).sys.drained = false ∧ (booting 7).sys.powerFail = false ∧ (booting 7).sys.journal.length ≤ 4096 ∧
    lastOutcome (booting 5) 5 0 = none ∧ State.reset.sys.staged = [(3, 2 ^ 20)] ∧ 8 < 2 ^ 36 ∧ firmwareUp logged = true ∧
    logged.sys.logOverrun = 0 ∧ logged.sys.frayLog[0]? = some ⟨1, 5, 1, 0, 0, 4096, 0⟩ ∧ 0x55 ∉ knownCodes 3 ∧
    3 ≠ logged.sys.power ∧ logged.links.hostUp = true ∧ logged.sys.powerFail = false := by and_intros <;> decide +kernel

theorem wit_DecodeAndEncodeAgree : isWord (.ldp 6 4 3 1 16) = true ∧ fits (.ldp 6 4 3 1 16) = true ∧
    (∃ i, decodeWord 0x048D0140 = .ok i) := ⟨by decide +kernel, by decide +kernel, .div 2 3 4, by decide +kernel⟩

/-- A machine whose next turn lets core 0 issue the word at virtual address 0. -/
def fetching : State := { at0 k0 with turns := [⟨1, 0, .issue 0⟩], mem := Memory.writeBytes [] 0 (leBytes 4 0x048D0140) }
def entered : State := enterTurn 1 0 { fetching with turns := [] }
def issued : State := { noteIssue entered 0 0 0 with cur := some 0 }
/-- The state with the word fetched. -/
def fetchedIn (s : State) (k : Strand) : State :=
  (renewArray (afterRead s (clusterOf k.core) k.ctx (lp 0)) (heldWord 0 k)).modStrand 0 fun k => { k with ibuf := [(k.pc, 0x048D0140)] }

theorem wit_StepRunsTheDecodedInstruction : entered.sys.packageFault = false ∧ entered.sys.powerFail = false ∧
    Tab.find entered.cores 0 = some core0 ∧ readySlots entered core0 = [0] ∧ Tab.find core0.slots 0 = some 0 ∧
    Tab.find entered.strands 0 = some k0 ∧ strandReady entered k0 = true ∧ cacheHit issued (clusterOf k0.core) (lp 0) 4 = none ∧
    Tab.find issued.strands 0 = some k0 ∧ eagerFirst issued 0 k0 = false ∧ k0.pair = [] ∧ k0.ibuf = [] ∧
    fetchSegOk (segsOf issued 0 0) k0.pc = true ∧ translate issued k0 k0.pc needEx = .at (lp 0) ∧ rowBusy issued (lp 0) = false ∧ landed issued 0 (lp 0) = true ∧
    idled 0 (runPair 0 (exec (.div 2 3 4) (fetchedIn issued k0))) = false ∧
    CleanRange issued (lp 0) 4 ∧ numberAt issued 0 4 = 0x048D0140 ∧ decodeWord 0x048D0140 = .ok (.div 2 3 4) := by
  and_intros <;> decide +kernel

/-- The same with a wait for a register that is empty, met in the very cycle. -/
def kempty : Strand := k0.setG 3 GReg.empty
def starved : State := { noteIssue (enterTurn 0 0 { fetching with turns := [], strands := [(0, kempty)] }) 0 0 0 with cur := some 0 }
def runsNothing (sid : Nat) (k : Strand) : Out → Bool
  | .next t => (match Tab.find t.strands sid with
    | some k' => k'.run.isNone || k.run.isSome
    | none => true)
  | _ => true

theorem wit_StepRunsTheDecodedInstruction_idled :
    readySlots (enterTurn 0 0 { fetching with turns := [], strands := [(0, kempty)] }) core0 = [0] ∧
    idled 0 (runPair 0 (exec (.div 2 3 4) (fetchedIn starved kempty))) = true ∧
    runsNothing 0 kempty (runPair 0 (exec (.div 2 3 4) (fetchedIn starved kempty))) = true ∧
    runsNothing 0 k0 (runPair 0 (exec (.div 2 3 4) (fetchedIn issued k0))) = true := by
  and_intros <;> decide +kernel

theorem wit_EveryStepAnswers : isWord (.strandRetire 0) = false ∧ fetchStep (.strandRetire 0) = false := by
  and_intros <;> decide +kernel

theorem wit_MemoryStaysCanonical : fetching.mem.wf = true ∧ ∃ t, step fetching = .next t := by
  have h : (match step fetching with | .next _ => true | _ => false) = true := by decide +kernel
  refine ⟨by decide +kernel, ?_⟩
  cases hs : step fetching with
  | next t => exact ⟨t, rfl⟩
  | fault f => rw [hs] at h; simp at h
  | refused r => rw [hs] at h; simp at h

theorem wit_MemoryReadsBack : (base.prot.poison.map (·.1)).Pairwise (· < ·) ∧ 4096 + 8 ≤ scratchBase ∧
    4096 ∈ unitsOf 4100 8 ∧ 4096 ∈ unitsOf 4104 3 := by and_intros <;> decide +kernel

/-! ### Hypotheses met: further clauses -/

/-- A member of a gang, with its own scratchpad in g5 and that of core 1 in g4. -/
def kgm : Strand := { k0 with gang := some ⟨9, 32769⟩ }

theorem wit_AtomicsReadAndWrite_claims : Issues (at0 k0) 0 k0 (.claim 0 6 5 1 0) [5, 1] [6] ∧ LocalAt (at0 k0) 0 k0 (k0.nat 5) 8 8 3 (lsp 256) ∧
    Issues (member 300 kgm) 0 kgm (.claim 0 6 5 1 0) [5, 1] [6] ∧ LocalAt (member 300 kgm) 0 kgm (kgm.nat 5) 8 8 3 (lsp 256) ∧
    (vccOf (member 300 kgm) kgm).isSome = true ∧ scratchBase ≤ (lsp 256).key ∧ CleanRange (member 300 kgm) (lsp 256) 8 := by
  and_intros <;> decide +kernel

/-- A line of another package, and one of this, in the cache of the cluster. -/
def farLine : Line := { lineAt base 4096 with base := 2 ^ 39 + 4096 }
def twoLines (k : Strand := k0) : State := { at0 k with caches := ⟨[(0, [lineAt base 4096, farLine])], []⟩ }
def fencedSys : Strand := { k0 with stall := .fence 4 }

theorem wit_FencesAndAdvice_sys : Issues (twoLines) 0 k0 (.fence 4) [] [] ∧ fenceClear (twoLines) 0 k0 4 = true ∧ k0.lost = [] ∧
    Tab.find (twoLines fencedSys).strands 0 = some fencedSys ∧ fencedSys.stall = .fence 4 ∧
    fenceClear (twoLines fencedSys) 0 fencedSys 4 = true ∧
    Tab.get (acquireSys (twoLines) 0).caches.lines 0 [] = [lineAt base 4096] ∧
    Issues (twoLines { k0 with lost := [1] }) 0 { k0 with lost := [1] } (.fence 4) [] [] ∧
    fenceClear (twoLines { k0 with lost := [1] }) 0 { k0 with lost := [1] } 4 = true := by and_intros <;> decide +kernel

/-- A kernel root, whose last units come home. -/
def rootedInner : Scope := { inner with units := 2 ^ 32 - 8, root := true, opener := 0 }

theorem wit_ScopeEvents_rootedInner : findScope (sharing rootedInner k0) 0 32769 = some rootedInner ∧ rootedInner.root = true ∧
    rootedInner.parent ≠ 0 ∧ rootedInner.units + 8 = 2 ^ 32 ∧
    Tab.find (sharing rootedInner k0).flights 7 = some (.share 0 32769 8 (sharing rootedInner k0).pkg) := by and_intros <;> decide +kernel

/-- A `WAITA` in the strand's own scratchpad has been woken. -/
def wakenedPad : State := { at0 k0 with sync := { base.sync with monitors := [⟨0, k0.nat 5, lsp 256, 6, 3, none, false, .byWakea⟩] } }

theorem wit_AddressWaits_pad : wokenWaita wakenedPad 0 = some ⟨0, k0.nat 5, lsp 256, 6, 3, none, false, .byWakea⟩ ∧
    isSpread (k0.nat 5) = true ∧ padDeferred wakenedPad k0 (k0.nat 5) = false ∧
    translate wakenedPad k0 (k0.nat 5) needRd = .at (lsp 256) ∧ (lsp 256).pkg = wakenedPad.pkg ∧ (lsp 256).die = dieOf k0.core ∧
    homeServes wakenedPad (dieOf k0.core) (lsp 256) 8 = true ∧ CleanRange wakenedPad (lsp 256) 8 := by and_intros <;> decide +kernel

/-- A pointer to core 1's scratchpad, from which two lanes are to be read. -/
def kvfar : Strand := { g kv 4 far with masks := kv.masks.set 1 ⟨BitVec.ofNat 128 0xFF, false, 0⟩ }
def farEls : List (Nat × Loc) := [0, 1].map fun j => (j, scratchLoc 0 (far + 4 * j))

theorem wit_VectorLoads_remote : vmemForm kvfar (.vld 4 4 1 6 0) = some (false, 4, 1, 6, 0, 4, [4], [], fun j => ((j * 4 : Nat) : Int)) ∧
    IssuesV (at0 kvfar) 0 kvfar (.vld 4 4 1 6 0) [4] [4] [] ∧ AllClean kvfar [4] ∧ CleanV kvfar [4] 1 ∧
    (∀ e ∈ farEls, cachedLine (at0 kvfar) (clusterOf kvfar.core) e.2.key 4 = none) ∧
    firstTrap (at0 kvfar) kvfar 0 1 4 (elementsRule kvfar 1 6 0 4 fun j => (j * 4 : Nat)) = none ∧ memBusy (at0 kvfar) 0 = false ∧
    placeElements (at0 kvfar) kvfar 0 1 (elementsRule kvfar 1 6 0 4 fun j => (j * 4 : Nat)) = .at farEls ∧
    farEls.all (fun e => elementReady (at0 kvfar) 0 kvfar 0 1 4 e.2) = true ∧ elementRoom (at0 kvfar) kvfar 1 farEls = true ∧
    vccOf (at0 kvfar) kvfar = none ∧ ∃ e ∈ farEls, remoteElement (at0 kvfar) kvfar e.2 = true :=
  ⟨rfl, by decide +kernel, by decide +kernel, by decide +kernel, by decide +kernel, by decide +kernel, by decide +kernel,
    by decide +kernel, by decide +kernel, by decide +kernel, by decide +kernel, (0, scratchLoc 0 far), by decide +kernel⟩

def vecBack : State := { at0 kv with flights := [(9, .vecRet 0 0 4 (ramp 5) none)] }

theorem wit_VectorLoads_return : Tab.find vecBack.flights 9 = some (.vecRet 0 0 4 (ramp 5) none) ∧ Tab.find vecBack.strands 0 = some kv ∧
    kv.gen = 0 ∧ (els 1 fun j => 4096 + 4 * j).all (fun e => !remoteElement sv kv e.2) = true := by and_intros <;> decide +kernel

/-- The named core has no operation, and cores 3 (of the pointer) and 1 have none before core 2. -/
def coreTwo (n : Nat) : State := { tableOf n (at0 k0) with cores := [(0, core0), (2, { core0 with dispatch := [mop .mma] })] }

theorem wit_MvuServesItsTable_later : (quadAt (coreTwo 1) 0).slotTable.getD 1 8 = 1 ∧ headReady (coreTwo 1) 1 = none ∧
    Tab.find (coreTwo 1).cores (0 * 4 + 2) = some { core0 with dispatch := [mop .mma] } ∧ 2 = (3 + 3) % 4 ∧
    (∀ j ∈ [1, 2], headReady (coreTwo 1) ((3 + j) % 4) = none) ∧ buffersReady (coreTwo 1) 0 0 = true ∧
    mvuTurn (coreTwo 1) 0 2 (mop .mma) = true ∧ (quadAt (coreTwo 8) 0).slotTable.getD 1 8 = 8 ∧ (mop .mma).kept = [] := by
  and_intros <;> decide +kernel

/-- A `COPY.T` whose descriptor's page has no leaf. -/
def kgone : Strand := ke 5120 (2 ^ 30) 8192 0

theorem wit_EngineCommandsIssue_noDescriptor : Issues (at0 kgone) 0 kgone (.copyT 0 1 6 4 7 8) [6, 4, 7, 8] [] ∧
    AllClean kgone [6, 4, 7, 8] ∧ EngineFree (at0 kgone) 0 kgone true 1 ∧ descRead (at0 kgone) 0 kgone (kgone.nat 7) = .fail ∧
    BarrierOk (at0 kgone) kgone (kgone.nat 8) := by and_intros <;> decide +kernel

def afterShort : EngineOp := { active with worst := .short }
def afterFrayed : EngineOp := { active with worst := .frayed }
def blind : EngineOp := { active with cut := some 2 }

theorem wit_EngineOperationsBegin_ends : (∀ o ∈ [afterShort, afterFrayed, blind], Tab.find (withOp o).ops 3 = some o ∧ o.state = .active ∧
      o.mode = none ∧ o.probe (withOp o) = .ok (lp 8192) bar0 ∧ o.stopping = false ∧ o.away = none) ∧
    afterShort.worst = .short ∧ afterFrayed.worst = .frayed ∧ blind.worst = .complete ∧ blind.cut = some 2 := by
  and_intros <;> decide +kernel

/-- A barrier in package 1, at which an arrival of this package's operation arrives. -/
def abroadBar : State := { twoPackages with
  mem := Memory.writeBytes [] (scratchLoc 0 (farther / 32 * 32)).key bar0.bytes
  links := { base.links with paths := [(1, ⟨.open, 0, 8⟩)] }
  flights := [(7, .arrival { arr with ptr := farther / 32 * 32 } false)] }

theorem wit_EngineArrivals_abroad : arrivalFirst abroadBar 7 3 = true ∧ (scratchLoc 0 (farther / 32 * 32)).pkg ≠ abroadBar.pkg ∧
    probeBar abroadBar 0 false none (farther / 32 * 32) = .ok (scratchLoc 0 (farther / 32 * 32)) bar0 := by and_intros <;> decide +kernel

def cutCopy : EngineOp := { going with cut := some 3 }

theorem wit_CopiesMoveBytesAndEnd_cut : Tab.find (withOp cutCopy).ops 3 = some cutCopy ∧ cutCopy.state = .active ∧ cutCopy.mode ≠ none ∧
    cutCopy.sel = none ∧ cutCopy.away = none ∧ cutCopy.cut = some 3 ∧ lineHeld (withOp going) (fun _ => true) 5120 64 = false ∧
    lineHeld (withOp scanned) (fun _ => true) 5120 (Sel.output sd scanned.found 0).length = false := by and_intros <;> decide +kernel

/-- An invalidation on its way to die 1, whose cluster 16 holds the line. -/
def invalidating : State := { fly (.stamped 0 1 0 [1, 0, 0, 0, 0, 0, 0, 0] ⟨4096, [], none⟩) with
  caches := ⟨[(16, [lineAt base 4096])], []⟩ }

theorem wit_MemorySystemEvents_lines : Tab.find invalidating.flights 9 = some (.stamped 0 1 0 [1, 0, 0, 0, 0, 0, 0, 0] ⟨4096, [], none⟩) ∧
    mayApply (appliedOf invalidating 1) 0 [1, 0, 0, 0, 0, 0, 0, 0] = true ∧
    lineHeld invalidating (fun c => c / 16 == 1) 4096 256 = true ∧ lineHeld base (fun _ => true) 4096 2 = false ∧ (4096 : Nat) < scratchBase ∧
    regionAwake base 7 = true ∧ bankAwake base (scratchBase + 64) = true ∧ base.prot.arrays = [] ∧ (∀ p ∈ base.strands, p.2.errs = []) := by
  and_intros <;> decide +kernel

/-- A walk that meets an absent page asks for it; its repair wakes the strand. -/
def absentWalk : State := withPage (pageIn 0) (at0 kwalk)
def repairingFor : State := { repairing (pageIn 0) with strands := [(0, kfaulted)] }

theorem wit_PageLife_asks : findPage absentWalk 0 4096 = some (0, pageIn 0) ∧ leafState (pageIn 0).leaf = 0 ∧
    Tab.find absentWalk.xlat.pages 0 = some (pageIn 0) ∧ 0 ∉ absentWalk.xlat.repairs ∧ absentWalk.flights = [] ∧
    Tab.find repairingFor.strands 0 = some kfaulted ∧ kfaulted.phase = .faultedOut 0 ∧
    findPage repairingFor 0 4096 = some (0, pageIn 0) ∧ 0 ∈ repairingFor.xlat.repairs := by and_intros <;> decide +kernel

/-- A page in migration with a word that cannot be corrected. -/
def hurtPage : State := { withPage (pageIn 2) with prot := { base.prot with damage := [(4096, .uncorrectable)] } }

theorem wit_PageLife_damage : hurtPage.prot.damage = [(4096, .uncorrectable)] ∧ leafFrame (pageIn 2).leaf ≤ 4096 ∧
    4096 < leafFrame (pageIn 2).leaf + leafSize (pageIn 2).leaf ∧ sharesFrame waitedPage 0 (pageIn 2).leaf = false ∧
    findPage hurtPage 0 4096 = some (0, pageIn 2) ∧ hurtPage.mem.wf = true ∧ shooting hurtPage 0 (pageVa 0) = false := by
  and_intros <;> decide +kernel

/-! ### Ill-formed terms, one for each check of the fields and of their values -/

/-- A field beyond its width (R62): every field of every format, and one of every word. -/
theorem test_fields_refused_1 : ([
    .add 16 0 0, .add 0 16 0, .add 0 0 16, .sub 16 0 0, .mul 16 0 0, .mulh 16 0 0, .mulhn 16 0 0, .div 16 0 0, .divn 16
    0 0, .rem 16 0 0, .remn 16 0 0, .and 16 0 0, .or 16 0 0, .xor 16 0 0, .andn 16 0 0, .orn 16 0 0, .shl 16 0 0, .shr
    16 0 0, .sha 16 0 0, .rot 16 0 0, .min 16 0 0, .max 16 0 0, .minn 16 0 0, .maxn 16 0 0, .clz 16 0, .clz 0 16, .ctz
    16 0, .popc 16 0, .brev 16 0, .sel 16 0 0 0, .sel 0 16 0 0, .sel 0 0 16 0, .sel 0 0 0 16, .mov 16 0, .addp 16 0 0,
    .cmp 16 0 0 0, .ext 16 0 0 0, .ext 0 16 0 0, .ext 0 0 64 0, .ext 0 0 0 64, .extn 16 0 0 0, .ins 16 0 0 0, .addi 16 0
    0, .addi 0 16 0, .addi 0 0 262144, .andi 16 0 0, .ori 16 0 0, .xori 16 0 0, .shli 16 0 0, .shli 0 16 0, .shli 0 0
    64, .shri 16 0 0, .shai 16 0 0, .lih 16 0, .lih 0 4194304, .cmpi 16 0 0 0, .cmpi 0 16 0 0, .cmpi 0 0 16 0, .cmpi 0 0
    0 16384, .fadd 16 0 0 0] : List Instr).all (fun i => !fits i && !i.wellFormed) = true := by
  decide +kernel

/-- A field beyond its width (R62): every field of every format, and one of every word. -/
theorem test_fields_refused_2 : ([
    .fadd 0 16 0 0, .fadd 0 0 16 0, .fadd 0 0 0 8, .fsub 16 0 0 0, .fmul 16 0 0 0, .ffma 16 0 0 0, .fmin 16 0 0, .fmax
    16 0 0, .fcmp 16 0 0 0, .fcvt 16 0 0 8 0 0, .fcvt 0 16 0 8 0 0, .fcvt 0 0 16 8 0 0, .fcvt 0 0 0 16 0 0, .fcvt 0 0 0
    8 16 0, .fcvt 0 0 0 8 0 8, .ld 16 0 0 0 0, .ld 0 16 0 0 0, .ld 0 0 4 0 0, .ld 0 0 0 4 0, .ld 0 0 0 0 16384, .ldN 16
    0 0 0 0, .st 16 0 0 0 0, .ldp 16 0 0 0 0, .stp 16 0 0 0 0, .amoAdd 4 0 0 0 0 0, .amoAdd 0 16 0 0 0 0, .amoAdd 0 0 16
    0 0 0, .amoAdd 0 0 0 16 0 0, .amoAdd 0 0 0 0 2 0, .amoAdd 0 0 0 0 0 8, .amoMin 4 0 0 0 0 0, .amoMax 4 0 0 0 0 0,
    .amoMinn 4 0 0 0 0 0, .amoMaxn 4 0 0 0 0 0, .amoAnd 4 0 0 0 0 0, .amoOr 4 0 0 0 0 0, .amoXor 4 0 0 0 0 0, .amoSwap 4
    0 0 0 0 0, .amoc 4 0 0 0 0 0 0, .amoc 0 16 0 0 0 0 0, .amoc 0 0 16 0 0 0 0, .amoc 0 0 0 16 0 0 0, .amoc 0 0 0 0 16 0
    0, .amoc 0 0 0 0 0 2 0, .amoc 0 0 0 0 0 0 8, .amof 4 0 0 0 0, .amof 0 16 0 0 0, .amof 0 0 16 0 0, .amof 0 0 0 16 0,
    .amof 0 0 0 0 8, .claim 4 0 0 0 0, .fence 8, .pref 16, .pgadv 16 0 0, .pgadv 0 16 0, .pgadv 0 0 16, .br 16 0 0, .br
    0 16 0, .br 0 0 262144, .jr 16 0] : List Instr).all (fun i => !fits i && !i.wellFormed) = true := by
  decide +kernel

/-- A field beyond its width (R62): every field of every format, and one of every word. -/
theorem test_fields_refused_3 : ([
    .jr 0 262144, .brc 16 0 0, .brc 0 16 0, .brc 0 0 262144, .jmp 67108864, .call 67108864, .fork 16 0, .fork 0 262144,
    .forkr 16 0, .forkr 0 16, .send 16 0 0 0 0, .send 0 16 0 0 0, .send 0 0 16 0 0, .send 0 0 0 16 0, .send 0 0 0 0 2,
    .self 16, .mode 16 0, .mode 0 65536, .empty 65536, .sopen 16 0 0 0, .sopen 0 2 0 0, .sopen 0 0 2 0, .sopen 0 0 0
    65536, .sclose 16, .scancel 16, .sinfo 16 0 0, .sinfo 0 16 0, .sinfo 0 0 256, .binitCount 16, .binitBytes 16,
    .binitLock 16, .bexpect 16 0, .bexpect 0 16, .barrive 16 0, .bwait 16 0, .btest 16 0, .lock 16 0, .unlock 16, .waita
    16 0 0, .wakea 16 0, .mend 65536, .mendb 16, .mendm 16, .fray 16 0, .fray 0 4, .vadd 32 0 0 0 0, .vadd 0 32 0 0 0,
    .vadd 0 0 32 0 0, .vadd 0 0 0 8 0, .vadd 0 0 0 0 16, .vsub 32 0 0 0 0, .vmul 32 0 0 0 0, .vmin 32 0 0 0 0, .vmax 32
    0 0 0 0, .vabs 32 0 0 0, .vabs 0 32 0 0, .vabs 0 0 8 0, .vabs 0 0 0 16, .vneg 32 0 0 0, .vfma 32 0 0 0 0] : List Instr).all (fun i => !fits i && !i.wellFormed) = true := by
  decide +kernel

/-- A field beyond its width (R62): every field of every format, and one of every word. -/
theorem test_fields_refused_4 : ([
    .vfms 32 0 0 0 0, .vand 32 0 0 0 0, .vor 32 0 0 0 0, .vxor 32 0 0 0 0, .vshl 32 0 0 0 0, .vshr 32 0 0 0 0, .vsha 32
    0 0 0 0, .vsel 32 0 0 0 0, .vcmp 8 0 0 0 0 0, .vcmp 0 32 0 0 0 0, .vcmp 0 0 32 0 0 0, .vcmp 0 0 0 8 0 0, .vcmp 0 0 0
    0 16 0, .vcmp 0 0 0 0 0 16, .vcvt 32 0 0 0 0 0, .vcvt 0 32 0 0 0 0, .vcvt 0 0 32 0 0 0, .vcvt 0 0 0 8 0 0, .vcvt 0 0
    0 0 16 0, .vcvt 0 0 0 0 0 16, .vlog2 32 0 0 0, .vexp2 32 0 0 0, .vrcp 32 0 0 0, .vrsq 32 0 0 0, .vsqrt 32 0 0 0,
    .vredSum 32 0 0 0, .vredMax 32 0 0 0, .vredMin 32 0 0 0, .vredMaxi 32 0 0 0, .vredMini 32 0 0 0, .vscanSum 32 0 0 0,
    .vscanMax 32 0 0 0, .vscanMin 32 0 0 0, .vperm 32 0 0 0 0, .vpermX2 32 0 0 0 0, .vshuf 32 0 0 0 0, .vbcast 32 0 0 0,
    .vbcast 0 16 0 0, .vbcast 0 0 8 0, .vbcast 0 0 0 16, .vmov 32 0 0 0, .vmovX2 32 0 0 0, .vmovX4 32 0 0 0, .vins 32 0
    0 0, .vins 0 16 0 0, .vins 0 0 16 0, .vins 0 0 0 16, .vext 16 0 0 0, .vext 0 32 0 0, .vext 0 0 16 0, .vext 0 0 0 16,
    .vld 32 0 0 0 0, .vld 0 16 0 0 0, .vld 0 0 8 0 0, .vld 0 0 0 16 0, .vld 0 0 0 0 4, .vst 32 0 0 0 0, .vstBnd 32 0 0 0
    0 0, .vstBnd 0 16 0 0 0 0, .vstBnd 0 0 16 0 0 0] : List Instr).all (fun i => !fits i && !i.wellFormed) = true := by
  decide +kernel

/-- A field beyond its width (R62): every field of every format, and one of every word. -/
theorem test_fields_refused_5 : ([
    .vstBnd 0 0 0 8 0 0, .vstBnd 0 0 0 0 16 0, .vstBnd 0 0 0 0 0 4, .vlds 32 0 0 0 0 0, .vsts 32 0 0 0 0 0, .vgath 32 0
    0 0 0 0, .vgath 0 16 0 0 0 0, .vgath 0 0 32 0 0 0, .vgath 0 0 0 8 0 0, .vgath 0 0 0 0 16 0, .vgath 0 0 0 0 0 4,
    .vscat 32 0 0 0 0 0, .kand 8 0 0, .kand 0 8 0, .kand 0 0 8, .kor 8 0 0, .kxor 8 0 0, .knot 8 0, .knot 0 8, .kmov 8
    0, .kmovG 8 0 0, .kmovG 0 16 0, .kmovG 0 0 16, .kmovLo 16 0, .kmovLo 0 8, .kmovHi 16 0, .kpop 16 0, .mma 32 0 0 0 0
    0, .mma 0 16 0 0 0 0, .mma 0 0 16 0 0 0, .mma 0 0 0 16 0 0, .mma 0 0 0 0 16 0, .mma 0 0 0 0 0 2, .mmas 32 0 0 0 0 0,
    .mmag 32 0 0 0 0 0 0, .mmag 0 16 0 0 0 0 0, .mmag 0 0 16 0 0 0 0, .mmag 0 0 0 16 0 0 0, .mmag 0 0 0 0 16 0 0, .mmag
    0 0 0 0 0 2 0, .mmag 0 0 0 0 0 0 16, .mxs 16 0 0 0, .mxs 0 16 0 0, .mxs 0 0 16 0, .mxs 0 0 0 16, .mzero 16, .mrd 4 0
    0 0, .mrd 0 16 0 0, .mrd 0 0 16 0, .mrd 0 0 0 32, .mwr 4 0 0 0, .ldt 16 0 0 0, .ldt 0 16 0 0, .ldt 0 0 16 0, .ldt 0
    0 0 2, .mslot 16, .copy 2 0 0 0 0 0, .copy 0 8 0 0 0 0, .copy 0 0 16 0 0 0, .copy 0 0 0 16 0 0] : List Instr).all (fun i => !fits i && !i.wellFormed) = true := by
  decide +kernel

/-- A field beyond its width (R62): every field of every format, and one of every word. -/
theorem test_fields_refused_6 : ([
    .copy 0 0 0 0 16 0, .copy 0 0 0 0 0 16, .copyT 2 0 0 0 0 0, .copyTag 2 0 0 0 0 0 0, .copyTag 0 8 0 0 0 0 0, .copyTag
    0 0 16 0 0 0 0, .copyTag 0 0 0 16 0 0 0, .copyTag 0 0 0 0 16 0 0, .copyTag 0 0 0 0 0 16 0, .copyTag 0 0 0 0 0 0 16,
    .selp 2 0 0, .selp 0 8 0, .selp 0 0 16, .selk 2 0 0, .selr 2 0 0, .trap 64, .bkpt 64, .time 16, .ctlr 16 0, .ctlr 0
    64, .ctlw 16 0, .ctlw 0 64, .bndset 16 0 0 0, .bndset 0 16 0 0, .bndset 0 0 4 0, .bndset 0 0 0 16, .gangEnter 16,
    .atVcc 16, .klaunch 16 0 0, .pair 1024 0, .pair 0 1024, .hintImm 16777216, .hintLat 65536, .hintMod 2 0 0, .hintMod
    0 2 0, .hintMod 0 0 8, .br 14 0 0, .fcvt 1 2 0 0 8 0] : List Instr).all (fun i => !fits i && !i.wellFormed) = true := by
  decide +kernel

/-- A value that the instruction does not accept (R80). -/
theorem test_values_refused_1 : ([
    .cmp 1 2 3 10, .cmpi 1 2 10 0, .br 10 1 0, .brc 15 1 0, .fcmp 1 2 3 6, .ext 1 2 63 1, .extn 1 2 63 1, .ins 1 2 63 1,
    .fadd 1 2 3 4, .fsub 1 2 3 4, .fmul 1 2 3 4, .ffma 1 2 3 4, .fcvt 1 2 0 1 8 0, .fcvt 1 2 0 8 4 0, .fcvt 1 2 0 8 8 0,
    .fcvt 1 2 0 2 3 0, .fcvt 1 2 0 9 8 5, .fcvt 1 2 3 9 8 0, .ld 1 2 3 3 10240, .ld 1 1 3 1 8, .ldN 1 2 3 0 0, .ldN 1 1
    2 2 8, .st 1 2 3 3 14336, .ldp 1 2 1 0 0, .ldp 15 2 3 0 0, .ldp 1 2 3 1 8, .stp 1 2 0 0 0, .stp 15 2 3 0 0, .stp 1 2
    3 3 10240, .amoAdd 0 1 2 3 0 1, .amoMin 0 1 2 3 0 1, .amoMax 0 1 2 3 0 1, .amoMinn 0 1 2 3 0 1, .amoMaxn 0 1 2 3 0
    1, .amoAnd 0 1 2 3 0 1, .amoOr 0 1 2 3 0 1, .amoXor 0 1 2 3 0 1, .amoSwap 0 1 2 3 0 1, .amoc 1 1 2 3 4 0 5, .amof 0
    1 2 3 1, .claim 1 1 2 3 7, .fence 5, .pgadv 1 2 6, .send 9 2 3 5 0, .sinfo 1 2 7, .vadd 1 2 3 0 11, .vsub 1 2 3 0
    11, .vmul 1 2 3 0 11, .vmin 1 2 3 0 11, .vmax 1 2 3 0 11, .vfma 1 2 3 0 11, .vfms 1 2 3 0 11, .vand 1 2 3 0 8, .vor
    1 2 3 0 8, .vxor 1 2 3 0 8, .vshl 1 2 3 0 8, .vshr 1 2 3 0 8, .vsha 1 2 3 0 8, .vabs 1 2 0 4, .vneg 1 2 0 7] : List Instr).all (fun i => fits i && !i.wellFormed) = true := by
  decide +kernel

/-- A value that the instruction does not accept (R80). -/
theorem test_values_refused_2 : ([
    .vsel 1 2 3 0 11, .vcmp 1 2 3 0 8 6, .vcmp 1 2 3 0 2 10, .vcvt 1 2 0 0 8 8, .vcvt 1 2 3 0 9 8, .vcvt 1 2 0 1 12 8,
    .vlog2 1 2 0 2, .vexp2 1 2 0 2, .vrcp 1 2 0 2, .vrsq 1 2 0 2, .vsqrt 1 2 0 2, .vredSum 1 2 0 11, .vredMax 1 2 0 11,
    .vredMin 1 2 0 11, .vredMaxi 1 2 0 11, .vredMini 1 2 0 11, .vscanSum 1 2 0 11, .vscanMax 1 2 0 11, .vscanMin 1 2 0
    11, .vperm 1 2 3 0 11, .vpermX2 1 31 3 0 2, .vshuf 1 2 3 0 11, .vbcast 1 2 0 11, .vmov 1 2 0 11, .vmovX2 31 2 0 2,
    .vmovX2 1 31 0 2, .vmovX4 29 2 0 2, .vmovX4 1 29 0 2, .vins 1 2 3 11, .vext 1 2 3 11, .vld 1 2 0 11 0, .vld 1 2 0 2
    3, .vst 1 2 0 2 3, .vstBnd 1 2 3 0 2 0, .vstBnd 1 2 3 0 8 3, .vlds 1 2 3 0 2 3, .vsts 1 2 3 0 2 3, .vgath 1 2 3 0 0
    0, .vscat 1 2 3 0 0 0, .vgath 1 2 3 0 2 3, .vscat 1 2 3 0 2 3, .mma 24 9 1 2 3 0, .mma 0 8 1 2 3 0, .mmas 24 9 1 2 3
    0, .mmas 0 2 1 2 3 0, .mmag 24 9 1 2 3 0 0, .mmag 0 0 1 2 3 0 0, .mrd 1 0 1 31, .mwr 3 0 1 25, .ldt 0 1 2 0, .ldt 11
    1 2 0, .copy 0 5 1 2 3 4, .copyT 0 6 1 2 3 4, .copyTag 0 7 1 2 3 4 5, .selp 0 5 1, .selk 0 5 1, .selr 0 5 1, .ctlr 1
    10, .ctlr 1 15, .ctlw 1 12] : List Instr).all (fun i => fits i && !i.wellFormed) = true := by
  decide +kernel

/-- A value that the instruction does not accept (R80). -/
theorem test_values_refused_3 : ([
    .bndset 1 2 3 0, .hintMod 0 0 1] : List Instr).all (fun i => fits i && !i.wellFormed) = true := by
  decide +kernel

/-! ### Words of the encoding tables: each decodes to its instruction and is encoded back -/

def agree (ps : List (Nat × Instr)) : Bool :=
  ps.all fun p => decide (decodeWord p.1 = .ok p.2) && encode p.2 == [p.1]

/-- Integer register operations (Tables 04-4, 04-5). -/
theorem test_words_1 : agree [
    (0x04678000, .add 1 9 14), (0x04A78040, .sub 2 9 14), (0x04E78080, .mul 3 9 14), (0x052780C0, .mulh 4 9 14),
    (0x05678100, .mulhn 5 9 14), (0x05A78140, .div 6 9 14), (0x05E78180, .divn 7 9 14), (0x046781C0, .rem 1 9 14),
    (0x04A78200, .remn 2 9 14), (0x04E78400, .and 3 9 14), (0x05278440, .or 4 9 14), (0x05678480, .xor 5 9 14),
    (0x05A784C0, .andn 6 9 14), (0x05E78500, .orn 7 9 14), (0x04678600, .shl 1 9 14), (0x04A78640, .shr 2 9 14),
    (0x04E78680, .sha 3 9 14), (0x052786C0, .rot 4 9 14), (0x05678800, .min 5 9 14), (0x05A78840, .max 6 9 14),
    (0x05E78880, .minn 7 9 14), (0x046788C0, .maxn 1 9 14), (0x04A78C80, .addp 2 9 14), (0x05AC0A00, .clz 6 11),
    (0x05AC0A40, .ctz 6 11), (0x05AC0A80, .popc 6 11), (0x05AC0AC0, .brev 6 11), (0x05AC0C40, .mov 6 11), (0x0559CC08,
    .sel 5 6 7 8), (0x0448CE06, .cmp 1 2 3 6), (0x095800C8, .ext 5 6 3 8), (0x095900C8, .extn 5 6 3 8), (0x095A00C8,
    .ins 5 6 3 8), (0x10B7FFFB, .addi 2 13 262139), (0x14B7FFFB, .andi 2 13 262139), (0x18B7FFFB, .ori 2 13 262139),
    (0x1CB7FFFB, .xori 2 13 262139), (0x20B40025, .shli 2 13 37), (0x20B50025, .shri 2 13 37), (0x20B60025, .shai 2 13
    37), (0x24C48D16, .lih 3 298262), (0x29E1EFFF, .cmpi 7 8 7 12287)] = true := by
  decide +kernel

/-- Scalar floating point (R69). -/
theorem test_words_2 : agree [
    (0x2C48C001, .fadd 1 2 3 1), (0x2C48C041, .fsub 1 2 3 1), (0x2C48C081, .fmul 1 2 3 1), (0x2C48C0C1, .ffma 1 2 3 1),
    (0x2C48C100, .fmin 1 2 3), (0x2C48C140, .fmax 1 2 3), (0x2C48C184, .fcmp 1 2 3 4), (0x2D140A00, .fcvt 4 5 0 2 8 0),
    (0x2D15A684, .fcvt 4 5 6 9 10 4)] = true := by
  decide +kernel

/-- Scalar memory (R70). -/
theorem test_words_3 : agree [
    (0x41530010, .ld 5 4 3 0 16), (0x45E18001, .ldN 7 8 1 2 1), (0x484BD810, .st 1 2 3 3 6160), (0x4C9B4010, .ldp 2 6 3
    1 16), (0x509A3FF8, .stp 2 6 2 0 16376)] = true := by
  decide +kernel

/-- Atomics, claims, fences, prefetch, advice (R71). -/
theorem test_words_4 : agree [
    (0x5505670A, .amoAdd 1 5 6 7 1 2), (0x5515670A, .amoMin 1 5 6 7 1 2), (0x5525670A, .amoMax 1 5 6 7 1 2),
    (0x5535670A, .amoMinn 1 5 6 7 1 2), (0x5545670A, .amoMaxn 1 5 6 7 1 2), (0x5555670A, .amoAnd 1 5 6 7 1 2),
    (0x5565670A, .amoOr 1 5 6 7 1 2), (0x5575670A, .amoXor 1 5 6 7 1 2), (0x5585670A, .amoSwap 1 5 6 7 1 2),
    (0x5795678B, .amoc 3 5 6 7 8 1 3), (0x56A56704, .amof 2 5 6 7 4), (0x54B56708, .claim 0 5 6 7 0), (0x54F00004,
    .fence 4), (0x54F06010, .pref 6), (0x54F04523, .pgadv 4 5 3)] = true := by
  decide +kernel

/-- Control (R72). -/
theorem test_words_5 : agree [
    (0x624FFFFE, .br 9 3 262142), (0x63BC0000, .jr 15 0), (0x6443FFFF, .brc 1 0 262143), (0x6BFFFFFF, .jmp 67108863),
    (0x6C000005, .call 5)] = true := by
  decide +kernel

/-- Strands and scopes (Tables 04-7, 07-6). -/
theorem test_words_6 : agree [
    (0x72000005, .fork 8 5), (0x7204C000, .forkr 8 3), (0x70080000, .exit), (0x700C0000, .yield), (0x72508D60, .send 9 2
    3 5 1), (0x70108D40, .send 0 2 3 5 0), (0x71140000, .self 4), (0x70180030, .mode 0 48), (0x701C0030, .empty 48),
    (0x75C20003, .sopen 7 1 0 3), (0x75C10003, .sopen 7 0 1 3), (0x76840000, .sclose 10), (0x7409C000, .scancel 7),
    (0x740C0000, .succeed), (0x74100000, .shield), (0x74140000, .unshield), (0x74180000, .cpt), (0x755DC000, .sinfo 5 7
    0)] = true := by
  decide +kernel

/-- Barriers, locks, waits (Table 08-5) and frays (Table 04-7). -/
theorem test_words_7 : agree [
    (0x782C0000, .binitCount 11), (0x782C0040, .binitBytes 11), (0x782C0080, .binitLock 11), (0x782F8200, .bexpect 11
    14), (0x782F0240, .barrive 11 12), (0x796C0400, .bwait 5 11), (0x796C0440, .btest 5 11), (0x796C0600, .lock 5 11),
    (0x782C0640, .unlock 11), (0x796F8800, .waita 5 11 14), (0x782F8840, .wakea 11 14), (0x7C008001, .mend 32769),
    (0x7C064000, .mendb 9), (0x7C0A4000, .mendm 9), (0x7C0E6000, .fray 9 2)] = true := by
  decide +kernel

/-- Vectors (Table 04-8, 11-5). -/
theorem test_words_8 : agree [
    (0x82329D20, .vadd 17 18 19 5 2), (0x82329D21, .vsub 17 18 19 5 2), (0x82329D22, .vmul 17 18 19 5 2), (0x82329D23,
    .vmin 17 18 19 5 2), (0x82329D24, .vmax 17 18 19 5 2), (0x86329D20, .vfma 17 18 19 5 2), (0x86329D21, .vfms 17 18 19
    5 2), (0x8A329D20, .vand 17 18 19 5 2), (0x8A329D21, .vor 17 18 19 5 2), (0x8A329D22, .vxor 17 18 19 5 2),
    (0x8A329D23, .vshl 17 18 19 5 2), (0x8A329D24, .vshr 17 18 19 5 2), (0x8A329D25, .vsha 17 18 19 5 2), (0x8A329D26,
    .vsel 17 18 19 5 2), (0x82320525, .vabs 17 18 5 2), (0x82320526, .vneg 17 18 5 2), (0x8C463882, .vcmp 2 6 7 0 8 2),
    (0x91090098, .vcvt 8 9 0 0 9 8), (0x910950C8, .vcvt 8 9 10 0 12 8), (0x94850380, .vlog2 4 5 3 8), (0x94850381,
    .vexp2 4 5 3 8), (0x94850382, .vrcp 4 5 3 8), (0x94850383, .vrsq 4 5 3 8), (0x94850384, .vsqrt 4 5 3 8),
    (0x994B0180, .vredSum 10 11 1 8), (0x994B0181, .vredMax 10 11 1 8), (0x994B0182, .vredMin 10 11 1 8), (0x994B0183,
    .vredMaxi 10 11 1 8), (0x994B0184, .vredMini 10 11 1 8), (0x994B0188, .vscanSum 10 11 1 8), (0x994B0189, .vscanMax
    10 11 1 8), (0x994B018A, .vscanMin 10 11 1 8), (0x9D4C7120, .vperm 10 12 14 1 2), (0x9D4C7121, .vpermX2 10 12 14 1
    2), (0x9D4C7122, .vshuf 10 12 14 1 2), (0x9C470023, .vbcast 2 7 0 2), (0x9E980124, .vmov 20 24 1 2), (0x9E980125,
    .vmovX2 20 24 1 2), (0x9E980126, .vmovX4 20 24 1 2), (0x9EA74827, .vins 21 7 9 2), (0x9CAA3088, .vext 5 10 6 8)] = true := by
  decide +kernel

/-- Vector memory and masks (R75, R76). -/
theorem test_words_9 : agree [
    (0xA1840080, .vld 12 4 0 8 0), (0xA1840383, .vst 12 4 3 8 1), (0xA184188D, .vstBnd 12 4 3 0 8 2), (0xA5844B24, .vlds
    12 4 9 3 2 2), (0xA5844B25, .vsts 12 4 9 3 2 2), (0xA8221880, .vgath 1 2 3 0 8 0), (0xA8221883, .vscat 1 2 3 0 8 1),
    (0xAC221800, .kand 1 2 3), (0xAC221801, .kor 1 2 3), (0xAC221802, .kxor 1 2 3), (0xAC220003, .knot 1 2),
    (0xAC220004, .kmov 1 2), (0xAC2C6805, .kmovG 1 12 13), (0xAD820006, .kmovLo 12 2), (0xAD820007, .kmovHi 12 2),
    (0xACA10008, .kpop 5 1)] = true := by
  decide +kernel

/-- Matrix, engines, system, gangs, hints (R77 to R82, R88). -/
theorem test_words_10 : agree [
    (0xB0B268D0, .mma 5 9 3 4 6 1), (0xB4B268C0, .mmas 5 9 3 4 6 0), (0xB8B268D7, .mmag 5 9 3 4 6 1 7), (0xBC0068C9,
    .mxs 3 4 6 9), (0xC0006000, .mzero 3), (0xC0246818, .mrd 2 3 4 24), (0xC0426818, .mwr 1 3 4 24), (0xC07208C1, .ldt 9
    4 6 1), (0xC0800800, .mslot 4), (0xCACCDEB0, .copy 1 3 12 13 14 11), (0xC91CDEB0, .copyT 0 4 12 13 14 11),
    (0xC8ECDEB9, .copyTag 0 3 12 13 14 11 9), (0xCE807000, .selp 1 2 7), (0xCE907000, .selk 1 2 7), (0xCEA07000, .selr 1
    2 7), (0xE8000000, .nop), (0xE8000045, .trap 5), (0xE80000BF, .bkpt 63), (0xE9C00200, .time 7), (0xEB800243, .ctlr
    14 3), (0xE81C0285, .ctlw 7 5), (0xE80002C0, .snap), (0xE8114413, .bndset 4 5 1 3), (0xE8100600, .gangEnter 4),
    (0xE8000640, .gangExit), (0xE8180680, .atVcc 6), (0xE959C800, .klaunch 5 6 7), (0xFC9E26AF, .hintImm 10364591),
    (0xFD001234, .hintLat 4660), (0xFD40000C, .hintMod 0 1 4), (0xFD400100, .hintMod 1 0 0), (0xF8030140, .pair 3 5)] = true := by
  decide +kernel

/-! ### Single steps, with results from the spec's examples and tables -/

/-- The strand after an instruction. -/
def strandAfter (k : Strand) (i : Instr) (s : State := at0 k) : Strand := match exec i s with
  | .next t => Tab.get t.strands 0 k
  | _ => k
/-- A register after an instruction. -/
def regAfter (k : Strand) (i : Instr) (r : Nat) : Nat := ((strandAfter k i).g r).val.toNat
/-- A byte after an instruction. -/
def byteAfter (i : Instr) (a : Nat) (s : State) : Nat := match exec i s with
  | .next t => (t.mem.read a).toNat
  | _ => 256
/-- A strand with g6 and g7. -/
def k67 (x y : Nat) : Strand := g (g k0 6 x) 7 y

-- R100
theorem test_add_wraps : regAfter (k67 (2 ^ 64 - 1) 2) (.add 6 6 7) 6 = 1 := by decide +kernel
theorem test_sub_wraps : regAfter (k67 0 1) (.sub 3 6 7) 3 = 2 ^ 64 - 1 := by decide +kernel
theorem test_mulh_signed : regAfter (k67 (2 ^ 64 - 1) 5) (.mulh 3 6 7) 3 = 2 ^ 64 - 1 := by decide +kernel
theorem test_mulhn_unsigned : regAfter (k67 (2 ^ 64 - 1) 5) (.mulhn 3 6 7) 3 = 4 := by decide +kernel
-- R101: division by zero and the overflow of the signed quotient
theorem test_div_by_zero : regAfter (k67 9 0) (.div 3 6 7) 3 = 0xFFFFFFFFFFFFFFFF := by decide +kernel
theorem test_div_overflow : regAfter (k67 (2 ^ 63) (2 ^ 64 - 1)) (.div 3 6 7) 3 = 2 ^ 63 := by decide +kernel
theorem test_rem_overflow : regAfter (k67 (2 ^ 63) (2 ^ 64 - 1)) (.rem 3 6 7) 3 = 0 := by decide +kernel
theorem test_div_truncates : regAfter (k67 (2 ^ 64 - 7) 2) (.div 3 6 7) 3 = 2 ^ 64 - 3 := by decide +kernel
theorem test_sha_keeps_sign : regAfter (k67 (2 ^ 63) 63) (.sha 3 6 7) 3 = 2 ^ 64 - 1 := by decide +kernel
theorem test_ext_signs : regAfter (k67 0x8F0 0) (.ext 3 6 7 4) 3 = 2 ^ 64 - 113 := by decide +kernel
theorem test_cmp_unsigned : regAfter (k67 1 (2 ^ 64 - 1)) (.cmp 3 6 7 6) 3 = 1 := by decide +kernel
theorem test_cmp_signed : regAfter (k67 1 (2 ^ 64 - 1)) (.cmp 3 6 7 2) 3 = 0 := by decide +kernel
-- the worked example of a 64-bit constant in 04_encoding.md
theorem test_lih : regAfter k0 (.lih 3 0x48D16) 3 = 0x1234580000000000 := by decide +kernel
theorem test_addi_extended : regAfter { g k0 3 0x1234580000000000 with run := some ⟨0, some 0x9E26AF, none, none⟩ }
    (.addi 3 3 0x0DEF0) 3 = 0x123456789ABCDEF0 := by decide +kernel
-- R104's example of the spread carry
theorem test_addp_carries : regAfter (k67 0xE0000000001FFFF0 0x20) (.addp 3 6 7) 3 = 0xE000000000200010 := by decide +kernel
-- R41, R45: 1 + 2^-24 rounds to even; -1.5 to I32 toward zero
theorem test_fadd_tie : regAfter (k67 0x3F800000 0x33800000) (.fadd 3 6 7 0) 3 = 0x3F800000 := by decide +kernel
theorem test_fadd_inexact : (strandAfter (k67 0x3F800000 0x33800000) (.fadd 3 6 7 0)).st.ff = 1 := by decide +kernel
theorem test_fcvt_rtz : regAfter (k67 0xBFC00000 0) (.fcvt 3 6 0 2 8 1) 3 % 2 ^ 32 = 2 ^ 32 - 1 := by decide +kernel
-- R98
theorem test_fray_spreads : ((strandAfter kf (.add 3 2 1)).g 3).fray = true ∧ (strandAfter kf (.add 3 2 1)).st.t = true := by
  decide +kernel
-- R61: memory is little-endian; R109: a pair of words
theorem test_store_little_endian : byteAfter (.st 2 4 1 0 2) 4098 (at0 (g k0 2 0x1234)) = 0x34 := by decide +kernel
theorem test_stp_second : byteAfter (.stp 6 4 2 0 0) 4100 (at0 (k67 0 0xAB)) = 0xAB := by decide +kernel
theorem test_load_pending : ((strandAfter k0 (.ld 6 4 3 0 8)).g 6).pend = true := by decide +kernel
theorem test_load_post_increment : regAfter k0 (.ld 6 4 3 1 16) 4 = 4112 := by decide +kernel
theorem test_misaligned_traps : (strandAfter k0 (.ld 6 4 3 0 1)).st.ec = 4 := by decide +kernel
-- R118 to R120: offsets count words from the word's own address
theorem test_branch_back : (strandAfter { k0 with pc := 64 } (.br 1 1 0x3FFFF)).pc = 60 := by decide +kernel
theorem test_call_links : regAfter { k0 with pc := 64 } (.call 5) 15 = 68 := by decide +kernel
theorem test_brc_counts : (strandAfter { g k0 1 1 with pc := 64 } (.brc 1 1 4)).pc = 68 := by decide +kernel
-- Table 01-3: the shares after an SOPEN, and a half handed on by FORK
theorem test_sopen_share : (strandAfter k0 (.sopen 7 0 0 3)).share = 31 := by decide +kernel
theorem test_fork_halves : (strandAfter k0 (.fork 8 5)).share = 19 := by decide +kernel
theorem test_sinfo_state : regAfter (g k0 7 32769) (.sinfo 5 7 0) 5 = 0 := by decide +kernel
-- Table 11-4: the saturating masked add
/-- The strand of the worked example in 11_vector.md. -/
def kSat : Strand := ((({ k0 with run := some ⟨0, none, none, some 0x100⟩ }).setV 1
  ⟨BitVec.ofNat 1024 (30000 + (65536 - 30000) * 2 ^ 16 + 100 * 2 ^ 32 + 65531 * 2 ^ 48), 0, 0⟩).setV 2
  ⟨BitVec.ofNat 1024 (5000 + (65536 - 5000) * 2 ^ 16 + 200 * 2 ^ 32 + 7 * 2 ^ 48 + 9 * 2 ^ 80), 2, 1⟩).setV 0
  ⟨BitVec.ofNat 1024 (0x1111 * ((2 ^ 1024 - 1) / 65535)), 0, 0⟩ |>.setM 2 ⟨0x415, false, 0⟩
theorem test_vadd_saturates : ((strandAfter kSat (.vadd 0 1 2 2 1)).v 0).data.toNat % 2 ^ 96 = 0x0009_1111_1111_012C_8000_7FFF := by
  decide +kernel
theorem test_vadd_frays : ((strandAfter kSat (.vadd 0 1 2 2 1)).v 0).fray = 2 ∧ ((strandAfter kSat (.vadd 0 1 2 2 1)).v 0).code = 1 := by
  decide +kernel
-- Table 03-7: the worked SX4 block, and R52's example of a scale
/-- The sixteen values of the worked example, and zeros. -/
def sxIn : List Nat := [0x40D00000, 0xBFA66666, 0x40400000, 0x3F333333, 0x4079999A, 0xC07CCCCD, 0, 0x80000000, 0x40A00000,
  0x40000000, 0x3E000000, 0x3DCCCCCD, 0x3F800000, 0x3F800000, 0xC0100000, 0x3EC00000]
def kSx : Strand := k0.setV 9 ⟨BitVec.ofNat 1024 (packLanes 32 32 fun i => sxIn.getD i 0), 0, 0⟩
theorem test_sx4_block : ((strandAfter kSx (.vcvt 8 9 0 0 12 8)).v 8).data.toNat % 2 ^ 96 = 0x16484000_8A803EF0_9A6D4481 := by
  decide +kernel
-- R92: a trap saves its word's address and its cause
theorem test_trap_without_entry : (strandAfter { k0 with pc := 64, st := { k0.st with sd := 1 } } (.trap 5)).ep = 64 ∧
    (strandAfter { k0 with pc := 64, st := { k0.st with sd := 1 } } (.trap 5)).st.ec = 8 := by decide +kernel
theorem test_ctlr_share : regAfter k0 (.ctlr 6 4) 6 = 20 := by decide +kernel
theorem test_mode_returns_old : regAfter { k0 with st := { k0.st with mode := 7 } } (.mode 3 0x30) 3 = 7 := by decide +kernel
theorem test_time_counts_nanoseconds : ((match exec (.time 6) { at0 k0 with cycle := 25 } with
  | .next t => (Tab.get t.strands 0 k0).g 6
  | _ => k0.g 6).val.toNat) = 10 := by decide +kernel
theorem test_hint_advances : (strandAfter k0 (.hintImm 5)).pc = 4 := by decide +kernel
theorem test_mend_cleans : ((strandAfter kf (.mend 2)).g 1).fray = false := by decide +kernel
-- R204: a value that differs comes back at once; Table 08-6: steps 1 and 2
theorem test_waita_differs : regAfter (k67 4096 1) (.waita 5 6 7) 5 = 0 := by decide +kernel
theorem test_bexpect_arms : byteAfter (.bexpect 6 7) (4096 + 28) (match exec (.binitCount 6) (at0 (k67 4096 3)) with
  | .next t => t
  | _ => base) = 1 := by decide +kernel
theorem test_mzero_queues : (match exec (.mzero 3) (at0 k0) with
  | .next t => ((Tab.find t.cores 0).map fun c => c.dispatch.length).getD 0
  | _ => 0) = 1 := by decide +kernel
-- a reset package does not answer its firmware's commands
theorem test_reset_has_no_firmware : (match exec (.define 1 0) State.reset with
  | .next t => decide (t = State.reset)
  | _ => false) = true := by decide +kernel

-- Table 06-5: the control block of a strand at pc 64 with share exponent 20 in scope 32769, g1 frayed with code 2
theorem test_migration_message : (({ kf with pc := 64 } : Strand).message.drop 16).getD 0 0 = 0x20 ∧
    (({ kf with pc := 64 } : Strand).message.drop 16).getD 1 0 = 0x0000800155555559 ∧
    (({ kf with pc := 64 } : Strand).message.drop 16).getD 3 0 = 66 ∧
    ({ kf with pc := 64 } : Strand).message.take 4 = [0, 3, 5, 0] := by decide +kernel
-- Table 06-6
theorem test_spawn_record : leNat (Spawn.bytes { spawn0 with frays := [none, some 2, none, none] }) =
    0x400 + 2 ^ 64 + 2 * 2 ^ 128 + 3 * 2 ^ 192 + 4 * 2 ^ 256 + 2 ^ 35 * 2 ^ 320 + 32769 * 2 ^ 384 + 5 * 2 ^ 416 + 2 * 2 ^ 424 +
      0x20 * 2 ^ 432 := by decide +kernel
-- R109, R113: a word pair is one access, so the fray of one register of it stays with the unit
theorem test_stp_keeps_fray : (match exec (.stp 1 4 2 0 0) (at0 kf) with
  | .next t => Tab.find t.prot.poison 4096
  | _ => none) = some 2 := by decide +kernel
-- R362: the overrun count follows the ring in the fray log's window
theorem test_log_overrun_reads : logByte { base with sys := { base.sys with logOverrun := 0x0305 } } (2 ^ 21 + 1) = 3 := by
  decide +kernel
end Sys2Proof.Tests
end

section
/-! Taking a trap (R91, R92). -/

namespace Sys2Proof.Machine

/-! ### The address of a unit's first word -/

theorem Strand.unitPc_of_run {k : Strand} {r : Run} (h : k.run = some r) : k.unitPc = r.first := by
  simp [Strand.unitPc, h]

theorem Strand.unitPc_of_no_run {k : Strand} (h : k.run = none) : k.unitPc = k.pc := by
  simp [Strand.unitPc, h]

/-! ### The strand in its handler -/

/-- The strand as a usable entry `tv` receives it (R92): st.EC and ep saved, its unit over, and the entry the next word. -/
def Strand.enterHandler (k : Strand) (cause tv : Nat) : Strand :=
  { (k.saveTrap cause).endUnit with eager := k.count, pair := [], pc := tv }

theorem trap_eq_enterHandler {s : State} {sid : Nat} {k : Strand} {tv : Nat} (cause : Nat)
    (hk : Tab.find s.strands sid = some k) (he : trapEntry s k = some tv)
    (hf : fetchSegOk (segsOf s k.ctx k.core) tv = true) :
    trap s sid cause = s.putStrand sid (k.enterHandler cause tv) := trap_usable hk he hf

@[simp] theorem Strand.enterHandler_pc (k : Strand) (cause tv : Nat) : (k.enterHandler cause tv).pc = tv := rfl

@[simp] theorem Strand.enterHandler_st (k : Strand) (cause tv : Nat) :
    (k.enterHandler cause tv).st = { k.st with ec := BitVec.ofNat 8 cause } := rfl

@[simp] theorem Strand.enterHandler_ep (k : Strand) (cause tv : Nat) :
    (k.enterHandler cause tv).ep = k.unitPc := rfl

/-- What the handler finds as the program left it: registers, scope, share, phase, messages and the record of scopes
opened; of the unit that trapped nothing is left. -/
theorem Strand.enterHandler_keeps (k : Strand) (cause tv : Nat) :
    let h := k.enterHandler cause tv
    h.regs = k.regs ∧ h.vregs = k.vregs ∧ h.masks = k.masks ∧ h.sc = k.sc ∧ h.share = k.share ∧
      h.phase = k.phase ∧ h.run = none ∧ h.pair = [] ∧ h.mail = k.mail ∧ h.opened = k.opened := by
  and_intros <;> rfl

end Sys2Proof.Machine

namespace Sys2Proof.Settled
open Sys2Proof.Machine

/-- Settles O38: the strand in its handler is the witness, and its ep depends on whether hints stood before the trapping
word. -/
theorem trapEntry : Obligations.TrapEntry := by
  unfold Obligations.TrapEntry
  intro s sid cause k entry hk he hf
  refine ⟨k.enterHandler cause entry, trap_eq_enterHandler cause hk he hf, k.enterHandler_pc cause entry,
    k.enterHandler_st cause entry, ?ofRun, ?noRun, k.enterHandler_keeps cause entry⟩
  case ofRun =>
    intro r hr
    rw [Strand.enterHandler_ep, Strand.unitPc_of_run hr]
  case noRun =>
    intro hr
    rw [Strand.enterHandler_ep, Strand.unitPc_of_no_run hr]

end Sys2Proof.Settled
end

section
/-! Integer results (R100 to R104): each operation on words is its row's result in plain integers, modulo 2^64. -/

namespace Sys2Proof

/-! ### Bit counts as counts of positions -/

theorem popCount_eq_countP (n x : Nat) : popCount n x = (List.range n).countP fun j => x.testBit j := by
  induction n generalizing x with
  | zero => rfl
  | succ n ih =>
    have hrest : ((fun j => x.testBit j) ∘ Nat.succ) = fun j => (x / 2).testBit j := funext fun j => Nat.testBit_succ x j
    rw [popCount, ih, List.range_succ_eq_map, List.countP_cons, List.countP_map, hrest, Nat.testBit_zero]
    rcases Nat.mod_two_eq_zero_or_one x with h | h <;> simp [h, Nat.add_comm]

theorem trailingZeros_eq_length (n x : Nat) :
    trailingZeros n x = ((List.range n).takeWhile fun j => !x.testBit j).length := by
  induction n generalizing x with
  | zero => rfl
  | succ n ih =>
    have hrest : ((fun j => !x.testBit j) ∘ Nat.succ) = fun j => !(x / 2).testBit j :=
      funext fun j => congrArg (!·) (Nat.testBit_succ x j)
    rw [trailingZeros, ih, List.range_succ_eq_map, List.takeWhile_cons, List.takeWhile_map, hrest, Nat.testBit_zero]
    rcases Nat.mod_two_eq_zero_or_one x with h | h <;> simp [h, Nat.add_comm]

theorem bitLength_le_iff (x n : Nat) : bitLength x ≤ n ↔ x < 2 ^ n := by
  unfold bitLength
  split
  case isTrue h => simp [h]
  case isFalse h => rw [Nat.succ_le_iff, Nat.log2_lt h]

/-- The zeros above the top one bit, among the low `n` bits, counted from bit n - 1 downwards. -/
theorem sub_bitLength_eq_length (n x : Nat) (hx : x < 2 ^ n) :
    n - bitLength x = ((List.range n).takeWhile fun j => !x.testBit (n - 1 - j)).length := by
  induction n with
  | zero => simp
  | succ n ih =>
    have hrest : ((fun j => !x.testBit (n + 1 - 1 - j)) ∘ Nat.succ) = fun j => !x.testBit (n - 1 - j) := by
      funext j
      rw [Function.comp_apply, show n + 1 - 1 - j.succ = n - 1 - j by omega]
    rw [List.range_succ_eq_map, List.takeWhile_cons, List.takeWhile_map, hrest]
    by_cases hlow : x < 2 ^ n
    · have hbit : x.testBit n = false := Nat.testBit_lt_two_pow hlow
      have hlen : bitLength x ≤ n := (bitLength_le_iff x n).2 hlow
      simp [hbit, ← ih hlow, Nat.succ_sub hlen]
    · have hbit : x.testBit n = true := Nat.testBit_of_two_pow_le_and_two_pow_add_one_gt (by omega) hx
      have hlen : ¬ bitLength x ≤ n := fun h => hlow ((bitLength_le_iff x n).1 h)
      have hzero : n + 1 - bitLength x = 0 := by omega
      simp [hbit, hzero]

theorem bitReverse_lt (n x : Nat) : bitReverse n x < 2 ^ n := by
  induction n generalizing x with
  | zero => exact Nat.one_pos
  | succ n ih =>
    have hrest := ih (x / 2)
    have htop : x % 2 * 2 ^ n ≤ 1 * 2 ^ n := Nat.mul_le_mul_right _ (by omega)
    rw [bitReverse, Nat.pow_succ]
    omega

theorem testBit_bitReverse (n x j : Nat) :
    (bitReverse n x).testBit j = (decide (j < n) && x.testBit (n - 1 - j)) := by
  induction n generalizing x j with
  | zero => simp [bitReverse]
  | succ n ih =>
    rw [bitReverse, Nat.mul_comm, Nat.testBit_two_pow_mul_add _ (bitReverse_lt n _)]
    by_cases hj : j < n
    · rw [if_pos hj, ih, ← Nat.testBit_succ, show (n - 1 - j).succ = n + 1 - 1 - j by omega]
      simp [hj, Nat.lt_succ_of_lt hj]
    · rw [if_neg hj]
      by_cases htop : j = n
      · simp [htop]
      · have hout : (x % 2).testBit (j - n) = false :=
          Nat.testBit_lt_two_pow (Nat.lt_of_lt_of_le (Nat.mod_lt x (by decide)) (Nat.le_self_pow (by omega) 2))
        have hge : ¬ j < n + 1 := by omega
        simp [hout, hge]

/-! ### Readings of a field -/

theorem signed_eq_toInt (n x : Nat) : signed n x = (BitVec.ofNat n x).toInt := by
  rw [BitVec.toInt_eq_toNat_cond, BitVec.toNat_ofNat]
  rfl

/-! ### Words as integers modulo 2^64 -/

/-- A word is the pattern of its unsigned reading. -/
theorem ofInt_toNat (x : Word) : BitVec.ofInt 64 (x.toNat : Int) = x := by
  rw [BitVec.ofInt_natCast, BitVec.ofNat_toNat, BitVec.setWidth_eq]

/-- A word whose unsigned reading is known is the pattern of that number. -/
theorem eq_ofInt_of_toNat_eq {x : Word} {n : Nat} (h : x.toNat = n) : x = BitVec.ofInt 64 (n : Int) := by
  rw [← h, ofInt_toNat]

theorem eq_ofInt_of_toInt_eq {x : Word} {z : Int} (h : x.toInt = z) : x = BitVec.ofInt 64 z := by
  rw [← h, BitVec.ofInt_toInt]

theorem ofNat_eq_ofInt (n : Nat) : BitVec.ofNat 64 n = BitVec.ofInt 64 (n : Int) := (BitVec.ofInt_natCast 64 n).symm

theorem ofInt_sub_toNat (x y : Word) : BitVec.ofInt 64 ((x.toNat : Int) - y.toNat) = x - y := by
  rw [Int.sub_eq_add_neg, BitVec.ofInt_add, BitVec.ofInt_neg, ofInt_toNat, ofInt_toNat, BitVec.sub_eq_add_neg]

namespace Machine

/-! ### Sums and products (R100) -/

theorem add_eq_ofInt (x y : Word) : x + y = BitVec.ofInt 64 (x.toNat + y.toNat) := by
  rw [BitVec.ofInt_add, ofInt_toNat, ofInt_toNat]

theorem mul_eq_ofInt (x y : Word) : x * y = BitVec.ofInt 64 (x.toNat * y.toNat) := by
  rw [BitVec.ofInt_mul, ofInt_toNat, ofInt_toNat]

theorem mulHighUnsigned_eq_ofInt (x y : Word) :
    mulHighUnsigned x y = BitVec.ofInt 64 ((x.toNat : Int) * y.toNat / 2 ^ 64) :=
  ofNat_eq_ofInt _

/-! ### Quotients and remainders (R101) -/

/-- The unsigned reading tells zero, as the rules of R101 ask it. -/
theorem toNat_cast_eq_zero_iff (y : Word) : (y.toNat : Int) = 0 ↔ y = 0 := by
  rw [Int.natCast_eq_zero, ← BitVec.toNat_inj]
  rfl

theorem allOnes_eq_ofInt : BitVec.allOnes 64 = BitVec.ofInt 64 (-1) := by decide

theorem divSigned_eq_ofInt (x y : Word) :
    divSigned x y = BitVec.ofInt 64 (if (y.toNat : Int) = 0 then -1 else x.toInt.tdiv y.toInt) := by
  simp only [divSigned, toNat_cast_eq_zero_iff, allOnes_eq_ofInt, apply_ite (BitVec.ofInt 64)]
  rfl

theorem divUnsigned_eq_ofInt (x y : Word) :
    divUnsigned x y = BitVec.ofInt 64 (if (y.toNat : Int) = 0 then -1 else (x.toNat : Int) / y.toNat) := by
  simp only [divUnsigned, toNat_cast_eq_zero_iff, allOnes_eq_ofInt, apply_ite (BitVec.ofInt 64), ofNat_eq_ofInt,
    Int.natCast_ediv]

theorem remSigned_eq_ofInt (x y : Word) :
    remSigned x y = BitVec.ofInt 64 (if (y.toNat : Int) = 0 then (x.toNat : Int) else x.toInt.tmod y.toInt) := by
  simp only [remSigned, toNat_cast_eq_zero_iff, apply_ite (BitVec.ofInt 64), ofInt_toNat]
  rfl

theorem remUnsigned_eq_ofInt (x y : Word) :
    remUnsigned x y = BitVec.ofInt 64 (if (y.toNat : Int) = 0 then (x.toNat : Int) else (x.toNat : Int) % y.toNat) := by
  simp only [remUnsigned, toNat_cast_eq_zero_iff, apply_ite (BitVec.ofInt 64), ofInt_toNat, ofNat_eq_ofInt,
    Int.natCast_emod]

/-! ### Logic (R100) -/

theorem and_eq_ofInt (x y : Word) : x &&& y = BitVec.ofInt 64 (x.toNat &&& y.toNat : Nat) :=
  eq_ofInt_of_toNat_eq (BitVec.toNat_and x y)

theorem or_eq_ofInt (x y : Word) : x ||| y = BitVec.ofInt 64 (x.toNat ||| y.toNat : Nat) :=
  eq_ofInt_of_toNat_eq (BitVec.toNat_or x y)

theorem xor_eq_ofInt (x y : Word) : x ^^^ y = BitVec.ofInt 64 (x.toNat ^^^ y.toNat : Nat) :=
  eq_ofInt_of_toNat_eq (BitVec.toNat_xor x y)

theorem andNot_eq_ofInt (x y : Word) : x &&& ~~~y = BitVec.ofInt 64 (x.toNat &&& (2 ^ 64 - 1 - y.toNat) : Nat) := by
  rw [and_eq_ofInt, BitVec.toNat_not]

theorem orNot_eq_ofInt (x y : Word) : x ||| ~~~y = BitVec.ofInt 64 (x.toNat ||| (2 ^ 64 - 1 - y.toNat) : Nat) := by
  rw [or_eq_ofInt, BitVec.toNat_not]

/-! ### Shifts and rotations (R100, R102) -/

theorem shiftLeft_eq_ofInt (x : Word) (n : Nat) : shiftLeft x n = BitVec.ofInt 64 ((x.toNat : Int) * (2 ^ n : Nat)) := by
  rw [← Int.natCast_mul, ← ofNat_eq_ofInt]
  apply BitVec.eq_of_toNat_eq
  rw [shiftLeft, BitVec.toNat_shiftLeft, Nat.shiftLeft_eq, BitVec.toNat_ofNat]

theorem shiftRight_eq_ofInt (x : Word) (n : Nat) : shiftRight x n = BitVec.ofInt 64 ((x.toNat : Int) / (2 ^ n : Nat)) := by
  rw [← Int.natCast_ediv]
  exact eq_ofInt_of_toNat_eq (by rw [shiftRight, BitVec.toNat_ushiftRight, Nat.shiftRight_eq_div_pow])

theorem shiftArith_eq_ofInt (x : Word) (n : Nat) : shiftArith x n = BitVec.ofInt 64 (x.toInt / (2 ^ n : Nat)) :=
  eq_ofInt_of_toInt_eq (by rw [shiftArith, BitVec.toInt_sshiftRight, Int.shiftRight_eq_div_pow])

/-- The two parts of a rotation share no bit, so their union is their sum. -/
theorem rotateLeft_eq_ofInt (x : Word) (n : Nat) :
    rotateLeft x n = BitVec.ofInt 64 ((x.toNat : Int) * (2 ^ n : Nat) + (x.toNat : Int) / (2 ^ (64 - n) : Nat)) := by
  have hdisjoint : x <<< n &&& x >>> (64 - n) = 0#64 := by
    ext i hi
    simp only [BitVec.getElem_and, BitVec.getElem_shiftLeft, BitVec.getElem_ushiftRight, BitVec.getElem_zero]
    by_cases hn : i < n
    · simp [hn]
    · simp [BitVec.getLsbD_of_ge x (64 - n + i) (by omega)]
  rw [rotateLeft, ← BitVec.add_eq_or_of_and_eq_zero _ _ hdisjoint, BitVec.ofInt_add, ← shiftLeft_eq_ofInt,
    ← shiftRight_eq_ofInt]
  rfl

/-! ### Minima, maxima and choice (R100) -/

theorem minSigned_eq_ofInt (x y : Word) : minSigned x y = BitVec.ofInt 64 (min x.toInt y.toInt) := by
  simp only [minSigned, Int.min_def, apply_ite (BitVec.ofInt 64), BitVec.ofInt_toInt]

theorem maxSigned_eq_ofInt (x y : Word) : maxSigned x y = BitVec.ofInt 64 (max x.toInt y.toInt) := by
  simp only [maxSigned, max_comm x.toInt, Int.max_def, apply_ite (BitVec.ofInt 64), BitVec.ofInt_toInt, ge_iff_le]

theorem minUnsigned_eq_ofInt (x y : Word) : minUnsigned x y = BitVec.ofInt 64 (min (x.toNat : Int) y.toNat) := by
  simp only [minUnsigned, Int.min_def, apply_ite (BitVec.ofInt 64), ofInt_toNat, Int.ofNat_le]

theorem maxUnsigned_eq_ofInt (x y : Word) : maxUnsigned x y = BitVec.ofInt 64 (max (x.toNat : Int) y.toNat) := by
  simp only [maxUnsigned, max_comm (x.toNat : Int), Int.max_def, apply_ite (BitVec.ofInt 64), ofInt_toNat, ge_iff_le,
    Int.ofNat_le]

theorem select_eq_ofInt (x y z : Word) :
    (if z ≠ 0 then x else y) = BitVec.ofInt 64 (if (z.toNat : Int) ≠ 0 then (x.toNat : Int) else y.toNat) := by
  simp only [ne_eq, toNat_cast_eq_zero_iff, apply_ite (BitVec.ofInt 64), ofInt_toNat]

/-! ### Counts and reversal (R100) -/

theorem leadingZeros_eq_ofInt (x : Word) : leadingZeros x =
    BitVec.ofInt 64 (((List.range 64).takeWhile fun j => !x.getLsbD (63 - j)).length : Nat) := by
  rw [leadingZeros, sub_bitLength_eq_length 64 x.toNat x.isLt, ofNat_eq_ofInt]
  rfl

theorem trailingZerosW_eq_ofInt (x : Word) : trailingZerosW x =
    BitVec.ofInt 64 (((List.range 64).takeWhile fun j => !x.getLsbD j).length : Nat) := by
  rw [trailingZerosW, trailingZeros_eq_length, ofNat_eq_ofInt]
  rfl

theorem onesOf_eq_ofInt (x : Word) :
    onesOf x = BitVec.ofInt 64 (((List.range 64).countP fun j => x.getLsbD j) : Nat) := by
  rw [onesOf, popCount_eq_countP, ofNat_eq_ofInt]
  rfl

theorem reverseW_eq_reverse (x : Word) : reverseW x = x.reverse := by
  apply BitVec.eq_of_getLsbD_eq
  intro i hi
  rw [reverseW, BitVec.getLsbD_ofNat, testBit_bitReverse, BitVec.getLsbD_reverse, BitVec.getMsbD, BitVec.testBit_toNat]
  simp [hi]

theorem reverseW_eq_ofInt (x : Word) : reverseW x = BitVec.ofInt 64 (x.reverse.toNat : Nat) := by
  rw [reverseW_eq_reverse, ofInt_toNat]

/-! ### Conditions (Table 04-2) -/

theorem condInt_eq_ccHolds (c : Nat) (x y : Word) : condInt 64 c x.toNat y.toNat = ccHolds c x y := by
  have hs : ∀ z : Word, signed 64 z.toNat = z.toInt := fun z => by
    rw [signed_eq_toInt, BitVec.ofNat_toNat, BitVec.setWidth_eq]
  have hb : (x.toNat == y.toNat) = (x == y) := by
    rw [Bool.eq_iff_iff, beq_iff_eq, beq_iff_eq, BitVec.toNat_inj]
  unfold condInt
  simp only [hs]
  match c with
  | 0 => exact hb
  | 1 => exact congrArg (!·) hb
  | 2 => rfl
  | 3 => rfl
  | 4 => rfl
  | 5 => rfl
  | 6 => rfl
  | 7 => rfl
  | 8 => rfl
  | 9 => rfl
  | _ + 10 => rfl

theorem boolWord_eq_ofInt (b : Bool) : boolWord b = BitVec.ofInt 64 (if b then 1 else 0) := by
  cases b <;> rfl

theorem compare_eq_ofInt (c : Nat) (x y : Word) :
    boolWord (condInt 64 c x.toNat y.toNat) = BitVec.ofInt 64 (if ccHolds c x y then 1 else 0) := by
  rw [condInt_eq_ccHolds, boolWord_eq_ofInt]

/-! ### Pointer sums (R104) -/

theorem isSpread_toNat (x : Word) : isSpread x.toNat = decide (x.toNat / 2 ^ 61 = 7) := by
  have hx : x.toNat / 2 ^ 61 % 8 = x.toNat / 2 ^ 61 := Nat.mod_eq_of_lt (by have := x.isLt; omega)
  rw [isSpread, selector, hx]
  rfl

theorem addp_eq_addpRule (x : Word) (y : Int) : (addp x.toNat y : Int) = addpRule x y := by
  unfold addp addpRule
  simp only [isSpread_toNat, unsigned, decide_eq_true_eq]
  split <;> omega

theorem addp_eq_ofInt (x y : Word) :
    BitVec.ofNat 64 (addp x.toNat y.toInt) = BitVec.ofInt 64 (addpRule x y.toInt) := by
  rw [ofNat_eq_ofInt, addp_eq_addpRule]

/-! ### Bit fields (R103) -/

theorem extract_eq_toNat (x : Word) (l p : Nat) : extract x l p = (BitVec.ofNat (l + 1) (x.toNat / 2 ^ p)).toNat :=
  (BitVec.toNat_ofNat _ _).symm

theorem extractSigned_eq_ofInt (x : Word) (l p : Nat) :
    extractSigned x l p = BitVec.ofInt 64 (BitVec.ofNat (l + 1) (x.toNat / 2 ^ p)).toInt := by
  rw [extractSigned, ofInt, signed_eq_toInt, extract_eq_toNat, BitVec.ofNat_toNat, BitVec.setWidth_eq]

theorem extractUnsigned_eq_ofInt (x : Word) (l p : Nat) :
    BitVec.ofNat 64 (extract x l p) = BitVec.ofInt 64 ((BitVec.ofNat (l + 1) (x.toNat / 2 ^ p)).toNat : Nat) := by
  rw [extract_eq_toNat, ofNat_eq_ofInt]

/-- A number without a field of `l` bits at `p` is what stands above the field and what stands below it. -/
theorem sub_field_eq (x l p : Nat) :
    x - field x p l * 2 ^ p = x / 2 ^ (p + l) * 2 ^ (p + l) + x % 2 ^ p := by
  have hlow : x / 2 ^ p * 2 ^ p + x % 2 ^ p = x := Nat.div_add_mod' x (2 ^ p)
  have hhigh : x / 2 ^ p / 2 ^ l * 2 ^ l + x / 2 ^ p % 2 ^ l = x / 2 ^ p := Nat.div_add_mod' _ _
  have hsplit : x / 2 ^ (p + l) * 2 ^ (p + l) + field x p l * 2 ^ p = x / 2 ^ p * 2 ^ p := by
    rw [field, Nat.pow_add, ← Nat.div_div_eq_div_mul, Nat.mul_comm (2 ^ p), ← Nat.mul_assoc, ← Nat.add_mul, hhigh]
  omega

theorem insertField_eq_ofInt (old x : Word) (l p : Nat) :
    insertField old x l p = BitVec.ofInt 64 (old.toNat / 2 ^ (p + l + 1) * 2 ^ (p + l + 1) +
      x.toNat % 2 ^ (l + 1) * 2 ^ p + old.toNat % 2 ^ p : Nat) := by
  rw [insertField, extract, sub_field_eq, Nat.add_right_comm, ofNat_eq_ofInt, Nat.add_assoc p]

/-! ### Immediates (R64, R84, R102) -/

theorem Strand.immediate_eq_immOf (k : Strand) (w x : Nat) : k.immediate w x = k.immOf w x := by
  unfold Strand.immediate Strand.immOf
  cases k.imm <;> exact signed_eq_toInt _ _

theorem addImmediate_eq_ofInt (k : Strand) (y : Word) (w x : Nat) :
    y + ofInt (k.immediate w x) = BitVec.ofInt 64 (y.toNat + k.immOf w x) := by
  rw [k.immediate_eq_immOf, BitVec.ofInt_add, ofInt_toNat, ofInt]

theorem andImmediate_eq_ofInt (k : Strand) (y : Word) (w x : Nat) : y &&& ofInt (k.immediate w x) =
    BitVec.ofInt 64 (y.toNat &&& (BitVec.ofInt 64 (k.immOf w x)).toNat : Nat) := by
  rw [k.immediate_eq_immOf, and_eq_ofInt, ofInt]

theorem orImmediate_eq_ofInt (k : Strand) (y : Word) (w x : Nat) : y ||| ofInt (k.immediate w x) =
    BitVec.ofInt 64 (y.toNat ||| (BitVec.ofInt 64 (k.immOf w x)).toNat : Nat) := by
  rw [k.immediate_eq_immOf, or_eq_ofInt, ofInt]

theorem xorImmediate_eq_ofInt (k : Strand) (y : Word) (w x : Nat) : y ^^^ ofInt (k.immediate w x) =
    BitVec.ofInt 64 (y.toNat ^^^ (BitVec.ofInt 64 (k.immOf w x)).toNat : Nat) := by
  rw [k.immediate_eq_immOf, xor_eq_ofInt, ofInt]

theorem compareImmediate_eq_ofInt (k : Strand) (c : Nat) (y : Word) (w x : Nat) :
    boolWord (condInt 64 c y.toNat (ofInt (k.immediate w x)).toNat) =
      BitVec.ofInt 64 (if ccHolds c y (BitVec.ofInt 64 (k.immOf w x)) then 1 else 0) := by
  rw [k.immediate_eq_immOf, compare_eq_ofInt, ofInt]

theorem highImmediate_eq_ofInt (x : Nat) : BitVec.ofNat 64 (x * 2 ^ 42) = BitVec.ofInt 64 ((x : Int) * 2 ^ 42) := by
  rw [ofNat_eq_ofInt, Int.natCast_mul, Nat.cast_pow, Nat.cast_ofNat]

/-! ### The rows of the tables -/

/-- An instruction with a row in the integer tables is an arithmetic word of the row's destination and sources, and the word it
computes is the row's result. -/
theorem exec_eq_alu_of_integerRule {k : Strand} {i : Instr} {d : Nat} {srcs : List Nat} {v : Int}
    (h : integerRule k i = some (d, srcs, v)) :
    ∃ f : Strand → Word, (∀ s, exec i s = alu i d srcs f s) ∧ f k = BitVec.ofInt 64 v := by
  cases i with
  | add d a b => cases h; exact ⟨_, fun _ => rfl, add_eq_ofInt _ _⟩
  | sub d a b => cases h; exact ⟨_, fun _ => rfl, (ofInt_sub_toNat _ _).symm⟩
  | mul d a b => cases h; exact ⟨_, fun _ => rfl, mul_eq_ofInt _ _⟩
  | mulh d a b => cases h; exact ⟨_, fun _ => rfl, rfl⟩
  | mulhn d a b => cases h; exact ⟨_, fun _ => rfl, mulHighUnsigned_eq_ofInt _ _⟩
  | div d a b => cases h; exact ⟨_, fun _ => rfl, divSigned_eq_ofInt _ _⟩
  | divn d a b => cases h; exact ⟨_, fun _ => rfl, divUnsigned_eq_ofInt _ _⟩
  | rem d a b => cases h; exact ⟨_, fun _ => rfl, remSigned_eq_ofInt _ _⟩
  | remn d a b => cases h; exact ⟨_, fun _ => rfl, remUnsigned_eq_ofInt _ _⟩
  | and d a b => cases h; exact ⟨_, fun _ => rfl, and_eq_ofInt _ _⟩
  | or d a b => cases h; exact ⟨_, fun _ => rfl, or_eq_ofInt _ _⟩
  | xor d a b => cases h; exact ⟨_, fun _ => rfl, xor_eq_ofInt _ _⟩
  | andn d a b => cases h; exact ⟨_, fun _ => rfl, andNot_eq_ofInt _ _⟩
  | orn d a b => cases h; exact ⟨_, fun _ => rfl, orNot_eq_ofInt _ _⟩
  | shl d a b => cases h; exact ⟨_, fun _ => rfl, shiftLeft_eq_ofInt _ _⟩
  | shr d a b => cases h; exact ⟨_, fun _ => rfl, shiftRight_eq_ofInt _ _⟩
  | sha d a b => cases h; exact ⟨_, fun _ => rfl, shiftArith_eq_ofInt _ _⟩
  | rot d a b => cases h; exact ⟨_, fun _ => rfl, rotateLeft_eq_ofInt _ _⟩
  | min d a b => cases h; exact ⟨_, fun _ => rfl, minSigned_eq_ofInt _ _⟩
  | max d a b => cases h; exact ⟨_, fun _ => rfl, maxSigned_eq_ofInt _ _⟩
  | minn d a b => cases h; exact ⟨_, fun _ => rfl, minUnsigned_eq_ofInt _ _⟩
  | maxn d a b => cases h; exact ⟨_, fun _ => rfl, maxUnsigned_eq_ofInt _ _⟩
  | clz d a => cases h; exact ⟨_, fun _ => rfl, leadingZeros_eq_ofInt _⟩
  | ctz d a => cases h; exact ⟨_, fun _ => rfl, trailingZerosW_eq_ofInt _⟩
  | popc d a => cases h; exact ⟨_, fun _ => rfl, onesOf_eq_ofInt _⟩
  | brev d a => cases h; exact ⟨_, fun _ => rfl, reverseW_eq_ofInt _⟩
  | mov d a => cases h; exact ⟨_, fun _ => rfl, (ofInt_toNat _).symm⟩
  | sel d a b c => cases h; exact ⟨_, fun _ => rfl, select_eq_ofInt _ _ _⟩
  | addp d a b => cases h; exact ⟨_, fun _ => rfl, addp_eq_ofInt _ _⟩
  | cmp d a b c => cases h; exact ⟨_, fun _ => rfl, compare_eq_ofInt c _ _⟩
  | ext d a l p => cases h; exact ⟨_, fun _ => rfl, extractSigned_eq_ofInt _ l p⟩
  | extn d a l p => cases h; exact ⟨_, fun _ => rfl, extractUnsigned_eq_ofInt _ l p⟩
  | ins d a l p => cases h; exact ⟨_, fun _ => rfl, insertField_eq_ofInt _ _ l p⟩
  | addi d a x => cases h; exact ⟨_, fun _ => rfl, addImmediate_eq_ofInt k _ 18 x⟩
  | andi d a x => cases h; exact ⟨_, fun _ => rfl, andImmediate_eq_ofInt k _ 18 x⟩
  | ori d a x => cases h; exact ⟨_, fun _ => rfl, orImmediate_eq_ofInt k _ 18 x⟩
  | xori d a x => cases h; exact ⟨_, fun _ => rfl, xorImmediate_eq_ofInt k _ 18 x⟩
  | shli d a n => cases h; exact ⟨_, fun _ => rfl, shiftLeft_eq_ofInt _ n⟩
  | shri d a n => cases h; exact ⟨_, fun _ => rfl, shiftRight_eq_ofInt _ n⟩
  | shai d a n => cases h; exact ⟨_, fun _ => rfl, shiftArith_eq_ofInt _ n⟩
  | lih d x => cases h; exact ⟨_, fun _ => rfl, highImmediate_eq_ofInt x⟩
  | cmpi d a c x => cases h; exact ⟨_, fun _ => rfl, compareImmediate_eq_ofInt k c _ 14 x⟩
  | _ => cases h

end Machine

end Sys2Proof

namespace Sys2Proof.Settled
open Sys2Proof.Machine

/-- Settles O1: a row's instruction is an arithmetic word, which with clean sources writes the word it computes, and that word
is the row's result modulo 2^64. -/
theorem integerResults : Obligations.IntegerResults := by
  unfold Obligations.IntegerResults
  intro s sid k i d srcs v hrow hissues hclean
  obtain ⟨f, hexec, hvalue⟩ := exec_eq_alu_of_integerRule hrow
  rw [hexec, alu_of_clean f hissues hclean, hvalue]

end Sys2Proof.Settled
end

section
/-! Branches, jumps and calls (R118 to R120): where each goes when nothing stands in its way. -/

namespace Sys2Proof.Machine

/-! ### Targets (R64) -/

/-- The address, modulo 2^64, as many words from `base` as an offset field of `n` bits says. -/
def targetRule (base n o : Nat) : Nat := ((base + 4 * (BitVec.ofNat n o).toInt : Int) % 2 ^ 64).toNat

theorem unsigned_add_signed_eq_targetRule (base n o : Nat) :
    unsigned 64 ((base : Int) + 4 * signed n o) = targetRule base n o := by
  rw [unsigned, targetRule, signed_eq_toInt, Nat.cast_pow, Nat.cast_ofNat]

theorem Strand.target_eq_targetRule (k : Strand) (n o : Nat) : k.target n o = targetRule k.pc n o :=
  unsigned_add_signed_eq_targetRule k.pc n o

/-! ### Each instruction's own flow -/

section
variable {s : State} {sid : Nat} {k : Strand}

theorem exec_br_of_clean {c a o : Nat} (h : Issues s sid k (.br c a o) [a] []) (hc : AllClean k [a]) :
    exec (.br c a o) s = .next (s.putStrand sid
      (if ccHolds c (k.val a) 0 then k.jump (targetRule k.pc 18 o) else k.advance)) := by
  have hcond : condInt 64 c (k.nat a) 0 = ccHolds c (k.val a) 0 := condInt_eq_ccHolds c (k.val a) 0
  change execBr c a o s = _
  rw [execBr, issue_of_issues h, withClean_of_clean hc, hcond, k.target_eq_targetRule, retire_eq]
  split <;> rfl

theorem exec_brc_of_clean {c a o : Nat} (h : Issues s sid k (.brc c a o) [a] [a]) (hc : AllClean k [a]) :
    exec (.brc c a o) s = .next (s.putStrand sid
      (if ccHolds c (k.val a - 1) 0 then (k.writeG a (k.val a - 1)).jump (targetRule k.pc 18 o)
        else (k.writeG a (k.val a - 1)).advance)) := by
  have hcond : condInt 64 c (k.val a - 1).toNat 0 = ccHolds c (k.val a - 1) 0 := condInt_eq_ccHolds c (k.val a - 1) 0
  change execBrc c a o s = _
  rw [execBrc, issue_of_issues h, withClean_of_clean hc]
  dsimp only
  rw [hcond, k.target_eq_targetRule, retire_eq]
  split <;> rfl

theorem exec_jmp_of_issues {o : Nat} (h : Issues s sid k (.jmp o) [] []) :
    exec (.jmp o) s = .next (s.putStrand sid (k.jump (targetRule k.pc 26 o))) := by
  change execJmp o s = _
  rw [execJmp, issue_of_issues h, k.target_eq_targetRule]

theorem exec_call_of_issues {o : Nat} (h : Issues s sid k (.call o) [] [15]) :
    exec (.call o) s = .next (s.putStrand sid
      ((k.writeG 15 (BitVec.ofNat 64 (k.pc + 4))).jump (targetRule k.pc 26 o))) := by
  change execCall o s = _
  rw [execCall, issue_of_issues h, k.target_eq_targetRule]

theorem exec_jr_of_clean {a o : Nat} (h : Issues s sid k (.jr a o) [a] []) (hc : AllClean k [a]) :
    exec (.jr a o) s = if targetRule (k.nat a) 18 o % 4 ≠ 0 then .next (trap s sid causeAlignment)
      else .next (returnFrom s sid (targetRule (k.nat a) 18 o)) := by
  change execJr a o s = _
  rw [execJr, issue_of_issues h, withClean_of_clean hc, unsigned_add_signed_eq_targetRule]

end

end Sys2Proof.Machine

namespace Sys2Proof.Settled
open Sys2Proof.Machine

/-- Settles O12: one clause per instruction, each the instruction's own flow once it issues with clean sources; the two
clauses of `JR` are the two sides of its alignment check. -/
theorem branches : Obligations.Branches := by
  unfold Obligations.Branches
  intro s sid k
  refine ⟨fun c a o => exec_br_of_clean, fun c a o => exec_brc_of_clean, fun o => exec_jmp_of_issues,
    fun o => exec_call_of_issues, ?jr⟩
  case jr =>
    intro a o hissues hclean
    have hexec := exec_jr_of_clean hissues hclean
    exact ⟨fun haligned => hexec.trans (if_neg (not_not_intro haligned)),
      fun hmisaligned => hexec.trans (if_pos hmisaligned)⟩

end Sys2Proof.Settled
end

section
/-! Atomics and claims (R315 to R322): what issuing one does, what its home reads and writes, and what it answers. -/

namespace Sys2Proof.Machine

/-! ### Reads of clean ranges (R29, R347) -/

theorem unitBase_mem_unitsOf {key n b : Nat}
    (hspace : key + n ≤ scratchBase ∨ (scratchBase ≤ key ∧ key + n ≤ storageBase)) (hlow : key ≤ b)
    (hhigh : b < key + n) : unitBase b ∈ unitsOf key n := by
  have hn : n ≠ 0 := by omega
  have hsize : ∀ x, key ≤ x → x < key + n → unitSize x = unitSize key := by
    intro x hx hx'
    have hside : (x < scratchBase ∨ storageBase ≤ x) ↔ (key < scratchBase ∨ storageBase ≤ key) := by
      simp only [scratchBase, storageBase] at hspace ⊢
      omega
    simp only [unitSize, hside]
  have hlast : unitSize (key + n - 1) = unitSize key := hsize _ (by omega) (by omega)
  have hm : unitSize key = 32 ∨ unitSize key = 8 := by
    unfold unitSize
    split <;> simp
  rw [unitsOf, if_neg hn, List.mem_map]
  refine ⟨b / unitSize key - key / unitSize key, ?_, ?_⟩
  · rw [List.mem_range, unitBase, unitBase, alignDown, alignDown, hlast]
    rcases hm with hm | hm <;> rw [hm] <;> omega
  · rw [unitBase, unitBase, alignDown, alignDown, hsize b hlow hhigh]
    rcases hm with hm | hm <;> rw [hm] <;> omega

theorem firstCode_of_clean {p : Prot} {us : List Nat} (h : ∀ u ∈ us, unitCode p u = none) : firstCode p us = none := by
  induction us with
  | nil => rfl
  | cons u us ih =>
    rw [firstCode, h u List.mem_cons_self]
    exact ih fun v hv => h v (List.mem_cons_of_mem u hv)

theorem readRange_of_unspoiled {s : State} {key n : Nat}
    (h : ∀ b, key ≤ b → b < key + n → spoiled s.prot (unitBase b) = false) :
    readRange s key n = s.mem.readBytes key n := by
  induction n generalizing key with
  | zero => rfl
  | succ n ih =>
    have hbyte : readByte s key = s.mem.read key := by
      rw [readByte, h key (Nat.le_refl key) (by omega)]
      rfl
    rw [readRange, Memory.readBytes, hbyte, ih fun b hb hb' => h b (by omega) (by omega)]

theorem noteDamage_of_undamaged {s : State} {ctx key n : Nat} (h : ∀ u ∈ unitsOf key n, Tab.find s.prot.damage u = none) :
    noteDamage s ctx key n = s := by
  unfold noteDamage
  generalize unitsOf key n = us at h
  induction us with
  | nil => rfl
  | cons u us ih =>
    have hunit : noteUnit ctx s u = s := by rw [noteUnit, h u List.mem_cons_self]
    rw [List.foldl_cons, hunit]
    exact ih fun v hv => h v (List.mem_cons_of_mem u hv)

section
variable {s : State} {l : Loc} {n : Nat}

theorem CleanRange.unit_clean (h : CleanRange s l n) {u : Nat} (hu : u ∈ unitsOf l.key n) :
    Tab.find s.prot.poison u = none ∧ Tab.find s.prot.damage u = none := by
  obtain ⟨-, -, hunits⟩ := h
  have hclean := List.all_eq_true.1 hunits u hu
  simpa only [Tab.has, Bool.and_eq_true, Bool.not_eq_true', Option.isSome_eq_false_iff, Option.isNone_iff_eq_none]
    using hclean

theorem CleanRange.unspoiled (h : CleanRange s l n) {u : Nat} (hu : u ∈ unitsOf l.key n) : spoiled s.prot u = false := by
  simp [spoiled, (h.unit_clean hu).2]

theorem CleanRange.unitCode_eq_none (h : CleanRange s l n) {u : Nat} (hu : u ∈ unitsOf l.key n) :
    unitCode s.prot u = none := by
  simp [unitCode, (h.unit_clean hu).1, h.unspoiled hu]

theorem noteDamage_of_clean (h : CleanRange s l n) (ctx : Nat) : noteDamage s ctx l.key n = s :=
  noteDamage_of_undamaged fun _ hu => (h.unit_clean hu).2

/-- A read of a clean range delivers memory's bytes and no code. -/
theorem readLoc_of_clean (h : CleanRange s l n) (hpath : pathOpen s l.pkg = true) :
    readLoc s l n = ⟨s.mem.readBytes l.key n, none⟩ := by
  have hbytes : readRange s l.key n = s.mem.readBytes l.key n :=
    readRange_of_unspoiled fun b hlow hhigh => h.unspoiled (unitBase_mem_unitsOf h.2.1 hlow hhigh)
  have hcode : firstCode s.prot (unitsOf l.key n) = none := firstCode_of_clean fun u hu => h.unitCode_eq_none hu
  simp [readLoc, readAt, hpath, h.1, hbytes, hcode]

end

/-! ### Reads that meet poison (R320, R347) -/

theorem unitsOf_eq_cons {key n : Nat} (hn : 0 < n) : ∃ us, unitsOf key n = unitBase key :: us := by
  rw [unitsOf, if_neg (Nat.pos_iff_ne_zero.1 hn), List.range_succ_eq_map, List.map_cons, Nat.zero_mul, Nat.add_zero]
  exact ⟨_, rfl⟩

theorem readLoc_code_of_poison {s : State} {l : Loc} {n : Nat} {c : Code} (hn : 0 < n) (hpath : pathOpen s l.pkg = true)
    (hpage : l.poisoned = false) (hpoison : Tab.find s.prot.poison (unitBase l.key) = some c) :
    (readLoc s l n).code = some c := by
  obtain ⟨us, hus⟩ := unitsOf_eq_cons (key := l.key) hn
  simp [readLoc, readAt, hpath, hpage, hus, firstCode, unitCode, hpoison]

/-! ### What noting an error leaves -/

section
variable {β : Type} {f : State → β}

theorem snapTrigger_keeps (hsys : ∀ s x, f (s.setSys x) = f s) (s : State) : f (snapTrigger s) = f s := by
  unfold snapTrigger
  split
  · exact hsys s _
  · split
    · rfl
    · exact hsys s _

theorem logFray_keeps (hsys : ∀ s x, f (s.setSys x) = f s) (s : State) (kind : Nat) (code : Code)
    (ctx scope addr detail : Nat) : f (logFray s kind code ctx scope addr detail) = f s := by
  unfold logFray
  dsimp only
  repeat' split
  all_goals simp only [snapTrigger_keeps hsys, hsys]

/-- Noting what a read finds changes the system's log and the protection's damage and counts, and no poison. -/
theorem noteUnit_keeps (hsys : ∀ s x, f (s.setSys x) = f s)
    (hprot : ∀ s p, p.poison = s.prot.poison → f (s.setProt p) = f s) (ctx : Nat) (s : State) (u : Nat) :
    f (noteUnit ctx s u) = f s := by
  have hrow : f (noteRow s u) = f s := by
    unfold noteRow
    split
    · rfl
    · exact hprot s _ rfl
  have hreported := fun p hp => (hprot (noteRow s u) p hp).trans hrow
  unfold noteUnit
  split
  · dsimp only
    split
    · rw [logFray_keeps hsys]
      exact hreported _ rfl
    · exact hreported _ rfl
  · exact hprot s _ rfl
  · rfl

theorem noteDamage_keeps (hsys : ∀ s x, f (s.setSys x) = f s)
    (hprot : ∀ s p, p.poison = s.prot.poison → f (s.setProt p) = f s) (s : State) (ctx key n : Nat) :
    f (noteDamage s ctx key n) = f s := by
  unfold noteDamage
  generalize unitsOf key n = us
  induction us generalizing s with
  | nil => rfl
  | cons u us ih => rw [List.foldl_cons, ih, noteUnit_keeps hsys hprot]

end

@[simp] theorem noteDamage_nextId (s : State) (ctx key n : Nat) : (noteDamage s ctx key n).nextId = s.nextId :=
  noteDamage_keeps (fun _ _ => rfl) (fun _ _ _ => rfl) s ctx key n

@[simp] theorem noteDamage_poison (s : State) (ctx key n : Nat) :
    (noteDamage s ctx key n).prot.poison = s.prot.poison :=
  noteDamage_keeps (f := fun s => s.prot.poison) (fun _ _ => rfl) (fun _ _ h => h) s ctx key n

@[simp] theorem noteDamage_pathOpen (s : State) (ctx key n pkg : Nat) :
    pathOpen (noteDamage s ctx key n) pkg = pathOpen s pkg :=
  noteDamage_keeps (f := fun s => pathOpen s pkg) (fun _ _ => rfl) (fun _ _ _ => rfl) s ctx key n

/-! ### The number of the next item in flight across a write (R204, R223) -/

@[simp] theorem wakeWaita_nextId (s : State) (m : Monitor) (how : Woken) : (wakeWaita s m how).nextId = s.nextId := by
  unfold wakeWaita
  split
  · rfl
  · repeat' split
    all_goals rfl

@[simp] theorem wakeMonitors_nextId (a b : State) : (wakeMonitors a b).nextId = b.nextId := by
  unfold wakeMonitors
  generalize b.sync.monitors.filter _ = ms
  induction ms generalizing b with
  | nil => rfl
  | cons m ms ih => rw [List.foldl_cons, ih, wakeWaita_nextId]

theorem sends_nextId {β : Type} (l : List β) (f : β → Flight) (s : State) :
    (l.foldl (fun s x => s.send (f x)) s).nextId = s.nextId + l.length := by
  induction l generalizing s with
  | nil => rfl
  | cons x l ih => rw [List.foldl_cons, ih, State.send_nextId, List.length_cons, Nat.add_assoc, Nat.add_comm 1]

theorem stampWrite_nextId_ge (s : State) (die sid : Nat) (w : Nat → MemWrite) :
    s.nextId ≤ (stampWrite s die sid w).nextId := by
  unfold stampWrite
  dsimp only
  rw [sends_nextId]
  exact Nat.le_add_right _ _

@[simp] theorem dropRange_nextId (s : State) (which : Nat → Bool) (key n : Nat) :
    (dropRange s which key n).nextId = s.nextId := by
  unfold dropRange
  split <;> rfl

theorem uncache_nextId_ge (s : State) (w : MemWrite) : s.nextId ≤ (uncache s w).nextId := by
  unfold uncache
  dsimp only
  split
  · exact Nat.le_refl _
  · split
    · rw [dropRange_nextId]
    · split
      · refine Nat.le_trans (Nat.le_of_eq ?_) (stampWrite_nextId_ge _ _ _ _)
        rw [dropRange_nextId]
      · rw [dropRange_nextId]

/-- No cluster caches a scratchpad or a buffer (R26). -/
theorem uncache_of_scratch {s : State} {w : MemWrite} (h : scratchBase ≤ w.key) : uncache s w = s :=
  if_pos (.inl h)

@[simp] theorem rawWrite_clean_nextId (s : State) (key : Nat) (bs : List Byte) :
    (rawWrite s ⟨key, bs, none⟩).nextId = s.nextId := rfl

@[simp] theorem untag_mem (s : State) (ctx quad off n : Nat) : (untag s ctx quad off n).mem = s.mem := by
  unfold untag
  split <;> rfl

@[simp] theorem untag_nextId (s : State) (ctx quad off n : Nat) : (untag s ctx quad off n).nextId = s.nextId := by
  unfold untag
  split <;> rfl

@[simp] theorem writeHome_mem (s : State) (w : MemWrite) : (writeHome s w).mem = (rawWrite s w).mem := by
  unfold writeHome
  dsimp only
  split <;> simp

theorem writeHome_nextId (s : State) (w : MemWrite) : (writeHome s w).nextId = (writeAt s w).nextId := by
  unfold writeHome
  dsimp only
  split <;> simp

theorem writeHome_nextId_ge (s : State) (key : Nat) (bs : List Byte) :
    s.nextId ≤ (writeHome s ⟨key, bs, none⟩).nextId := by
  rw [writeHome_nextId, writeAt]
  refine Nat.le_trans (Nat.le_of_eq ?_) (uncache_nextId_ge _ _)
  rw [wakeMonitors_nextId, rawWrite_clean_nextId]

theorem writeHome_nextId_of_scratch {key : Nat} (h : scratchBase ≤ key) (s : State) (bs : List Byte) :
    (writeHome s ⟨key, bs, none⟩).nextId = s.nextId := by
  rw [writeHome_nextId, writeAt, uncache_of_scratch h, wakeMonitors_nextId, rawWrite_clean_nextId]

/-! ### The operation (Table 15-6, R317, R318, R321) -/

/-- The operation the home computes is the table's: only a compare that fails writes nothing (R317). -/
theorem atomicRule_eq_atomicNew {op n : Nat} (hop : op < 12) (hclaim : op = 11 → n = 8) (x y e : Nat) :
    atomicRule op n x y e = if op = 9 ∧ x ≠ e then none else some (atomicNew op (8 * n) x y) := by
  match op with
  | 0 => rfl
  | 1 => simp [atomicRule, atomicNew, signed_eq_toInt]
  | 2 => simp [atomicRule, atomicNew, signed_eq_toInt]
  | 3 => simp [atomicRule, atomicNew, Nat.min_def]
  | 4 =>
    have hmax : (if y ≤ x then x else y) = max x y := by rw [max_comm, Nat.max_def]
    exact congrArg some hmax
  | 5 => rfl
  | 6 => rfl
  | 7 => rfl
  | 8 => rfl
  | 9 => by_cases h : x = e <;> simp [atomicRule, atomicNew, h]
  | 10 => rfl
  | 11 => rw [hclaim rfl]; rfl
  | _ + 12 => omega

/-- A request that its home performs on clean data: an operation of the table at the width it has there, with a clean operand,
no poison to write and no taint to withhold. -/
structure Atomic.Plain (a : Atomic) : Prop where
  op_lt : a.op < 12
  claim_width : a.op = 11 → a.width = 8
  poison_eq : a.poison = none
  withhold_eq : a.withhold = none
  operand_clean : a.frayedOperand = false

/-- The state after the operation's write, where it writes. -/
def atomicWrite (s : State) (a : Atomic) : State :=
  match atomicRule a.op a.width (numberAt s a.loc.key a.width) a.y a.expect with
  | some v => writeHome s ⟨a.loc.key, leBytes a.width v, none⟩
  | none => s

/-- The old value, zero-extended, for the destination (R315). -/
def oldValue (s : State) (a : Atomic) : Fill := ⟨a.reg, BitVec.ofNat 64 (numberAt s a.loc.key a.width), false, 0⟩

theorem atomicAnswer_eq (s : State) (a : Atomic) (pkg : Nat) : atomicAnswer s a pkg =
    .atomicRet a.sid a.gen (oldValue s a) (atomicFlags a.op (numberAt s a.loc.key a.width) a.y) pkg := rfl

theorem atomicWrite_mem (s : State) (a : Atomic) : (atomicWrite s a).mem = atomicMem s a := by
  rw [atomicWrite, atomicMem]
  cases atomicRule a.op a.width (numberAt s a.loc.key a.width) a.y a.expect with
  | some v => exact writeHome_mem s _
  | none => rfl

theorem atomicWrite_nextId_ge (s : State) (a : Atomic) : s.nextId ≤ (atomicWrite s a).nextId := by
  unfold atomicWrite
  split
  · exact writeHome_nextId_ge s _ _
  · exact Nat.le_refl _

theorem atomicWrite_nextId_of_scratch {a : Atomic} (h : scratchBase ≤ a.loc.key) (s : State) :
    (atomicWrite s a).nextId = s.nextId := by
  unfold atomicWrite
  split
  · exact writeHome_nextId_of_scratch h s _
  · rfl

/-- On clean data an operation reads the old value and writes the new one in the same instant (R316). -/
theorem performAtomic_of_clean {s : State} {a : Atomic} (hpath : pathOpen s a.loc.pkg = true)
    (hclean : CleanRange s a.loc a.width) (ha : a.Plain) : performAtomic s a =
      (atomicWrite s a, oldValue s a, atomicFlags a.op (numberAt s a.loc.key a.width) a.y) := by
  have hrule := atomicRule_eq_atomicNew ha.op_lt ha.claim_width (numberAt s a.loc.key a.width) a.y a.expect
  have hold : leNat (s.mem.readBytes a.loc.key a.width) = numberAt s a.loc.key a.width := rfl
  unfold performAtomic
  rw [atomicWrite, hrule]
  simp only [hpath, noteDamage_of_clean hclean, readLoc_of_clean hclean hpath, ha.poison_eq, ha.withhold_eq,
    ha.operand_clean, hold]
  by_cases hfails : a.op = 9 ∧ numberAt s a.loc.key a.width ≠ a.expect
  · simp [hfails, oldValue, atomicFlags]
  · simp [hfails, oldValue]

/-- An operation that meets poison writes nothing, and its result is frayed with the poison's code (R320). -/
theorem performAtomic_of_poison {s : State} {a : Atomic} {c : Code} (hpath : pathOpen s a.loc.pkg = true)
    (hwidth : 0 < a.width) (hpage : a.loc.poisoned = false) (hpoison : Tab.find s.prot.poison (unitBase a.loc.key) = some c) :
    ∃ t x, performAtomic s a = (t, ⟨a.reg, x, true, c⟩, 0) ∧ t.mem = s.mem ∧ t.nextId = s.nextId := by
  have hcode : (readLoc (noteDamage s (a.sid / 32768) a.loc.key a.width) a.loc a.width).code = some c :=
    readLoc_code_of_poison hwidth (by rwa [noteDamage_pathOpen]) hpage (by rwa [noteDamage_poison])
  refine ⟨(noteDamage s (a.sid / 32768) a.loc.key a.width).nextFree,
    BitVec.ofNat 64 (leNat (readLoc (noteDamage s (a.sid / 32768) a.loc.key a.width) a.loc a.width).bytes), ?_,
    noteDamage_mem .., noteDamage_nextId ..⟩
  simp [performAtomic, hpath, hcode]

/-! ### Results on their way (R315, R322) -/

section
variable (s : State) (a : Atomic) (fill : Fill) (fl : Fp.Flags) (pkg : Nat)

/-- A result is sent from the state itself, or from one whose cluster an acquire has purged (R228). -/
theorem returnResult_eq_send : ∃ t : State, returnResult s a fill fl pkg = t.send (.atomicRet a.sid a.gen fill fl pkg) ∧
    t.mem = s.mem ∧ t.nextId = s.nextId := by
  unfold returnResult
  dsimp only
  split
  · split
    · exact ⟨_, rfl, rfl, rfl⟩
    · exact ⟨_, rfl, rfl, rfl⟩
  · exact ⟨_, rfl, rfl, rfl⟩

@[simp] theorem returnResult_mem : (returnResult s a fill fl pkg).mem = s.mem := by
  obtain ⟨t, h, hmem, -⟩ := returnResult_eq_send s a fill fl pkg
  rw [h, State.send_mem, hmem]

@[simp] theorem returnResult_nextId : (returnResult s a fill fl pkg).nextId = s.nextId + 1 := by
  obtain ⟨t, h, -, hnext⟩ := returnResult_eq_send s a fill fl pkg
  rw [h, State.send_nextId, hnext]

@[simp] theorem find_returnResult : Tab.find (returnResult s a fill fl pkg).flights s.nextId =
    some (.atomicRet a.sid a.gen fill fl pkg) := by
  obtain ⟨t, h, -, hnext⟩ := returnResult_eq_send s a fill fl pkg
  rw [h, State.send_flights, hnext, Tab.find_put_self]

end

@[simp] theorem atomicReply_mem (s : State) (id : Nat) (f : Flight) (pkg : Nat) (fill : Fill) (fl : Fp.Flags) :
    (atomicReply s id f pkg fill fl).mem = s.mem := by
  cases f with
  | claim c => rfl
  | atomic a parked => exact returnResult_mem ..
  | _ => rfl

theorem find_atomicReply_atomic (s : State) (id : Nat) (a : Atomic) (parked : Bool) (pkg : Nat) (fill : Fill)
    (fl : Fp.Flags) : Tab.find (atomicReply s id (.atomic a parked) pkg fill fl).flights s.nextId =
      some (.atomicRet a.sid a.gen fill fl pkg) := find_returnResult (s.delFlight id) a fill fl pkg

theorem find_atomicReply_claim (s : State) (id : Nat) (c : Combined) (pkg : Nat) (fill : Fill) (fl : Fp.Flags) :
    Tab.find (atomicReply s id (.claim c) pkg fill fl).flights id = some (.claimReply c fill) :=
  Tab.find_put_self ..

/-! ### At the home (R316 to R321) -/

theorem learn_eq_setSync (s : State) (reader : Nat) (l : Loc) : ∃ y, learn s reader l = s.setSync y := by
  unfold learn
  split
  · exact ⟨s.sync, rfl⟩
  · exact ⟨_, rfl⟩

/-- A request at a home that can perform it now is performed there, once its issuer's die has seen what the home has. -/
theorem exec_atomicAtHome_of_atItsHome {s : State} {id : Nat} {f : Flight} {a : Atomic} (h : AtItsHome s id f a) :
    ∃ y, ∀ r, performAtomic (s.setSync y) a = r →
      exec (.atomicAtHome id) s = .next (atomicReply r.1 id f a.loc.pkg r.2.1 r.2.2) := by
  obtain ⟨hfind, hkind, hplace, hpath, hparks, hlost, hserves, hturn, -⟩ := h
  obtain ⟨y, hlearn⟩ := learn_eq_setSync s (issuerDie s a.sid) a.loc
  refine ⟨y, fun r hr => ?_⟩
  have hhome : atomicHome s id f a = atomicReply r.1 id f a.loc.pkg r.2.1 r.2.2 := by
    unfold atomicHome
    simp only [hplace]
    simp [hpath, hparks, hserves, hturn, performHome, hlost, hlearn, hr]
  change execAtomicAtHome id s = _
  rcases hkind with rfl | ⟨c, rfl, hstage, rfl⟩
  · simp only [execAtomicAtHome, hfind, hhome]
  · simp only [execAtomicAtHome, hfind, hstage, if_true, hhome]

/-! ### Issue (R315, R321, R322) -/

/-- Each form of an atomic or claim issues by the shared flow, at a width field that its bytes give; a claim's are eight. -/
theorem exec_eq_atomicIssue_of_atomicForm {i : Instr} {op order d a b n r : Nat} {c : Option Nat}
    (h : atomicForm i = some (op, order, d, a, b, c, n, r)) :
    op < 12 ∧ (op = 11 → n = 8) ∧ ∃ w, n = 4 * 2 ^ w ∧ (fits i = true → w < 2) ∧
      ∀ s, exec i s = atomicIssue i op order d a b c w r s := by
  have hwidth : ∀ {p q : Bool} {w : Nat}, (p && decide (w < 2) && q) = true → w < 2 := by
    intro p q w h
    simp only [Bool.and_eq_true, decide_eq_true_eq] at h
    exact h.1.2
  cases i with
  | amoAdd o d a b w r => cases h; exact ⟨by decide, nofun, w, rfl, hwidth, fun _ => rfl⟩
  | amoMin o d a b w r => cases h; exact ⟨by decide, nofun, w, rfl, hwidth, fun _ => rfl⟩
  | amoMax o d a b w r => cases h; exact ⟨by decide, nofun, w, rfl, hwidth, fun _ => rfl⟩
  | amoMinn o d a b w r => cases h; exact ⟨by decide, nofun, w, rfl, hwidth, fun _ => rfl⟩
  | amoMaxn o d a b w r => cases h; exact ⟨by decide, nofun, w, rfl, hwidth, fun _ => rfl⟩
  | amoAnd o d a b w r => cases h; exact ⟨by decide, nofun, w, rfl, hwidth, fun _ => rfl⟩
  | amoOr o d a b w r => cases h; exact ⟨by decide, nofun, w, rfl, hwidth, fun _ => rfl⟩
  | amoXor o d a b w r => cases h; exact ⟨by decide, nofun, w, rfl, hwidth, fun _ => rfl⟩
  | amoSwap o d a b w r => cases h; exact ⟨by decide, nofun, w, rfl, hwidth, fun _ => rfl⟩
  | amoc o d a b c w r => cases h; exact ⟨by decide, nofun, w, rfl, hwidth, fun _ => rfl⟩
  | amof o d a b r => cases h; exact ⟨by decide, nofun, 0, rfl, fun _ => Nat.two_pos, fun _ => rfl⟩
  | claim o d a b r => cases h; exact ⟨by decide, fun _ => rfl, 1, rfl, fun _ => Nat.one_lt_two, fun _ => rfl⟩
  | _ => cases h

theorem Issues.fits {s : State} {sid : Nat} {k : Strand} {i : Instr} {reads dests : List Nat}
    (h : Issues s sid k i reads dests) : fits i = true := by
  obtain ⟨-, -, hlegal, -⟩ := h
  rw [unitLegal, Bool.and_eq_true, Bool.and_eq_true] at hlegal
  exact hlegal.1.1

theorem firstFray_cons_eq_none_iff {k : Strand} {r : Nat} {rs : List Nat} :
    firstFray k (r :: rs) = none ↔ firstFray k [r] = none ∧ firstFray k rs = none := by
  by_cases h : (k.g r).fray = true <;> simp [firstFray, h]

/-- An access that releases nothing, or a release that is ready, untainted and has lost no write, goes on, and carries no
taint (R227, R231, R354). -/
theorem release_goes_on {s : State} {sid : Nat} {k : Strand} {order r : Nat}
    (h : 2 ≤ order → k.st.t = false ∧ releaseReady s sid k r = true ∧ (r = 4 → k.lost = [])) :
    (decide (2 ≤ order) && !releaseReady s sid k r) = false ∧
      (decide (2 ≤ order) && r == 4 && lostAny k) = false ∧ (decide (2 ≤ order) && k.st.t) = false := by
  by_cases horder : 2 ≤ order
  · obtain ⟨htaint, hready, hlost⟩ := h horder
    have hkept : (r == 4 && lostAny k) = false := by
      by_cases hr : r = 4
      · simp [lostAny, hlost hr]
      · simp [hr]
    exact ⟨by simp [hready], by rw [Bool.and_assoc, hkept, Bool.and_false], by simp [htaint]⟩
  · simp [horder]

/-- With clean operands and nothing that a release waits for or carries, the destination empties and the request of the
operands sets out: at once on the core's own scratchpad, through the combining stages for a claim of memory, else by itself. -/
theorem atomicIssue_of_clean {s : State} {sid : Nat} {k : Strand} {i : Instr} {op order d a b w r : Nat} {c : Option Nat}
    {l : Loc} (hw : w < 2) (hissues : Issues s sid k i (a :: b :: c.toList) [d])
    (hclean : AllClean k (a :: b :: c.toList))
    (hrelease : 2 ≤ order → k.st.t = false ∧ releaseReady s sid k r = true ∧ (r = 4 → k.lost = []))
    (hlocal : LocalAt s sid k (k.nat a) (4 * 2 ^ w) (4 * 2 ^ w) 3 l) :
    let x := atomicRequest s sid k op order d a b c (4 * 2 ^ w) r l
    let s1 := s.putStrand sid (k.await d).advance
    atomicIssue i op order d a b c w r s = .next (if scratchBase ≤ l.key ∧ vccOf s k = none then ownReply s1 x
      else if op = 11 ∧ l.key < scratchBase then s1.send (.claim ⟨x, k.core, 0, []⟩) else s1.send (.atomic x false)) := by
  obtain ⟨hpointer, hoperands⟩ := firstFray_cons_eq_none_iff.1 hclean
  obtain ⟨hready, hlost, htaint⟩ := release_goes_on hrelease
  have hbytes : (if w = 1 then 8 else 4) = 4 * 2 ^ w := by
    match w, hw with
    | 0, _ => rfl
    | 1, _ => rfl
  have hneed : needRd ||| needWr = 3 := rfl
  cases c
  all_goals
    simp only [Option.toList] at hissues hoperands
    unfold atomicIssue
    rw [hbytes]
    dsimp only
    rw [issue_of_issues hissues, withClean_of_clean hpointer, hneed, withAccess_of_local hlocal]
    simp only [hready, hlost, htaint, hoperands, Bool.false_and, memberWay]
    by_cases hpad : scratchBase ≤ l.key
    · cases vccOf s k with
      | none => simp [hpad, atomicRequest, pageOf, Way.loc]
      | some v => simp [hpad, atomicRequest, pageOf, Way.loc, stagedClaim, Nat.not_lt.2 hpad]
    · by_cases hclaim : op = 11
      · simp [hpad, atomicRequest, pageOf, Way.loc, stagedClaim, Nat.not_le.1 hpad, hclaim]
      · simp [hpad, atomicRequest, pageOf, Way.loc, stagedClaim, hclaim]

theorem exec_of_atomicForm {s : State} {sid : Nat} {k : Strand} {i : Instr} {op order d a b n r : Nat} {c : Option Nat}
    {l : Loc} (hform : atomicForm i = some (op, order, d, a, b, c, n, r))
    (hissues : Issues s sid k i (a :: b :: c.toList) [d]) (hclean : AllClean k (a :: b :: c.toList))
    (hrelease : 2 ≤ order → k.st.t = false ∧ releaseReady s sid k r = true ∧ (r = 4 → k.lost = []))
    (hlocal : LocalAt s sid k (k.nat a) n n 3 l) :
    let x := atomicRequest s sid k op order d a b c n r l
    let s1 := s.putStrand sid (k.await d).advance
    exec i s = .next (if scratchBase ≤ l.key ∧ vccOf s k = none then ownReply s1 x
      else if op = 11 ∧ l.key < scratchBase then s1.send (.claim ⟨x, k.core, 0, []⟩) else s1.send (.atomic x false)) := by
  obtain ⟨-, -, w, rfl, hwidth, hexec⟩ := exec_eq_atomicIssue_of_atomicForm hform
  rw [hexec]
  exact atomicIssue_of_clean (hwidth hissues.fits) hissues hclean hrelease hlocal

theorem Atomic.Plain.of_atomicForm {i : Instr} {op order d a b n r : Nat} {c : Option Nat}
    (h : atomicForm i = some (op, order, d, a, b, c, n, r)) (s : State) (sid : Nat) (k : Strand) (l : Loc) :
    (atomicRequest s sid k op order d a b c n r l).Plain := by
  obtain ⟨hop, hclaim, -⟩ := exec_eq_atomicIssue_of_atomicForm h
  exact ⟨hop, hclaim, rfl, rfl, rfl⟩

/-! ### The three ways an operation is performed -/

/-- An operation on the issuer's own scratchpad, on clean data (R213, R316). -/
theorem ownReply_of_clean {s : State} {a : Atomic} (hpad : scratchBase ≤ a.loc.key) (hpkg : a.loc.pkg = s.pkg)
    (hclean : CleanRange s a.loc a.width) (ha : a.Plain) :
    (ownReply s a).mem = atomicMem s a ∧ Tab.find (ownReply s a).flights s.nextId = some (atomicAnswer s a s.pkg) ∧
      s.nextId < (ownReply s a).nextId := by
  have hpath : pathOpen s a.loc.pkg = true := by simp [pathOpen, hpkg]
  have hnext : (atomicWrite s a).nextId = s.nextId := atomicWrite_nextId_of_scratch hpad s
  rw [ownReply, performAtomic_of_clean hpath hclean ha]
  refine ⟨?mem, ?answer, ?next⟩
  case mem => rw [returnResult_mem, atomicWrite_mem]
  case answer => rw [← hnext, find_returnResult, atomicAnswer_eq]
  case next =>
    rw [returnResult_nextId, hnext]
    exact Nat.lt_succ_self _

section
variable {s : State} {id : Nat} {f : Flight} {a : Atomic}

/-- An operation at its home, on clean data (R316 to R318, R321, R322). -/
theorem exec_atomicAtHome_of_clean (hhome : AtItsHome s id f a) (hclean : CleanRange s a.loc a.width) (ha : a.Plain) :
    ∃ t, exec (.atomicAtHome id) s = .next t ∧ t.mem = atomicMem s a ∧
      (f = .atomic a false → ∃ j, s.nextId ≤ j ∧ Tab.find t.flights j = some (atomicAnswer s a a.loc.pkg)) ∧
      ∀ c, f = .claim c → Tab.find t.flights id = some (.claimReply c (oldValue s a)) := by
  obtain ⟨y, hexec⟩ := exec_atomicAtHome_of_atItsHome hhome
  obtain ⟨-, -, -, hpath, -⟩ := hhome
  have hdone := performAtomic_of_clean (s := s.setSync y) hpath hclean ha
  refine ⟨_, hexec _ hdone, ?mem, ?answer, ?reply⟩
  case mem =>
    rw [atomicReply_mem, atomicWrite_mem]
    rfl
  case answer =>
    rintro rfl
    exact ⟨_, atomicWrite_nextId_ge (s.setSync y) a, find_atomicReply_atomic ..⟩
  case reply =>
    rintro c rfl
    exact find_atomicReply_claim ..

/-- An operation at its home that meets poison (R320). -/
theorem exec_atomicAtHome_of_poison {c : Code} (hhome : AtItsHome s id f a) (hpage : a.loc.poisoned = false)
    (hpoison : Tab.find s.prot.poison (unitBase a.loc.key) = some c) :
    ∃ t x, exec (.atomicAtHome id) s = .next t ∧ t.mem = s.mem ∧
      (f = .atomic a false → Tab.find t.flights s.nextId = some (.atomicRet a.sid a.gen ⟨a.reg, x, true, c⟩ 0 a.loc.pkg)) ∧
      ∀ d, f = .claim d → Tab.find t.flights id = some (.claimReply d ⟨a.reg, x, true, c⟩) := by
  obtain ⟨y, hexec⟩ := exec_atomicAtHome_of_atItsHome hhome
  obtain ⟨-, -, -, hpath, -, -, -, -, hwidth⟩ := hhome
  obtain ⟨t, x, hdone, hmem, hnext⟩ := performAtomic_of_poison (s := s.setSync y) hpath hwidth hpage hpoison
  refine ⟨_, x, hexec _ hdone, ?mem, ?answer, ?reply⟩
  case mem =>
    rw [atomicReply_mem, hmem]
    rfl
  case answer =>
    rintro rfl
    rw [show s.nextId = t.nextId from hnext.symm]
    exact find_atomicReply_atomic ..
  case reply =>
    rintro d rfl
    exact find_atomicReply_claim ..

end

end Sys2Proof.Machine

namespace Sys2Proof.Settled
open Sys2Proof.Machine

/-- Settles O9: the issue of each form, the operation on the own scratchpad, and the operation at a home on clean data and
on poison. -/
theorem atomicsReadAndWrite : Obligations.AtomicsReadAndWrite := by
  unfold Obligations.AtomicsReadAndWrite
  refine ⟨?issue, ?home, ?poison⟩
  case issue =>
    intro s sid k i op order d a b n r c l hform hissues hclean hrelease hlocal x s1
    refine ⟨exec_of_atomicForm hform hissues hclean hrelease hlocal, fun hpad hrange => ?_⟩
    obtain ⟨-, -, -, hpkg, -⟩ := hlocal
    exact ownReply_of_clean (s := s1) (a := x) hpad hpkg hrange (.of_atomicForm hform s sid k l)
  case home =>
    intro s id f a hhome hpoison hwithhold hoperand hop _ hclaim _ hrange
    exact exec_atomicAtHome_of_clean hhome hrange ⟨hop, hclaim, hpoison, hwithhold, hoperand⟩
  case poison =>
    intro s id f a c
    exact exec_atomicAtHome_of_poison

end Sys2Proof.Settled
end
